-- ==== Sys2Proof/Word.lean ====
section
/-!
DEFINITION. The word types of the VX940 (00_scope R3; 12_encoding R281): 64-bit registers, bytes and 32-bit parcels.
-/
namespace Sys2Proof

/-- A 64-bit register or address. -/
abbrev Word := BitVec 64
/-- One byte of memory. -/
abbrev Byte := BitVec 8
/-- One 32-bit instruction parcel (R281). -/
abbrev Parcel := BitVec 32

end Sys2Proof
end

