-- ==== Sys2Proof/Syntax.lean ====
section
/-!
DEFINITION. The steps of the VX940: the 216 instruction forms of Dexbivin (12_encoding R281 to R290, 13, 14, 15) and the
112 events of the opcode table. One constructor of `Instr` for each row of spec/opcode_table.json. Register fields are the
raw field values; an event's operands are what the outside world or an open choice supplies.
-/
namespace Sys2Proof

/-- A 5-bit register field (R283, R288). -/
abbrev Reg := BitVec 5

/-- The first source of a 64-bit instruction, by K1 (R289). -/
inductive Src1 where
  | v (r : Reg)            -- K1 = 0
  | x (r : Reg)            -- K1 = 1
  | imm (i : BitVec 16)    -- K1 = 2
  | ds (p : BitVec 3)      -- K1 = 3
  deriving DecidableEq, Repr

/-- The governing mask (R289): UM = 1, or UM = 0 with MREG. -/
inductive VMask where
  | unmasked
  | masked (m : BitVec 3)
  deriving DecidableEq, Repr

/-- An x register or an immediate, for the forms whose K1 is 1 or 2. -/
inductive XOrImm where
  | x (r : Reg)
  | imm (i : BitVec 16)
  deriving DecidableEq, Repr

/-- A vector register group or an x register, for the forms whose K1 is 0 or 1. -/
inductive VOrX where
  | v (r : Reg)
  | x (r : Reg)
  deriving DecidableEq, Repr

/-- The target of VST (R351): memory or a write stream. -/
inductive StDst where
  | mem (xb : Reg) (e : BitVec 16)
  | ds (p : BitVec 3)
  deriving DecidableEq, Repr

/-- An operand of MOPA and MOPS (R382): a register group or a link queue. -/
inductive MOperand where
  | v (r : Reg)
  | lq (q : Reg)
  deriving DecidableEq, Repr

/-- The kind of an update at a memory home (R322, R369, R370). -/
inductive AtomOp where
  | add | and | or | xor | min | max | minu | maxu | swap | cas | fadd | fmin | fmax
  deriving DecidableEq, Repr

/-- A remote request as it travels in class REQ (R29, R31). `dat` holds the bytes stored or the operand, `cmp` a compare value. -/
inductive ReqKind where
  | read
  | write
  | atomic (op : AtomOp)
  deriving DecidableEq, Repr

/-- A remote load, store or atomic (R31): the offset is PA[38:0] at the target; `hops` counts the routers it has passed, the
sender's among them (R24). -/
structure RemoteReq where
  kind   : ReqKind
  src    : Nat
  tenant : Nat
  tag    : Nat
  off    : Nat
  width  : Nat
  dat    : Nat
  cmp    : Nat
  hops   : Nat := 1
  /-- SRCCORE (R24) -/
  core   : Nat := 0xFF
  deriving DecidableEq, Repr

/-- A response (R29, R34): read data of `width` bytes, a completion, or an error response, from a chip to the request of a tag. -/
structure RemoteRsp where
  tag      : Nat
  ok       : Bool
  poisoned : Bool := false
  dat      : Nat := 0
  width    : Nat := 0
  src      : Nat := 0
  tenant   : Nat := 0
  hops     : Nat := 1
  /-- flags that an FP update without an answer raised (R264) -/
  flags    : Nat := 0
  deriving DecidableEq, Repr

/-- One (index, value) pair of VSCATACC on its way to its owner (R41, R42). -/
structure PairMsg where
  src    : Nat
  tenant : Nat
  off    : Nat
  width  : Nat
  fp     : Bool
  v      : Nat
  tag    : Nat
  hops   : Nat := 1
  core   : Nat := 0xFF
  deriving DecidableEq, Repr

/-- Link-queue control messages (R46). -/
inductive LqKind where
  | bind | bindack | nack | unbind | away | awayack | back | credit
  deriving DecidableEq, Repr

/-- A link-queue control message (R29, R46): the sender's chip, direction and key, the key it addresses, FREE, the tenant
it carries, and whether it came through a port (R33). -/
structure LqMsg where
  chip   : Nat
  dir    : Bool
  key    : Nat
  pkey   : Nat
  free   : Nat
  tenant : Nat
  viaPort : Bool
  /-- source tag, by which an error response names the message (R24, R33) -/
  tag    : Nat
  /-- routers passed (R24); none inside one device -/
  hops   : Nat := 1
  core   : Nat := 0xFF
  deriving DecidableEq, Repr

/-- A tile message (R47): header fields, whether its reserved fields are zero, and payload. `skey` is the sending
endpoint's key, which the transport knows from the binding (log 11). -/
structure TileMsg where
  key    : Nat
  rows   : Nat
  cols   : Nat
  fmt    : Nat
  bytes  : Nat
  zeroOk : Bool
  data   : List Byte
  chip   : Nat
  skey   : Nat
  tenant : Nat
  viaPort : Bool
  tag    : Nat
  hops   : Nat := 1
  core   : Nat := 0xFF
  deriving DecidableEq, Repr

/-- A multicast message (R35, R37, R38): group, offset in the landing zone, bytes, source, tenant, hops and virtual channel. -/
structure McastMsg where
  group  : Nat
  off    : Nat
  data   : List Byte
  src    : Nat
  tenant : Nat
  hops   : Nat
  vc     : Bool := false
  core   : Nat := 0xFF
  /-- the hart that issued it, by slot, 0 from another device -/
  slot   : Nat := 0
  tag    : Nat := 0
  deriving DecidableEq, Repr

/-- A unicast message in transit at a router (R28, R29), with its payload. -/
structure Transit where
  mclass : Nat
  dest   : Nat
  src    : Nat
  tenant : Nat
  hops   : Nat
  tag    : Nat
  core   : Nat := 0xFF
  data   : List Byte := []
  deriving DecidableEq, Repr

/-- The header of a flit but for its CRC (R24). -/
structure FlitHdr where
  seq    : Nat
  ackseq : Nat
  nak    : Bool
  mclass : Nat
  vc     : Bool
  first  : Bool
  last   : Bool
  dest   : Nat
  src    : Nat
  core   : Nat
  tenant : Nat
  hops   : Nat
  nflit  : Nat
  tag    : Nat
  deriving DecidableEq, Repr

/-- A flit on the wire: header, 240 payload bytes and CRC (R24). -/
structure WireFlit where
  hdr     : FlitHdr
  payload : List Byte
  crc     : BitVec 32
  deriving DecidableEq, Repr

/-- A message that a port has received whole (R29). -/
inductive Arrival where
  | request (r : RemoteReq)
  | pairs (ps : List PairMsg)
  | response (r : RemoteRsp)
  | lq (k : LqKind) (m : LqMsg)
  | tile (m : TileMsg)
  | mcast (m : McastMsg)
  | transit (m : Transit)
  deriving DecidableEq, Repr

/-- A flit as a port receives it (R24, R25) after FEC decoding: the codewords corrected and uncorrectable, and the message that
its flit marked LAST completes. -/
structure Flit where
  wire   : WireFlit
  corr   : Nat
  uncorr : Nat
  msg    : Option Arrival
  deriving DecidableEq, Repr

/-- What rail telemetry and the activity counters measure (R109, R117, R125), in watts and microjoules. -/
structure Telemetry where
  avg1   : Nat
  avg10  : Nat
  die0   : Nat
  die1   : Nat
  dev    : Nat
  /-- energy of the core and DRAM rails, and the part of it that idle domains used -/
  core   : Nat
  idle   : Nat
  deriving DecidableEq, Repr

/-- Where an error was detected (R186, R237). -/
inductive ErrSite where
  | dram (line : Nat) (correctable : Bool)
  | homeLine (line : Nat) (correctable : Bool)
  | dcache (core line : Nat) (correctable : Bool)
  | icache (core line : Nat)
  | vreg (slot elem : Nat) (correctable : Bool)
  | acc (slot elem : Nat) (correctable : Bool)
  | tlb (index : Nat)
  | walk (index : Nat)
  | table (invariant : Bool)
  | hartState
  deriving DecidableEq, Repr

/-- Why a port leaves UP (R26). -/
inductive RetrainCause where
  | replays | blockLock | uncorrectable
  deriving DecidableEq, Repr

/-- On whose behalf crews are pre-empted (R98): a READY head, by launch, or a crew that waits to return. -/
inductive PreemptWhy where
  | waiter (launch : Nat)
  | returning (crew : Nat)
  deriving DecidableEq, Repr

/-- What an event of the opcode table brings with it: the operands the outside world or an open choice supplies. The step
IMPRECISE_TRAP has none and is taken by the hart itself. -/
inductive Input where
  -- power-on and package (01_package)
  | vauxUp
  | powerOnStep (vrPg : BitVec 8) (lost : BitVec 8)
  | powerOnStop (lost : BitVec 8)
  | perstNDeassert
  | perstNAssert
  | hostLinkTrained
  | linkTrainingTimeout
  /-- `size`: a write of the Resizable BAR control of BAR4, 0 for 1 GiB to 9 for 512 GiB -/
  | configurationRequest (fn : Nat) (size : Option (BitVec 4))
  | thermalTrip
  | stackTripComparator (stack : Nat)
  | vrAlert
  | powerOff (vrPg : BitVec 8)
  | dynamicAddressAssign (addr : BitVec 7)
  -- mailbox and attestation (03 R74 to R77)
  | extend (side : Bool) (arg : BitVec 8) (len : BitVec 13)
  | raisesvn (side : Bool) (value : BitVec 32)
  | writeclass (side : Bool)
  | readclass (side : Bool)
  | mailboxCommandEnd (flashOk : Bool)
  | getVersion
  | getCapabilities
  | negotiateAlgorithms
  | getDigests
  | getCertificate
  | challenge (nonce : List Byte)
  | getMeasurements
  | spdmUnsupportedRequest
  -- host accesses (03, 04, 07)
  | launchPacket (fn port : Nat) (whole : Bool) (words : List Word)
  | bar4Read (fn off len : Nat)
  | bar4Write (fn off : Nat) (bytes : List Byte)
  | counterWrite (fn n : Nat) (v : BitVec 32)
  | counterAdd (fn n : Nat) (v : BitVec 32)
  | functionLevelResetVf (fn : Nat)
  | functionLevelResetPf
  | hostApertureResponse (tag : Nat) (ok : Bool) (dat : Nat)
  | resume (fn launch : Nat)
  | abort (fn launch : Nat) (done : Bool)
  | preempt (fn launch : Nat)
  | schedulerCommandEnd (fn : Nat)
  | fqresume (fn crew launch : Nat)
  | fqdata0Read (fn : Nat)
  | ixdropRead
  | faultAddressQueueRead (stack : Nat)
  | enlq (fn : Nat) (v : Word)
  | tlbinvTenant (tenant : Nat)
  | tlbinvAsid (tenant asid : Nat)
  | tlbinvPage (tenant asid : Nat)
  | invalidationComplete
  | bpladd (frame : BitVec 22)
  | bplFlashWriteDone (ok : Bool)
  | admindown (port : Nat) (v : Bool)
  | clrcnt (port : Nat)
  | wayreq (stack : Nat) (ways : BitVec 16)
  | registerWrite (fn off : Nat) (v : Word)
  -- fabric (02)
  | linkPortTrained (port : Nat) (width : BitVec 2)
  | flitReceive (port : Nat) (f : Flit)
  | retrain (port : Nat) (why : RetrainCause)
  | portDown (port : Nat)
  | routerForward (m : Transit)
  | remoteRequest (r : RemoteReq)
  | remoteResponse (r : RemoteRsp)
  | multicastMessage (inPort : Nat) (m : McastMsg)
  | scatterPair (p : PairMsg)
  | bind (m : LqMsg)
  | bindack (m : LqMsg)
  | nack (m : LqMsg)
  | unbind (m : LqMsg)
  | bindResend (crew q : Nat)
  | tileMessage (m : TileMsg)
  | creditReturn (m : LqMsg)
  | away (m : LqMsg)
  | awayack (m : LqMsg)
  | back (m : LqMsg)
  -- scheduler (04)
  | crewPlacement (launch : Nat) (pick : Nat) (dieZero : Bool)
  | zeroCountLaunch (launch : Nat)
  | crewEnd (crew : Nat)
  | launchCompletion (launch : Nat)
  | preemption (core : Nat) (why : PreemptWhy)
  | contextSaveDone (crew : Nat)
  | crewRestore (crew core : Nat)
  | fairnessQuantum
  | ageingThreshold (launch : Nat)
  | watchdogExpiry (crew : Nat)
  -- governor (05)
  | energyCalibration (t : Telemetry) (shares : List (Nat × Nat))
  | energyCap (launch : Nat)
  | tenantBudgetExhausted (tenant : Nat)
  | tenantBudgetInterval (tenant : Nat)
  | capLevelRaise
  | capLevelLower
  | ballastStep
  | sensorSample (raw : List (BitVec 16)) (t : Telemetry)
  | sensorReturnValid (n : Nat)
  | safePointExit (die : Bool)
  | safeCeilingStep (die : Bool)
  | thermalCeilingStep (die : Bool)
  | criticalTimeout (die : Bool)
  | droopResponse (core : Nat)
  | dramRetraining (stack pch : Nat)
  -- memory and engines (06, 07, 08, 10, 15)
  | dramScrub (stack : Nat) (found : List (Nat × Bool))
  | eccError (site : ErrSite)
  | cacheEviction (core line : Nat)
  | fatalError (cause : BitVec 16) (source : BitVec 16)
  | dumpComplete (truncated : Bool)
  | mopaComplete (slot : Nat)
  | copyPageRegister (slot ch : Nat)
  | copyComplete (slot ch : Nat)
  | copyChannelFault (slot ch : Nat)
  | streamRetire (slot : Nat) (port : BitVec 3)
  | mergeCheckpoint (core : Nat)
  | mergePassEnd (core : Nat)
  deriving DecidableEq, Repr

/-- The steps of the part, one constructor for each row of spec/opcode_table.json: the 216 instruction forms, the two
failing steps of fetch and decode, then the 110 further events, whose operands stand in `Machine.State.input`. -/
inductive Instr where
  -- convoy (06 R144 to R147, 12 R287)
  | convoy (header : Parcel) (members : List (BitVec 64))
  -- OP (13 R308)
  | add (rd rs1 rs2 : Reg)
  | sub (rd rs1 rs2 : Reg)
  | and (rd rs1 rs2 : Reg)
  | or (rd rs1 rs2 : Reg)
  | xor (rd rs1 rs2 : Reg)
  | sll (rd rs1 rs2 : Reg)
  | srl (rd rs1 rs2 : Reg)
  | sra (rd rs1 rs2 : Reg)
  | slt (rd rs1 rs2 : Reg)
  | sltu (rd rs1 rs2 : Reg)
  | min (rd rs1 rs2 : Reg)
  | max (rd rs1 rs2 : Reg)
  | minu (rd rs1 rs2 : Reg)
  | maxu (rd rs1 rs2 : Reg)
  | mul (rd rs1 rs2 : Reg)
  | mulh (rd rs1 rs2 : Reg)
  | mulhu (rd rs1 rs2 : Reg)
  | div (rd rs1 rs2 : Reg)
  | divu (rd rs1 rs2 : Reg)
  | rem (rd rs1 rs2 : Reg)
  | remu (rd rs1 rs2 : Reg)
  -- OPW (13 R309)
  | addw (rd rs1 rs2 : Reg)
  | subw (rd rs1 rs2 : Reg)
  | sllw (rd rs1 rs2 : Reg)
  | srlw (rd rs1 rs2 : Reg)
  | sraw (rd rs1 rs2 : Reg)
  | mulw (rd rs1 rs2 : Reg)
  -- OPI (13 R310)
  | addi (rd rs1 : Reg) (imm : BitVec 12)
  | andi (rd rs1 : Reg) (imm : BitVec 12)
  | ori (rd rs1 : Reg) (imm : BitVec 12)
  | xori (rd rs1 : Reg) (imm : BitVec 12)
  | slti (rd rs1 : Reg) (imm : BitVec 12)
  | sltiu (rd rs1 : Reg) (imm : BitVec 12)
  | slli (rd rs1 : Reg) (sh : BitVec 6)
  | srli (rd rs1 : Reg) (sh : BitVec 6)
  | srai (rd rs1 : Reg) (sh : BitVec 6)
  -- LOAD and STORE (13 R313)
  | ldd (rd rs1 : Reg) (imm : BitVec 12)
  | ldw (rd rs1 : Reg) (imm : BitVec 12)
  | ldwz (rd rs1 : Reg) (imm : BitVec 12)
  | ldh (rd rs1 : Reg) (imm : BitVec 12)
  | ldhz (rd rs1 : Reg) (imm : BitVec 12)
  | ldb (rd rs1 : Reg) (imm : BitVec 12)
  | ldbz (rd rs1 : Reg) (imm : BitVec 12)
  | std (rs2 rs1 : Reg) (imm : BitVec 12)
  | stw (rs2 rs1 : Reg) (imm : BitVec 12)
  | sth (rs2 rs1 : Reg) (imm : BitVec 12)
  | stb (rs2 rs1 : Reg) (imm : BitVec 12)
  -- branches and jumps (13 R314, R315), upper immediates (R312)
  | beq (rs1 rs2 : Reg) (imm : BitVec 12)
  | bne (rs1 rs2 : Reg) (imm : BitVec 12)
  | blt (rs1 rs2 : Reg) (imm : BitVec 12)
  | bge (rs1 rs2 : Reg) (imm : BitVec 12)
  | bltu (rs1 rs2 : Reg) (imm : BitVec 12)
  | bgeu (rs1 rs2 : Reg) (imm : BitVec 12)
  | jl (rd : Reg) (imm : BitVec 20)
  | jlr (rd rs1 : Reg) (imm : BitVec 12)
  | lih (rd : Reg) (imm : BitVec 20)
  | addpc (rd : Reg) (imm : BitVec 20)
  -- FPU and FMA (13 R316 to R319); `d` is the .D suffix
  | fadd (d : Bool) (rd rs1 rs2 : Reg)
  | fsub (d : Bool) (rd rs1 rs2 : Reg)
  | fmul (d : Bool) (rd rs1 rs2 : Reg)
  | fdiv (d : Bool) (rd rs1 rs2 : Reg)
  | fsqrt (d : Bool) (rd rs1 : Reg)
  | fmin (d : Bool) (rd rs1 rs2 : Reg)
  | fmax (d : Bool) (rd rs1 rs2 : Reg)
  | fcmp (d : Bool) (cond : BitVec 4) (rd rs1 rs2 : Reg)
  | fclass (d : Bool) (rd rs1 : Reg)
  | fcvt (d : Bool) (kind : BitVec 4) (rd rs1 : Reg)
  | fma (d : Bool) (rd rs1 rs2 rs3 : Reg)
  -- AMO (13 R321, R322); `ord` 0 none, 1 .ACQ, 2 .REL, 3 .AR; `d` is the .D suffix
  | amoadd (d : Bool) (ord : BitVec 2) (rd rs1 rs2 : Reg)
  | amoand (d : Bool) (ord : BitVec 2) (rd rs1 rs2 : Reg)
  | amoor (d : Bool) (ord : BitVec 2) (rd rs1 rs2 : Reg)
  | amoxor (d : Bool) (ord : BitVec 2) (rd rs1 rs2 : Reg)
  | amomin (d : Bool) (ord : BitVec 2) (rd rs1 rs2 : Reg)
  | amomax (d : Bool) (ord : BitVec 2) (rd rs1 rs2 : Reg)
  | amoswap (d : Bool) (ord : BitVec 2) (rd rs1 rs2 : Reg)
  | amocas (d : Bool) (ord : BitVec 2) (rd rs1 rs2 : Reg)
  | amofadd (d : Bool) (ord : BitVec 2) (rd rs1 rs2 : Reg)
  -- SYSTEM (13 R324 to R329)
  | csrr (rd : Reg) (csr : BitVec 12)
  | csrw (csr : BitVec 12) (rs1 : Reg)
  | csrs (csr : BitVec 12) (rs1 : Reg)
  | csrc (csr : BitVec 12) (rs1 : Reg)
  | svc (n : BitVec 12)
  | bkpt
  | tret
  | halt
  | pulse
  | phase (n : BitVec 8)
  | tinv (op : BitVec 2) (rs1 : Reg)
  -- FENCE, CACHE, QUEUE, SYNC (13 R330 to R336)
  | fence (kind : BitVec 2) (scope : BitVec 2)
  | lsync (scope : BitVec 2)
  | ifence
  | cwb (rs1 : Reg) (imm : BitVec 12)
  | cinv (rs1 : Reg) (imm : BitVec 12)
  | iinv (rs1 : Reg) (imm : BitVec 12)
  | qsend (rel : Bool) (q : Reg) (rs2 : Reg)
  | qrecv (acq : Bool) (rd : Reg) (q : Reg)
  | qpeek (rd : Reg) (q : Reg)
  | qpoll (rd : Reg) (q : Reg)
  | bar (launch : Bool) (id : BitVec 4)
  | ctrwait (rd rs1 : Reg) (ctr : BitVec 10)
  | ctradd (rel : Bool) (rd rs1 : Reg) (ctr : BitVec 10)
  | launch (rd rs1 : Reg) (q : BitVec 4)
  -- BITM (13 R311)
  | clz (rd rs1 : Reg)
  | ctz (rd rs1 : Reg)
  | popc (rd rs1 : Reg)
  | bswap (rd rs1 : Reg)
  | bfx (rd rs1 : Reg) (pos width1 : BitVec 6)
  | bfi (rd rs1 : Reg) (pos width1 : BitVec 6)
  -- VCFG (12 R291, 14 R344 to R347)
  | vsetl (rd rs1 : Reg) (vt : BitVec 10) (ds : Option (BitVec 3))
  | vdecl (rd : Reg) (nreg sew : BitVec 2)
  | dscfg (port : BitVec 3) (xbase xcounts xstrides : Reg) (width : BitVec 2) (out : Bool)
  | dsclr (port : BitVec 3)
  -- VLOAD and VSTORE (14 R348 to R351)
  | vld (vd xb : Reg) (e : BitVec 16) (lu ff : Bool) (m : VMask)
  | vlds (vd xb xs : Reg) (e : BitVec 16) (lu ff : Bool) (m : VMask)
  | vldx (vd xb vi : Reg) (iw : BitVec 2) (lu ff : Bool) (m : VMask)
  | vldt (vd xb : Reg) (e : BitVec 16) (lu t : Bool) (m : VMask)
  | vst (vs : Reg) (dst : StDst) (m : VMask)
  | vsts (vs xb xs : Reg) (e : BitVec 16) (m : VMask)
  | vstx (vs xb vi : Reg) (iw : BitVec 2) (m : VMask)
  | vstt (vs xb : Reg) (e : BitVec 16) (m : VMask)
  -- VINT (14 R352 to R354); `u` is .U
  | vadd (vd vs2 : Reg) (s1 : Src1) (m : VMask)
  | vsub (vd vs2 : Reg) (s1 : Src1) (m : VMask)
  | vrsub (vd vs2 : Reg) (s1 : Src1) (m : VMask)
  | vmul (vd vs2 : Reg) (s1 : Src1) (m : VMask)
  | vmulh (u : Bool) (vd vs2 : Reg) (s1 : Src1) (m : VMask)
  | vdiv (u : Bool) (vd vs2 : Reg) (s1 : Src1) (m : VMask)
  | vrem (u : Bool) (vd vs2 : Reg) (s1 : Src1) (m : VMask)
  | vmin (u : Bool) (vd vs2 : Reg) (s1 : Src1) (m : VMask)
  | vmax (u : Bool) (vd vs2 : Reg) (s1 : Src1) (m : VMask)
  | vand (vd vs2 : Reg) (s1 : Src1) (m : VMask)
  | vor (vd vs2 : Reg) (s1 : Src1) (m : VMask)
  | vxor (vd vs2 : Reg) (s1 : Src1) (m : VMask)
  | vsll (vd vs2 : Reg) (s1 : Src1) (m : VMask)
  | vsrl (vd vs2 : Reg) (s1 : Src1) (m : VMask)
  | vsra (vd vs2 : Reg) (s1 : Src1) (m : VMask)
  | vsadd (u : Bool) (vd vs2 : Reg) (s1 : Src1) (m : VMask)
  | vssub (u : Bool) (vd vs2 : Reg) (s1 : Src1) (m : VMask)
  | vnclip (u : Bool) (vd vs2 : Reg) (s1 : Src1) (m : VMask)
  | vwmul (u : Bool) (vd vs2 : Reg) (s1 : Src1) (m : VMask)
  | vcmp (u : Bool) (cond : BitVec 3) (md vs2 : Reg) (s1 : Src1) (m : VMask)
  | vmerge (vd vs2 : Reg) (s1 : Src1) (mk : BitVec 3)
  | vmv (vd : Reg) (s1 : Src1) (m : VMask)
  | vbcast (vd vs2 : Reg) (s1 : XOrImm) (m : VMask)
  -- VFP, VFMA, VSPEC (14 R355 to R357)
  | vfadd (vd vs2 : Reg) (s1 : Src1) (m : VMask)
  | vfsub (vd vs2 : Reg) (s1 : Src1) (m : VMask)
  | vfmul (vd vs2 : Reg) (s1 : Src1) (m : VMask)
  | vfdiv (vd vs2 : Reg) (s1 : Src1) (m : VMask)
  | vfsqrt (vd vs2 : Reg) (m : VMask)
  | vfmin (vd vs2 : Reg) (s1 : Src1) (m : VMask)
  | vfmax (vd vs2 : Reg) (s1 : Src1) (m : VMask)
  | vfsgn (inj : BitVec 2) (vd vs2 : Reg) (s1 : Src1) (m : VMask)
  | vfclass (vd vs2 : Reg) (m : VMask)
  | vfcmp (cond : BitVec 3) (md vs2 : Reg) (s1 : Src1) (m : VMask)
  | vfma (neg : BitVec 2) (vd vs2 : Reg) (s1 : Src1) (vs3 : Reg) (m : VMask)
  | vfrec (vd vs2 : Reg) (m : VMask)
  | vfrsq (vd vs2 : Reg) (m : VMask)
  | vfrecref (vd vs2 : Reg) (s1 : Src1) (m : VMask)
  | vfrsqref (vd vs2 : Reg) (s1 : Src1) (m : VMask)
  | vfexp2 (vd vs2 : Reg) (m : VMask)
  | vflog2 (vd vs2 : Reg) (m : VMask)
  -- VCVT (14 R358); `src` is IMM16[3:0]
  | vfcvt (vd vs2 : Reg) (src : BitVec 4) (m : VMask)
  | vfcvti (u : Bool) (vd vs2 : Reg) (src : BitVec 4) (m : VMask)
  | vicvtf (vd vs2 : Reg) (src : BitVec 4) (m : VMask)
  | viext (vd vs2 : Reg) (src : BitVec 4) (m : VMask)
  -- VRED (14 R359); `f` is .F
  | vredsum (f : Bool) (vd vs2 : Reg) (s1 : VOrX) (m : VMask)
  | vredosum (vd vs2 : Reg) (s1 : VOrX) (m : VMask)
  | vredmax (f u : Bool) (vd vs2 : Reg) (s1 : VOrX) (m : VMask)
  | vredmin (f u : Bool) (vd vs2 : Reg) (s1 : VOrX) (m : VMask)
  | vredand (vd vs2 : Reg) (s1 : VOrX) (m : VMask)
  | vredor (vd vs2 : Reg) (s1 : VOrX) (m : VMask)
  -- VMASK (14 R360)
  | vmlogic (op : BitVec 3) (md ms2 ms1 : Reg)
  | vpopc (rd ms2 : Reg) (m : VMask)
  | vfirst (rd ms2 : Reg) (m : VMask)
  | viota (vd ms2 : Reg) (m : VMask)
  -- VPERM (14 R361 to R363)
  | vslideup (vd vs2 : Reg) (s1 : XOrImm) (m : VMask)
  | vslidedn (vd vs2 : Reg) (s1 : XOrImm) (m : VMask)
  | vperm (vd vs2 vs1 : Reg) (m : VMask)
  | vcompress (vd vs2 ms1 : Reg)
  | vexpand (vd vs2 ms1 : Reg)
  | vmvxs (rd vs2 : Reg) (s1 : XOrImm)
  | vmvsx (vd : Reg) (s1 : XOrImm)
  -- VSPARSE, VSOLVE (14 R364 to R367)
  | vnzscan (f : Bool) (vd vs2 : Reg) (m : VMask)
  | vtopk (f byval : Bool) (vd vi vs2 : Reg) (s1 : XOrImm) (m : VMask)
  | vsegscan (f : Bool) (vd vs2 ms1 : Reg) (m : VMask)
  | vpivdiv (vd vs2 xp : Reg) (m : VMask)
  | vpivsel (f : Bool) (rd vs2 : Reg) (m : VMask)
  -- VMEMOP (14 R368 to R371)
  | vamo (op : BitVec 4) (vd xb vi : Reg) (s1 : VOrX) (m : VMask)
  | vscatadd (f : Bool) (xb vi : Reg) (s1 : VOrX) (m : VMask)
  | vscatacc (f : Bool) (xb vi : Reg) (s1 : VOrX) (m : VMask)
  | vlock (md xb vi : Reg) (m : VMask)
  | vunlock (xb vi : Reg) (m : VMask)
  -- VNET (14 R372)
  | vsend (rel : Bool) (q vs2 : Reg)
  | vrecv (acq : Bool) (vd q : Reg)
  -- MCFG, MOP, MMOV (15 R374 to R392)
  | mten (n : BitVec 4)
  | mtdis
  | mshape (xs : Reg)
  | mpred (s1 : XOrImm)
  | mscale (b : Bool) (vs : Reg) (nb : BitVec 6)
  | mopa (acc : Reg) (a b : MOperand) (int8 : Bool) (fwd : Option Reg)
  | mops (acc : Reg) (a b : MOperand) (int8 : Bool) (fwd : Option Reg)
  | mopag (gb : Bool) (acc s2 s1 xb : Reg) (int8 : Bool)
  | mzero (acc : Reg)
  | mtrd (vd acc : Reg) (origin : XOrImm) (m : VMask)
  | mtwr (acc vs : Reg) (origin : XOrImm) (m : VMask)
  | mtld (acc xb : Reg) (vi : Option Reg) (t : Bool) (fmt : BitVec 4)
  | mtst (acc xb : Reg) (vi : Option Reg) (t : Bool) (fmt : BitVec 4)
  | mtsend (rel t : Bool) (q acc : Reg) (fmt : BitVec 4)
  | mtrecv (acq : Bool) (acc q : Reg)
  -- MERGE, XCOPY (15 R396 to R402)
  | mgcfg (xb : Reg) (mask : BitVec 5)
  | mgin (k : BitVec 3) (vc vv : Reg) (m : VMask)
  | mgrun (reuse : Bool) (rd xb xl : Reg)
  | mgdrain (vc vv : Reg)
  | mgrst
  | xcopy (lu twoD : Bool) (ch : Reg) (dst src : Reg) (len : XOrImm)
  | xwait (ch xaddr : Reg)
  -- fetch and decode failures (12 R292, 09 R223)
  | undefinedEncoding (parcel : Parcel)
  | fetchFault (va : Word) (sub : BitVec 4)
  -- power-on and package (01_package)
  | vauxUp
  | powerOnStep
  | powerOnStop
  | perstNDeassert
  | perstNAssert
  | hostLinkTrained
  | linkTrainingTimeout
  | configurationRequest
  | thermalTrip
  | stackTripComparator
  | vrAlert
  | powerOff
  | dynamicAddressAssign
  -- mailbox and attestation (03 R74 to R77)
  | extend
  | raisesvn
  | writeclass
  | readclass
  | mailboxCommandEnd
  | getVersion
  | getCapabilities
  | negotiateAlgorithms
  | getDigests
  | getCertificate
  | challenge
  | getMeasurements
  | spdmUnsupportedRequest
  -- host accesses (03, 04, 07)
  | launchPacket
  | bar4Read
  | bar4Write
  | counterWrite
  | counterAdd
  | functionLevelResetVf
  | functionLevelResetPf
  | hostApertureResponse
  | resume
  | abort
  | preempt
  | schedulerCommandEnd
  | fqresume
  | fqdata0Read
  | ixdropRead
  | faultAddressQueueRead
  | enlq
  | tlbinvTenant
  | tlbinvAsid
  | tlbinvPage
  | invalidationComplete
  | bpladd
  | bplFlashWriteDone
  | admindown
  | clrcnt
  | wayreq
  | registerWrite
  -- fabric (02)
  | linkPortTrained
  | flitReceive
  | retrain
  | portDown
  | routerForward
  | remoteRequest
  | remoteResponse
  | multicastMessage
  | scatterPair
  | bind
  | bindack
  | nack
  | unbind
  | bindResend
  | tileMessage
  | creditReturn
  | away
  | awayack
  | back
  -- scheduler (04)
  | crewPlacement
  | zeroCountLaunch
  | crewEnd
  | launchCompletion
  | preemption
  | contextSaveDone
  | crewRestore
  | fairnessQuantum
  | ageingThreshold
  | watchdogExpiry
  -- governor (05)
  | energyCalibration
  | energyCap
  | tenantBudgetExhausted
  | tenantBudgetInterval
  | capLevelRaise
  | capLevelLower
  | ballastStep
  | sensorSample
  | sensorReturnValid
  | safePointExit
  | safeCeilingStep
  | thermalCeilingStep
  | criticalTimeout
  | droopResponse
  | dramRetraining
  -- memory and engines (06, 07, 08, 10, 15)
  | dramScrub
  | eccError
  | cacheEviction
  | fatalError
  | dumpComplete
  | mopaComplete
  | copyPageRegister
  | copyComplete
  | copyChannelFault
  | streamRetire
  | mergeCheckpoint
  | mergePassEnd
  | impreciseTrap
  deriving DecidableEq, Repr

/-- The step an input asks for. -/
def Input.instr : Input → Instr
  | .vauxUp .. => .vauxUp
  | .powerOnStep .. => .powerOnStep
  | .powerOnStop .. => .powerOnStop
  | .perstNDeassert .. => .perstNDeassert
  | .perstNAssert .. => .perstNAssert
  | .hostLinkTrained .. => .hostLinkTrained
  | .linkTrainingTimeout .. => .linkTrainingTimeout
  | .configurationRequest .. => .configurationRequest
  | .thermalTrip .. => .thermalTrip
  | .stackTripComparator .. => .stackTripComparator
  | .vrAlert .. => .vrAlert
  | .powerOff .. => .powerOff
  | .dynamicAddressAssign .. => .dynamicAddressAssign
  | .extend .. => .extend
  | .raisesvn .. => .raisesvn
  | .writeclass .. => .writeclass
  | .readclass .. => .readclass
  | .mailboxCommandEnd .. => .mailboxCommandEnd
  | .getVersion .. => .getVersion
  | .getCapabilities .. => .getCapabilities
  | .negotiateAlgorithms .. => .negotiateAlgorithms
  | .getDigests .. => .getDigests
  | .getCertificate .. => .getCertificate
  | .challenge .. => .challenge
  | .getMeasurements .. => .getMeasurements
  | .spdmUnsupportedRequest .. => .spdmUnsupportedRequest
  | .launchPacket .. => .launchPacket
  | .bar4Read .. => .bar4Read
  | .bar4Write .. => .bar4Write
  | .counterWrite .. => .counterWrite
  | .counterAdd .. => .counterAdd
  | .functionLevelResetVf .. => .functionLevelResetVf
  | .functionLevelResetPf .. => .functionLevelResetPf
  | .hostApertureResponse .. => .hostApertureResponse
  | .resume .. => .resume
  | .abort .. => .abort
  | .preempt .. => .preempt
  | .schedulerCommandEnd .. => .schedulerCommandEnd
  | .fqresume .. => .fqresume
  | .fqdata0Read .. => .fqdata0Read
  | .ixdropRead .. => .ixdropRead
  | .faultAddressQueueRead .. => .faultAddressQueueRead
  | .enlq .. => .enlq
  | .tlbinvTenant .. => .tlbinvTenant
  | .tlbinvAsid .. => .tlbinvAsid
  | .tlbinvPage .. => .tlbinvPage
  | .invalidationComplete .. => .invalidationComplete
  | .bpladd .. => .bpladd
  | .bplFlashWriteDone .. => .bplFlashWriteDone
  | .admindown .. => .admindown
  | .clrcnt .. => .clrcnt
  | .wayreq .. => .wayreq
  | .registerWrite .. => .registerWrite
  | .linkPortTrained .. => .linkPortTrained
  | .flitReceive .. => .flitReceive
  | .retrain .. => .retrain
  | .portDown .. => .portDown
  | .routerForward .. => .routerForward
  | .remoteRequest .. => .remoteRequest
  | .remoteResponse .. => .remoteResponse
  | .multicastMessage .. => .multicastMessage
  | .scatterPair .. => .scatterPair
  | .bind .. => .bind
  | .bindack .. => .bindack
  | .nack .. => .nack
  | .unbind .. => .unbind
  | .bindResend .. => .bindResend
  | .tileMessage .. => .tileMessage
  | .creditReturn .. => .creditReturn
  | .away .. => .away
  | .awayack .. => .awayack
  | .back .. => .back
  | .crewPlacement .. => .crewPlacement
  | .zeroCountLaunch .. => .zeroCountLaunch
  | .crewEnd .. => .crewEnd
  | .launchCompletion .. => .launchCompletion
  | .preemption .. => .preemption
  | .contextSaveDone .. => .contextSaveDone
  | .crewRestore .. => .crewRestore
  | .fairnessQuantum .. => .fairnessQuantum
  | .ageingThreshold .. => .ageingThreshold
  | .watchdogExpiry .. => .watchdogExpiry
  | .energyCalibration .. => .energyCalibration
  | .energyCap .. => .energyCap
  | .tenantBudgetExhausted .. => .tenantBudgetExhausted
  | .tenantBudgetInterval .. => .tenantBudgetInterval
  | .capLevelRaise .. => .capLevelRaise
  | .capLevelLower .. => .capLevelLower
  | .ballastStep .. => .ballastStep
  | .sensorSample .. => .sensorSample
  | .sensorReturnValid .. => .sensorReturnValid
  | .safePointExit .. => .safePointExit
  | .safeCeilingStep .. => .safeCeilingStep
  | .thermalCeilingStep .. => .thermalCeilingStep
  | .criticalTimeout .. => .criticalTimeout
  | .droopResponse .. => .droopResponse
  | .dramRetraining .. => .dramRetraining
  | .dramScrub .. => .dramScrub
  | .eccError .. => .eccError
  | .cacheEviction .. => .cacheEviction
  | .fatalError .. => .fatalError
  | .dumpComplete .. => .dumpComplete
  | .mopaComplete .. => .mopaComplete
  | .copyPageRegister .. => .copyPageRegister
  | .copyComplete .. => .copyComplete
  | .copyChannelFault .. => .copyChannelFault
  | .streamRetire .. => .streamRetire
  | .mergeCheckpoint .. => .mergeCheckpoint
  | .mergePassEnd .. => .mergePassEnd

end Sys2Proof
end

