-- ==== Sys2Proof/WellFormed.lean ====
section
/-!
DEFINITION. Which terms of `Instr` an instruction word can encode (12_encoding R284 to R292, 14, 15): the values that a field
cannot hold, or that the manual calls undefined as an encoding, are refused here by a decidable check.
-/
namespace Sys2Proof

/-- A governing mask register is m1 to m7 (R289). -/
def VMask.wf : VMask → Bool
  | .unmasked => true
  | .masked m => decide (m ≠ 0)

/-- FP source codes of VFCVT and VFCVTI: SSIGN clear, SALT only at 8 or 16 bits (R358). -/
def fpSrcWf (src : BitVec 4) : Bool := decide (src.toNat < 8) && decide (src.toNat ≠ 6) && decide (src.toNat ≠ 7)

/-- Integer source codes of VICVTF and VIEXT: SALT clear (R289, R358). -/
def intSrcWf (src : BitVec 4) : Bool := decide (src.toNat % 8 < 4)

/-- The condition code of a vector compare (R341). -/
def condWf (c : BitVec 3) : Bool := decide (c.toNat < 6)

/-- The tile format codes of R376. -/
def fmtWf (f : BitVec 4) : Bool := decide (f.toNat ≤ 6)

/-- A VTYPE operand of VSETL: bit 7 clear and a SEW code of 0 to 3 (R291). -/
def vtypeWf (vt : BitVec 10) : Bool := !vt.getLsbD 7 && !vt.getLsbD 6

/-- The rows of the table that are events of the part, not instruction words. -/
def Instr.isEvent : Instr → Bool
  | .vauxUp | .powerOnStep | .powerOnStop | .perstNDeassert | .perstNAssert | .hostLinkTrained
  | .linkTrainingTimeout | .configurationRequest | .thermalTrip | .stackTripComparator | .vrAlert | .powerOff
  | .dynamicAddressAssign | .extend | .raisesvn | .writeclass | .readclass | .mailboxCommandEnd
  | .getVersion | .getCapabilities | .negotiateAlgorithms | .getDigests | .getCertificate | .challenge
  | .getMeasurements | .spdmUnsupportedRequest | .launchPacket | .bar4Read | .bar4Write | .counterWrite
  | .counterAdd | .functionLevelResetVf | .functionLevelResetPf | .hostApertureResponse | .resume
  | .abort | .preempt | .schedulerCommandEnd | .fqresume | .fqdata0Read | .ixdropRead
  | .faultAddressQueueRead | .enlq | .tlbinvTenant | .tlbinvAsid | .tlbinvPage | .invalidationComplete
  | .bpladd | .bplFlashWriteDone | .admindown | .clrcnt | .wayreq | .registerWrite
  | .linkPortTrained | .flitReceive | .retrain | .portDown | .routerForward | .remoteRequest
  | .remoteResponse | .multicastMessage | .scatterPair | .bind | .bindack | .nack | .unbind
  | .bindResend | .tileMessage | .creditReturn | .away | .awayack | .back | .crewPlacement
  | .zeroCountLaunch | .crewEnd | .launchCompletion | .preemption | .contextSaveDone | .crewRestore
  | .fairnessQuantum | .ageingThreshold | .watchdogExpiry | .energyCalibration | .energyCap
  | .tenantBudgetExhausted | .tenantBudgetInterval | .capLevelRaise | .capLevelLower | .ballastStep
  | .sensorSample | .sensorReturnValid | .safePointExit | .safeCeilingStep | .thermalCeilingStep
  | .criticalTimeout | .droopResponse | .dramRetraining | .dramScrub | .eccError | .cacheEviction
  | .fatalError | .dumpComplete | .mopaComplete | .copyPageRegister | .copyComplete
  | .copyChannelFault | .streamRetire | .mergeCheckpoint | .mergePassEnd | .impreciseTrap
  | .undefinedEncoding _ | .fetchFault _ _ => true
  | _ => false

/-- Convoy headers of kind 0b01 with the member words the header declares (R281, R287). -/
def convoyWf (header : Parcel) (members : List (BitVec 64)) : Bool :=
  let n := (header.extractLsb' 2 3).toNat
  decide (header.extractLsb' 0 2 = 1) && decide (members.length = if 2 ≤ n ∧ n ≤ 6 then n else 0)

/-- The instructions some word encodes. Events are not encoded and are refused. -/
def Instr.wf : Instr → Bool
  | .convoy h ms => convoyWf h ms
  | .fcmp _ cond _ _ _ => decide (cond.toNat < 4)
  | .fcvt _ kind _ _ => decide (kind.toNat < 9)
  | .tinv op a => decide (op.toNat < 3) && (decide (op = 1) || decide (a = 0))
  | .fence kind _ => decide (kind ≠ 0)
  | .vsetl _ _ vt _ => vtypeWf vt
  | .vld _ _ _ _ _ m | .vlds _ _ _ _ _ _ m | .vldx _ _ _ _ _ _ m | .vldt _ _ _ _ _ m => m.wf
  | .vst _ (.mem _ _) m => m.wf
  | .vst _ (.ds _) m => decide (m = .unmasked)
  | .vsts _ _ _ _ m | .vstx _ _ _ _ m | .vstt _ _ _ m => m.wf
  | .vadd _ _ _ m | .vsub _ _ _ m | .vrsub _ _ _ m | .vmul _ _ _ m | .vmulh _ _ _ _ m | .vdiv _ _ _ _ m
  | .vrem _ _ _ _ m | .vmin _ _ _ _ m | .vmax _ _ _ _ m | .vand _ _ _ m | .vor _ _ _ m | .vxor _ _ _ m
  | .vsll _ _ _ m | .vsrl _ _ _ m | .vsra _ _ _ m | .vsadd _ _ _ _ m | .vssub _ _ _ _ m | .vnclip _ _ _ _ m
  | .vwmul _ _ _ _ m | .vmv _ _ m | .vbcast _ _ _ m => m.wf
  | .vcmp _ c _ _ _ m => condWf c && m.wf
  | .vmerge _ _ _ mk => decide (mk ≠ 0)
  | .vfadd _ _ s m | .vfsub _ _ s m | .vfmul _ _ s m | .vfdiv _ _ s m | .vfmin _ _ s m | .vfmax _ _ s m
  | .vfma _ _ _ s _ m | .vfrecref _ _ s m | .vfrsqref _ _ s m => fpSrc1 s && m.wf
  | .vfsgn j _ _ s m => decide (j ≠ 3) && fpSrc1 s && m.wf
  | .vfcmp c _ _ s m => condWf c && fpSrc1 s && m.wf
  | .vfsqrt _ _ m | .vfclass _ _ m | .vfrec _ _ m | .vfrsq _ _ m | .vfexp2 _ _ m | .vflog2 _ _ m => m.wf
  | .vfcvt _ _ src m | .vfcvti _ _ _ src m => fpSrcWf src && m.wf
  | .vicvtf _ _ src m | .viext _ _ src m => intSrcWf src && m.wf
  | .vredsum _ _ _ _ m | .vredosum _ _ _ m | .vredand _ _ _ m | .vredor _ _ _ m => m.wf
  | .vredmax f u _ _ _ m | .vredmin f u _ _ _ m => !(f && u) && m.wf
  | .vpopc _ _ m | .vfirst _ _ m | .viota _ _ m | .vslideup _ _ _ m | .vslidedn _ _ _ m | .vperm _ _ _ m
  | .vnzscan _ _ _ m | .vtopk _ _ _ _ _ _ m | .vsegscan _ _ _ _ m | .vpivdiv _ _ _ m | .vpivsel _ _ _ m => m.wf
  | .vamo op _ _ _ _ m => decide (op.toNat < 13) && m.wf
  | .vscatadd _ _ _ _ m | .vscatacc _ _ _ _ m | .vlock _ _ _ m | .vunlock _ _ m => m.wf
  | .mpred (.imm i) => !i.getLsbD 7 && !i.getLsbD 15
  | .mtrd _ _ _ m | .mtwr _ _ _ m | .mgin _ _ _ m => m.wf
  | .mtld _ _ _ _ f | .mtst _ _ _ _ f | .mtsend _ _ _ _ f => fmtWf f
  | i => !i.isEvent
where
  /-- The K1 kinds of the floating-point forms: 0, 1 and 3 (R339). -/
  fpSrc1 : Src1 → Bool
    | .imm _ => false
    | _ => true

end Sys2Proof
end

