-- ==== Sys2Proof/Decode.lean ====
section
/-!
DEFINITION. Decoding and encoding of Dexbivin (12_encoding R281 to R292; 13, 14, 15 for function codes). A word is first
split into fields, then the fields are read as an instruction; the encoder goes the other way through the same fields.
-/
namespace Sys2Proof

/-- Why a word is no instruction (R292 steps 2 to 4); each raises ILLEGAL with SUB 0. -/
inductive DecodeError where
  | opcode      -- an unassigned major opcode or class
  | function    -- an unassigned function code
  | modifier    -- a MOD bit the form does not define
  | field       -- a field rule of R289, or a reserved bit that is not zero
  | missing     -- a second parcel or a convoy member is not given
  deriving DecidableEq, Repr

/-- What decoding answers. -/
abbrev Dec := Except DecodeError Instr

/-- Accept an instruction when its field rules hold. -/
def need (c : Bool) (e : DecodeError) (i : Instr) : Dec := if c then .ok i else .error e

/-! ### 32-bit words -/

/-- The fields of a scalar word (R283), from the top: [31:27], [26:22], [21:20], [19:17], [16:12], [11:7], [6:0]. -/
structure F32 where
  t  : BitVec 5
  m  : BitVec 5
  h  : BitVec 2
  f  : BitVec 3
  a  : BitVec 5
  d  : BitVec 5
  op : BitVec 7
  deriving DecidableEq, Repr

def F32.unpack (w : Parcel) : F32 :=
  { t := w.extractLsb' 27 5, m := w.extractLsb' 22 5, h := w.extractLsb' 20 2, f := w.extractLsb' 17 3,
    a := w.extractLsb' 12 5, d := w.extractLsb' 7 5, op := w.extractLsb' 0 7 }

def F32.pack (x : F32) : Parcel := x.t ++ x.m ++ x.h ++ x.f ++ x.a ++ x.d ++ x.op

/-- imm12 of the Imm, Store and Branch formats. -/
def F32.imm12 (x : F32) : BitVec 12 := x.t ++ x.m ++ x.h
/-- fn of the Reg format. -/
def F32.fn (x : F32) : BitVec 10 := x.t ++ x.m
/-- rs2 of the Reg and Fused formats. -/
def F32.rs2 (x : F32) : BitVec 5 := x.h ++ x.f
/-- imm20 of the Jump and Upper formats. -/
def F32.imm20 (x : F32) : BitVec 20 := x.t ++ x.m ++ x.h ++ x.f ++ x.a

/-- Reg format. -/
def F32.reg (op : BitVec 7) (fn : BitVec 10) (rd rs1 rs2 : Reg) : F32 :=
  { t := fn.extractLsb' 5 5, m := fn.extractLsb' 0 5, h := rs2.extractLsb' 3 2, f := rs2.extractLsb' 0 3, a := rs1, d := rd, op }

/-- Imm format; Store puts rs2 and Branch puts rs1 in [11:7]. -/
def F32.immF (op : BitVec 7) (f : BitVec 3) (d a : Reg) (imm : BitVec 12) : F32 :=
  { t := imm.extractLsb' 7 5, m := imm.extractLsb' 2 5, h := imm.extractLsb' 0 2, f, a, d, op }

/-- Jump and Upper formats. -/
def F32.jump (op : BitVec 7) (d : Reg) (imm : BitVec 20) : F32 :=
  { t := imm.extractLsb' 15 5, m := imm.extractLsb' 10 5, h := imm.extractLsb' 8 2, f := imm.extractLsb' 5 3,
    a := imm.extractLsb' 0 5, d, op }

/-- OP (R286). -/
def decOp (x : F32) : Dec :=
  match x.fn.toNat with
  | 0x00 => .ok (.add x.d x.a x.rs2)
  | 0x01 => .ok (.sub x.d x.a x.rs2)
  | 0x02 => .ok (.and x.d x.a x.rs2)
  | 0x03 => .ok (.or x.d x.a x.rs2)
  | 0x04 => .ok (.xor x.d x.a x.rs2)
  | 0x05 => .ok (.sll x.d x.a x.rs2)
  | 0x06 => .ok (.srl x.d x.a x.rs2)
  | 0x07 => .ok (.sra x.d x.a x.rs2)
  | 0x08 => .ok (.slt x.d x.a x.rs2)
  | 0x09 => .ok (.sltu x.d x.a x.rs2)
  | 0x0A => .ok (.min x.d x.a x.rs2)
  | 0x0B => .ok (.max x.d x.a x.rs2)
  | 0x0C => .ok (.minu x.d x.a x.rs2)
  | 0x0D => .ok (.maxu x.d x.a x.rs2)
  | 0x10 => .ok (.mul x.d x.a x.rs2)
  | 0x11 => .ok (.mulh x.d x.a x.rs2)
  | 0x12 => .ok (.mulhu x.d x.a x.rs2)
  | 0x14 => .ok (.div x.d x.a x.rs2)
  | 0x15 => .ok (.divu x.d x.a x.rs2)
  | 0x16 => .ok (.rem x.d x.a x.rs2)
  | 0x17 => .ok (.remu x.d x.a x.rs2)
  | _ => .error .function

/-- OPW (R286). -/
def decOpw (x : F32) : Dec :=
  match x.fn.toNat with
  | 0x00 => .ok (.addw x.d x.a x.rs2)
  | 0x01 => .ok (.subw x.d x.a x.rs2)
  | 0x05 => .ok (.sllw x.d x.a x.rs2)
  | 0x06 => .ok (.srlw x.d x.a x.rs2)
  | 0x07 => .ok (.sraw x.d x.a x.rs2)
  | 0x10 => .ok (.mulw x.d x.a x.rs2)
  | _ => .error .function

/-- The shift amount and the six bits above it in imm12 (R286). -/
def F32.sh (x : F32) : BitVec 6 := x.imm12.extractLsb' 0 6
def F32.shTop (x : F32) : BitVec 6 := x.imm12.extractLsb' 6 6

/-- OPI (R286). -/
def decOpi (x : F32) : Dec :=
  match x.f.toNat with
  | 0 => .ok (.addi x.d x.a x.imm12)
  | 1 => .ok (.andi x.d x.a x.imm12)
  | 2 => .ok (.ori x.d x.a x.imm12)
  | 3 => .ok (.xori x.d x.a x.imm12)
  | 4 => .ok (.slti x.d x.a x.imm12)
  | 5 => .ok (.sltiu x.d x.a x.imm12)
  | 6 => need (x.shTop = 0) .function (.slli x.d x.a x.sh)
  | _ => if x.shTop = 0 then .ok (.srli x.d x.a x.sh)
         else if x.shTop = 0b100000#6 then .ok (.srai x.d x.a x.sh)
         else .error .function

/-- LOAD (R286). -/
def decLoad (x : F32) : Dec :=
  match x.f.toNat with
  | 0 => .ok (.ldd x.d x.a x.imm12)
  | 1 => .ok (.ldw x.d x.a x.imm12)
  | 2 => .ok (.ldwz x.d x.a x.imm12)
  | 3 => .ok (.ldh x.d x.a x.imm12)
  | 4 => .ok (.ldhz x.d x.a x.imm12)
  | 5 => .ok (.ldb x.d x.a x.imm12)
  | 6 => .ok (.ldbz x.d x.a x.imm12)
  | _ => .error .function

/-- STORE (R286). -/
def decStore (x : F32) : Dec :=
  match x.f.toNat with
  | 0 => .ok (.std x.d x.a x.imm12)
  | 1 => .ok (.stw x.d x.a x.imm12)
  | 2 => .ok (.sth x.d x.a x.imm12)
  | 3 => .ok (.stb x.d x.a x.imm12)
  | _ => .error .function

/-- BRANCH (R283, R286): rs1 in [11:7], rs2 in [16:12]. -/
def decBranch (x : F32) : Dec :=
  match x.f.toNat with
  | 0 => .ok (.beq x.d x.a x.imm12)
  | 1 => .ok (.bne x.d x.a x.imm12)
  | 2 => .ok (.blt x.d x.a x.imm12)
  | 3 => .ok (.bge x.d x.a x.imm12)
  | 4 => .ok (.bltu x.d x.a x.imm12)
  | 5 => .ok (.bgeu x.d x.a x.imm12)
  | _ => .error .function

/-- FPU (R316 to R318): fn[9:5] operation, fn[4] format, fn[3:0] condition or kind. -/
def decFpu (x : F32) : Dec :=
  let d := x.m.getLsbD 4
  let k : BitVec 4 := x.m.extractLsb' 0 4
  match x.t.toNat with
  | 0 => need (k = 0) .function (.fadd d x.d x.a x.rs2)
  | 1 => need (k = 0) .function (.fsub d x.d x.a x.rs2)
  | 2 => need (k = 0) .function (.fmul d x.d x.a x.rs2)
  | 3 => need (k = 0) .function (.fdiv d x.d x.a x.rs2)
  | 4 => need (k = 0 && x.rs2 = 0) .field (.fsqrt d x.d x.a)
  | 5 => need (k = 0) .function (.fmin d x.d x.a x.rs2)
  | 6 => need (k = 0) .function (.fmax d x.d x.a x.rs2)
  | 7 => need (k.toNat < 4) .function (.fcmp d k x.d x.a x.rs2)
  | 8 => need (k = 0 && x.rs2 = 0) .field (.fclass d x.d x.a)
  | 9 => need (k.toNat < 9 && x.rs2 = 0) .field (.fcvt d k x.d x.a)
  | _ => .error .function

/-- FMA (R319): fn5[0] the format, fn5[4:1] zero. -/
def decFma (x : F32) : Dec :=
  need (x.t.extractLsb' 1 4 = 0) .function (.fma (x.t.getLsbD 0) x.d x.a x.rs2 x.m)

/-- AMO (R321): fn[9:5] op, [4:3] ord, [2] zero, [1:0] width 2 or 3. -/
def decAmo (x : F32) : Dec :=
  let ord : BitVec 2 := x.m.extractLsb' 3 2
  let d := x.m.getLsbD 0
  if x.m.getLsbD 2 || !x.m.getLsbD 1 then .error .function
  else match x.t.toNat with
  | 0 => .ok (.amoadd d ord x.d x.a x.rs2)
  | 1 => .ok (.amoand d ord x.d x.a x.rs2)
  | 2 => .ok (.amoor d ord x.d x.a x.rs2)
  | 3 => .ok (.amoxor d ord x.d x.a x.rs2)
  | 4 => .ok (.amomin d ord x.d x.a x.rs2)
  | 5 => .ok (.amomax d ord x.d x.a x.rs2)
  | 6 => .ok (.amoswap d ord x.d x.a x.rs2)
  | 7 => .ok (.amocas d ord x.d x.a x.rs2)
  | 8 => .ok (.amofadd d ord x.d x.a x.rs2)
  | _ => .error .function

/-- SYSTEM (R324). -/
def decSystem (x : F32) : Dec :=
  match x.f.toNat with
  | 0 => need (x.a = 0) .field (.csrr x.d x.imm12)
  | 1 => need (x.d = 0) .field (.csrw x.imm12 x.a)
  | 2 => need (x.d = 0) .field (.csrs x.imm12 x.a)
  | 3 => need (x.d = 0) .field (.csrc x.imm12 x.a)
  | 4 => need (x.d = 0 && x.a = 0) .field (.svc x.imm12)
  | 5 =>
    if x.d = 0 && x.a = 0 then
      match x.imm12.toNat with
      | 0 => .ok .bkpt
      | 1 => .ok .tret
      | 2 => .ok .halt
      | 3 => .ok .pulse
      | _ => .error .function
    else .error .field
  | 6 => need (x.d = 0 && x.a = 0 && x.imm12.extractLsb' 8 4 = 0) .field (.phase (x.imm12.extractLsb' 0 8))
  | _ => need (x.d = 0 && x.imm12.toNat < 3 && (x.imm12 = 1 || x.a = 0)) .function (.tinv (x.imm12.extractLsb' 0 2) x.a)

/-- FENCE (R330). -/
def decFence (x : F32) : Dec :=
  if x.d = 0 && x.a = 0 then
    match x.f.toNat with
    | 0 => need (x.imm12.extractLsb' 4 8 = 0 && x.imm12.extractLsb' 2 2 ≠ 0) .function
             (.fence (x.imm12.extractLsb' 2 2) (x.imm12.extractLsb' 0 2))
    | 1 => need (x.imm12.extractLsb' 2 10 = 0) .field (.lsync (x.imm12.extractLsb' 0 2))
    | 2 => need (x.imm12 = 0) .field .ifence
    | _ => .error .function
  else .error .field

/-- CACHE (R332). -/
def decCache (x : F32) : Dec :=
  match x.f.toNat with
  | 0 => need (x.d = 0) .field (.cwb x.a x.imm12)
  | 1 => need (x.d = 0) .field (.cinv x.a x.imm12)
  | 2 => need (x.d = 0) .field (.iinv x.a x.imm12)
  | _ => .error .function

/-- QUEUE (R333): fn[9:5] form, fn[4:3] ordering, fn[2:0] zero. -/
def decQueue (x : F32) : Dec :=
  let o : BitVec 2 := x.m.extractLsb' 3 2
  if x.m.extractLsb' 0 3 ≠ 0 then .error .function
  else match x.t.toNat with
  | 0 => need (x.d = 0 && (o = 0 || o = 2)) .function (.qsend (o = 2) x.a x.rs2)
  | 1 => need (x.rs2 = 0 && (o = 0 || o = 1)) .function (.qrecv (o = 1) x.d x.a)
  | 2 => need (x.rs2 = 0 && o = 0) .function (.qpeek x.d x.a)
  | 3 => need (x.rs2 = 0 && o = 0) .function (.qpoll x.d x.a)
  | _ => .error .function

/-- SYNC (R334 to R336). -/
def decSync (x : F32) : Dec :=
  match x.f.toNat with
  | 0 => need (x.d = 0 && x.a = 0 && x.imm12.extractLsb' 5 7 = 0) .field
           (.bar (x.imm12.getLsbD 4) (x.imm12.extractLsb' 0 4))
  | 1 => need (x.imm12.extractLsb' 10 2 = 0) .field (.ctrwait x.d x.a (x.imm12.extractLsb' 0 10))
  | 2 => need (x.imm12.getLsbD 11 = false) .field (.ctradd (x.imm12.getLsbD 10) x.d x.a (x.imm12.extractLsb' 0 10))
  | 3 => need (x.imm12.extractLsb' 4 8 = 0) .field (.launch x.d x.a (x.imm12.extractLsb' 0 4))
  | _ => .error .function

/-- BITM (R311). -/
def decBitm (x : F32) : Dec :=
  match x.f.toNat with
  | 0 => need (x.imm12 = 0) .field (.clz x.d x.a)
  | 1 => need (x.imm12 = 0) .field (.ctz x.d x.a)
  | 2 => need (x.imm12 = 0) .field (.popc x.d x.a)
  | 3 => need (x.imm12 = 0) .field (.bswap x.d x.a)
  | 4 => .ok (.bfx x.d x.a x.sh x.shTop)
  | 5 => .ok (.bfi x.d x.a x.sh x.shTop)
  | _ => .error .function

/-- The major opcodes (R285). -/
def decScalar (x : F32) : Dec :=
  match x.op.toNat with
  | 0x02 => decOp x
  | 0x04 => decOpi x
  | 0x06 => decOpw x
  | 0x08 => decLoad x
  | 0x0A => decStore x
  | 0x0C => decBranch x
  | 0x0E => .ok (.jl x.d x.imm20)
  | 0x10 => need (x.f = 0) .function (.jlr x.d x.a x.imm12)
  | 0x12 => .ok (.lih x.d x.imm20)
  | 0x14 => .ok (.addpc x.d x.imm20)
  | 0x16 => decFpu x
  | 0x18 => decFma x
  | 0x1A => decAmo x
  | 0x1C => decSystem x
  | 0x1E => decFence x
  | 0x20 => decCache x
  | 0x22 => decQueue x
  | 0x24 => decSync x
  | 0x26 => decBitm x
  | _ => .error .opcode

/-! ### 64-bit words -/

/-- The fields of a 64-bit word (R288), from the top. -/
structure F64 where
  imm  : BitVec 16
  op   : BitVec 6
  mod  : BitVec 5
  ssel : BitVec 3
  k1   : BitVec 2
  um   : BitVec 1
  mreg : BitVec 3
  s3   : BitVec 5
  s2   : BitVec 5
  s1   : BitVec 5
  d    : BitVec 5
  cls  : BitVec 6
  kind : BitVec 2
  deriving DecidableEq, Repr

def F64.unpack (w : BitVec 64) : F64 :=
  { imm := w.extractLsb' 48 16, op := w.extractLsb' 42 6, mod := w.extractLsb' 37 5, ssel := w.extractLsb' 34 3,
    k1 := w.extractLsb' 32 2, um := w.extractLsb' 31 1, mreg := w.extractLsb' 28 3, s3 := w.extractLsb' 23 5,
    s2 := w.extractLsb' 18 5, s1 := w.extractLsb' 13 5, d := w.extractLsb' 8 5, cls := w.extractLsb' 2 6,
    kind := w.extractLsb' 0 2 }

def F64.pack (x : F64) : BitVec 64 :=
  x.imm ++ x.op ++ x.mod ++ x.ssel ++ x.k1 ++ x.um ++ x.mreg ++ x.s3 ++ x.s2 ++ x.s1 ++ x.d ++ x.cls ++ x.kind

/-- The fields that a form leaves zero, and UM = 1 (R289). -/
def F64.base (cls op : BitVec 6) : F64 :=
  { imm := 0, op, mod := 0, ssel := 0, k1 := 0, um := 1, mreg := 0, s3 := 0, s2 := 0, s1 := 0, d := 0, cls, kind := 3 }

/-- The governing mask of a word (R289). -/
def F64.mask (x : F64) : VMask := if x.um = 1 then .unmasked else .masked x.mreg
/-- UM = 1 requires MREG = 0; UM = 0 requires m1 to m7. -/
def F64.maskOk (x : F64) : Bool := if x.um = 1 then decide (x.mreg = 0) else decide (x.mreg ≠ 0)
/-- A form that takes no governing mask (R289). -/
def F64.noMask (x : F64) : Bool := decide (x.um = 1) && decide (x.mreg = 0)
/-- The first source by K1 (R289). -/
def F64.src1 (x : F64) : Src1 :=
  match x.k1.toNat with
  | 0 => .v x.s1
  | 1 => .x x.s1
  | 2 => .imm x.imm
  | _ => .ds x.ssel
/-- The unused ones of S1, IMM16 and SSEL are zero for the K1 given (R289). -/
def F64.src1Ok (x : F64) : Bool :=
  match x.k1.toNat with
  | 0 => decide (x.imm = 0) && decide (x.ssel = 0)
  | 1 => decide (x.imm = 0) && decide (x.ssel = 0)
  | 2 => decide (x.s1 = 0) && decide (x.ssel = 0)
  | _ => decide (x.s1 = 0) && decide (x.imm = 0)
/-- K1 of 0, 1 or 3 (R339). -/
def F64.srcFp (x : F64) : Bool := x.src1Ok && decide (x.k1 ≠ 2)
/-- K1 of 1 or 2. -/
def F64.srcXI (x : F64) : Bool := x.src1Ok && (decide (x.k1 = 1) || decide (x.k1 = 2))
/-- K1 of 0 or 1. -/
def F64.srcVX (x : F64) : Bool := x.src1Ok && (decide (x.k1 = 0) || decide (x.k1 = 1))
def F64.xi (x : F64) : XOrImm := if x.k1 = 1 then .x x.s1 else .imm x.imm
def F64.vx (x : F64) : VOrX := if x.k1 = 0 then .v x.s1 else .x x.s1
/-- K1 = 0, no stream. -/
def F64.k0 (x : F64) : Bool := decide (x.k1 = 0) && decide (x.ssel = 0)
/-- K1 = 1, no stream. -/
def F64.kx (x : F64) : Bool := decide (x.k1 = 1) && decide (x.ssel = 0)
/-- MOD bit `37 + j`. -/
def F64.mb (x : F64) (j : Nat) : Bool := x.mod.getLsbD j
/-- MOD has no bit outside the mask given. -/
def F64.modIn (x : F64) (allowed : BitVec 5) : Bool := decide (x.mod &&& ~~~allowed = 0)

/-- VCFG (R291, R344 to R347). -/
def decVcfg (x : F64) : Dec :=
  match x.op.toNat with
  | 0 =>
    if !x.modIn 1 then .error .modifier
    else need (decide (x.k1 = 1) && decide (x.s2 = 0) && decide (x.s3 = 0) && x.noMask
               && decide (x.imm.extractLsb' 10 6 = 0) && vtypeWf (x.imm.extractLsb' 0 10)
               && (x.mb 0 || decide (x.ssel = 0))) .field
           (.vsetl x.d x.s1 (x.imm.extractLsb' 0 10) (if x.mb 0 then some x.ssel else none))
  | 1 =>
    if !x.modIn 0 then .error .modifier
    else need (x.k0 && decide (x.s1 = 0) && decide (x.s2 = 0) && decide (x.s3 = 0) && x.noMask
               && decide (x.imm.extractLsb' 4 12 = 0)) .field
           (.vdecl x.d (x.imm.extractLsb' 0 2) (x.imm.extractLsb' 2 2))
  | 2 =>
    if !x.modIn 0 then .error .modifier
    else need (decide (x.k1 = 1) && decide (x.d = 0) && x.noMask && decide (x.imm.extractLsb' 3 13 = 0)) .field
           (.dscfg x.ssel x.s1 x.s2 x.s3 (x.imm.extractLsb' 0 2) (x.imm.getLsbD 2))
  | 3 =>
    if !x.modIn 0 then .error .modifier
    else need (decide (x.k1 = 0) && decide (x.d = 0) && decide (x.s1 = 0) && decide (x.s2 = 0) && decide (x.s3 = 0)
               && x.noMask && decide (x.imm = 0)) .field
           (.dsclr x.ssel)
  | _ => .error .function

/-- VLOAD (R348). -/
def decVload (x : F64) : Dec :=
  match x.op.toNat with
  | 0 => if !x.modIn 3 then .error .modifier
    else need (x.k0 && x.maskOk && decide (x.s1 = 0) && decide (x.s2 = 0)) .field (.vld x.d x.s3 x.imm (x.mb 0) (x.mb 1) x.mask)
  | 1 => if !x.modIn 3 then .error .modifier
    else need (x.kx && x.maskOk && decide (x.s2 = 0)) .field (.vlds x.d x.s3 x.s1 x.imm (x.mb 0) (x.mb 1) x.mask)
  | 2 => if !x.modIn 3 then .error .modifier
    else need (x.k0 && x.maskOk && decide (x.s1 = 0) && decide (x.imm.extractLsb' 2 14 = 0)) .field
      (.vldx x.d x.s3 x.s2 (x.imm.extractLsb' 0 2) (x.mb 0) (x.mb 1) x.mask)
  | 3 => if !x.modIn 5 then .error .modifier
    else need (x.k0 && x.maskOk && decide (x.s1 = 0) && decide (x.s2 = 0)) .field (.vldt x.d x.s3 x.imm (x.mb 0) (x.mb 2) x.mask)
  | _ => .error .function

/-- VSTORE (R348, R351). -/
def decVstore (x : F64) : Dec :=
  match x.op.toNat with
  | 0 => if !x.modIn 8 then .error .modifier
    else if x.mb 3 then
      need (decide (x.k1 = 0) && x.noMask && decide (x.s1 = 0) && decide (x.s2 = 0) && decide (x.s3 = 0) && decide (x.imm = 0)) .field
        (.vst x.d (.ds x.ssel) .unmasked)
    else need (x.k0 && x.maskOk && decide (x.s1 = 0) && decide (x.s2 = 0)) .field (.vst x.d (.mem x.s3 x.imm) x.mask)
  | 1 => if !x.modIn 0 then .error .modifier
    else need (x.kx && x.maskOk && decide (x.s2 = 0)) .field (.vsts x.d x.s3 x.s1 x.imm x.mask)
  | 2 => if !x.modIn 0 then .error .modifier
    else need (x.k0 && x.maskOk && decide (x.s1 = 0) && decide (x.imm.extractLsb' 2 14 = 0)) .field
      (.vstx x.d x.s3 x.s2 (x.imm.extractLsb' 0 2) x.mask)
  | 3 => if !x.modIn 0 then .error .modifier
    else need (x.k0 && x.maskOk && decide (x.s1 = 0) && decide (x.s2 = 0)) .field (.vstt x.d x.s3 x.imm x.mask)
  | _ => .error .function

/-- A binary form: MOD within `allowed`, S3 zero, a governing mask. -/
def F64.bin (x : F64) (allowed : BitVec 5) (src : Bool) (i : Instr) : Dec :=
  if !x.modIn allowed then .error .modifier
  else need (src && x.maskOk && decide (x.s3 = 0)) .field i

/-- VINT (R352 to R354). -/
def decVint (x : F64) : Dec :=
  let u := x.mb 0
  let ok := x.src1Ok
  match x.op.toNat with
  | 0 => x.bin 0 ok (.vadd x.d x.s2 x.src1 x.mask)
  | 1 => x.bin 0 ok (.vsub x.d x.s2 x.src1 x.mask)
  | 2 => x.bin 0 ok (.vrsub x.d x.s2 x.src1 x.mask)
  | 3 => x.bin 0 ok (.vmul x.d x.s2 x.src1 x.mask)
  | 4 => x.bin 1 ok (.vmulh u x.d x.s2 x.src1 x.mask)
  | 5 => x.bin 1 ok (.vdiv u x.d x.s2 x.src1 x.mask)
  | 6 => x.bin 1 ok (.vrem u x.d x.s2 x.src1 x.mask)
  | 7 => x.bin 1 ok (.vmin u x.d x.s2 x.src1 x.mask)
  | 8 => x.bin 1 ok (.vmax u x.d x.s2 x.src1 x.mask)
  | 9 => x.bin 0 ok (.vand x.d x.s2 x.src1 x.mask)
  | 10 => x.bin 0 ok (.vor x.d x.s2 x.src1 x.mask)
  | 11 => x.bin 0 ok (.vxor x.d x.s2 x.src1 x.mask)
  | 12 => x.bin 0 ok (.vsll x.d x.s2 x.src1 x.mask)
  | 13 => x.bin 0 ok (.vsrl x.d x.s2 x.src1 x.mask)
  | 14 => x.bin 0 ok (.vsra x.d x.s2 x.src1 x.mask)
  | 15 => x.bin 1 ok (.vsadd u x.d x.s2 x.src1 x.mask)
  | 16 => x.bin 1 ok (.vssub u x.d x.s2 x.src1 x.mask)
  | 17 => x.bin 1 ok (.vnclip u x.d x.s2 x.src1 x.mask)
  | 18 => x.bin 1 ok (.vwmul u x.d x.s2 x.src1 x.mask)
  | 19 => x.bin 15 (ok && condWf (x.mod.extractLsb' 1 3)) (.vcmp u (x.mod.extractLsb' 1 3) x.d x.s2 x.src1 x.mask)
  | 20 => x.bin 0 (ok && decide (x.um = 0)) (.vmerge x.d x.s2 x.src1 x.mreg)
  | 21 => x.bin 0 (ok && decide (x.s2 = 0)) (.vmv x.d x.src1 x.mask)
  | 22 => x.bin 0 x.srcXI (.vbcast x.d x.s2 x.xi x.mask)
  | _ => .error .function

/-- A unary form: K1 = 0 and S1, IMM16 zero. -/
def F64.un (x : F64) : Bool := x.k0 && decide (x.s1 = 0) && decide (x.imm = 0)

/-- VFP (R355). -/
def decVfp (x : F64) : Dec :=
  match x.op.toNat with
  | 0 => x.bin 0 x.srcFp (.vfadd x.d x.s2 x.src1 x.mask)
  | 1 => x.bin 0 x.srcFp (.vfsub x.d x.s2 x.src1 x.mask)
  | 2 => x.bin 0 x.srcFp (.vfmul x.d x.s2 x.src1 x.mask)
  | 3 => x.bin 0 x.srcFp (.vfdiv x.d x.s2 x.src1 x.mask)
  | 4 => x.bin 0 x.un (.vfsqrt x.d x.s2 x.mask)
  | 5 => x.bin 0 x.srcFp (.vfmin x.d x.s2 x.src1 x.mask)
  | 6 => x.bin 0 x.srcFp (.vfmax x.d x.s2 x.src1 x.mask)
  | 7 => x.bin 3 (x.srcFp && decide (x.mod.extractLsb' 0 2 ≠ 3)) (.vfsgn (x.mod.extractLsb' 0 2) x.d x.s2 x.src1 x.mask)
  | 8 => x.bin 0 x.un (.vfclass x.d x.s2 x.mask)
  | 9 => x.bin 14 (x.srcFp && condWf (x.mod.extractLsb' 1 3)) (.vfcmp (x.mod.extractLsb' 1 3) x.d x.s2 x.src1 x.mask)
  | _ => .error .function

/-- VFMA (R356). -/
def decVfma (x : F64) : Dec :=
  if x.op ≠ 0 then .error .function
  else if !x.modIn 3 then .error .modifier
  else need (x.srcFp && x.maskOk) .field (.vfma (x.mod.extractLsb' 0 2) x.d x.s2 x.src1 x.s3 x.mask)

/-- VSPEC (R357). -/
def decVspec (x : F64) : Dec :=
  match x.op.toNat with
  | 0 => x.bin 0 x.un (.vfrec x.d x.s2 x.mask)
  | 1 => x.bin 0 x.un (.vfrsq x.d x.s2 x.mask)
  | 2 => x.bin 0 x.srcFp (.vfrecref x.d x.s2 x.src1 x.mask)
  | 3 => x.bin 0 x.srcFp (.vfrsqref x.d x.s2 x.src1 x.mask)
  | 4 => x.bin 0 x.un (.vfexp2 x.d x.s2 x.mask)
  | 5 => x.bin 0 x.un (.vflog2 x.d x.s2 x.mask)
  | _ => .error .function

/-- VCVT (R358). -/
def decVcvt (x : F64) : Dec :=
  let src : BitVec 4 := x.imm.extractLsb' 0 4
  let ok := x.k0 && decide (x.s1 = 0) && decide (x.imm.extractLsb' 4 12 = 0)
  match x.op.toNat with
  | 0 => x.bin 0 (ok && fpSrcWf src) (.vfcvt x.d x.s2 src x.mask)
  | 1 => x.bin 1 (ok && fpSrcWf src) (.vfcvti (x.mb 0) x.d x.s2 src x.mask)
  | 2 => x.bin 0 (ok && intSrcWf src) (.vicvtf x.d x.s2 src x.mask)
  | 3 => x.bin 0 (ok && intSrcWf src) (.viext x.d x.s2 src x.mask)
  | _ => .error .function

/-- VRED (R359): MOD[37] .U, MOD[38] .F. -/
def decVred (x : F64) : Dec :=
  let u := x.mb 0
  let f := x.mb 1
  match x.op.toNat with
  | 0 => x.bin 2 x.srcVX (.vredsum f x.d x.s2 x.vx x.mask)
  | 1 => x.bin 0 x.srcVX (.vredosum x.d x.s2 x.vx x.mask)
  | 2 => x.bin 3 (x.srcVX && !(f && u)) (.vredmax f u x.d x.s2 x.vx x.mask)
  | 3 => x.bin 3 (x.srcVX && !(f && u)) (.vredmin f u x.d x.s2 x.vx x.mask)
  | 4 => x.bin 0 x.srcVX (.vredand x.d x.s2 x.vx x.mask)
  | 5 => x.bin 0 x.srcVX (.vredor x.d x.s2 x.vx x.mask)
  | _ => .error .function

/-- VMASK (R360). -/
def decVmask (x : F64) : Dec :=
  match x.op.toNat with
  | 0 => x.bin 7 (x.k0 && decide (x.imm = 0) && decide (x.um = 1)) (.vmlogic (x.mod.extractLsb' 0 3) x.d x.s2 x.s1)
  | 1 => x.bin 0 x.un (.vpopc x.d x.s2 x.mask)
  | 2 => x.bin 0 x.un (.vfirst x.d x.s2 x.mask)
  | 3 => x.bin 0 x.un (.viota x.d x.s2 x.mask)
  | _ => .error .function

/-- VPERM (R361 to R363). -/
def decVperm (x : F64) : Dec :=
  let k0i := x.k0 && decide (x.imm = 0)
  match x.op.toNat with
  | 0 => x.bin 0 x.srcXI (.vslideup x.d x.s2 x.xi x.mask)
  | 1 => x.bin 0 x.srcXI (.vslidedn x.d x.s2 x.xi x.mask)
  | 2 => x.bin 0 k0i (.vperm x.d x.s2 x.s1 x.mask)
  | 3 => x.bin 0 (k0i && decide (x.um = 1)) (.vcompress x.d x.s2 x.s1)
  | 4 => x.bin 0 (k0i && decide (x.um = 1)) (.vexpand x.d x.s2 x.s1)
  | 5 => x.bin 0 (x.srcXI && decide (x.um = 1)) (.vmvxs x.d x.s2 x.xi)
  | 6 => x.bin 0 (x.srcXI && decide (x.um = 1) && decide (x.s2 = 0)) (.vmvsx x.d x.xi)
  | _ => .error .function

/-- VSPARSE (R364 to R366). -/
def decVsparse (x : F64) : Dec :=
  match x.op.toNat with
  | 0 => x.bin 2 x.un (.vnzscan (x.mb 1) x.d x.s2 x.mask)
  | 1 =>
    if !x.modIn 6 then .error .modifier
    else need (x.srcXI && x.maskOk) .field (.vtopk (x.mb 1) (x.mb 2) x.d x.s3 x.s2 x.xi x.mask)
  | 2 => x.bin 2 (x.k0 && decide (x.imm = 0)) (.vsegscan (x.mb 1) x.d x.s2 x.s1 x.mask)
  | _ => .error .function

/-- VSOLVE (R367). -/
def decVsolve (x : F64) : Dec :=
  match x.op.toNat with
  | 0 => x.bin 0 (x.kx && decide (x.imm = 0)) (.vpivdiv x.d x.s2 x.s1 x.mask)
  | 1 => x.bin 2 x.un (.vpivsel (x.mb 1) x.d x.s2 x.mask)
  | _ => .error .function

/-- VMEMOP (R368 to R371). -/
def decVmemop (x : F64) : Dec :=
  let go (allowed : BitVec 5) (ok : Bool) (i : Instr) : Dec :=
    if !x.modIn allowed then .error .modifier else need (ok && x.maskOk) .field i
  match x.op.toNat with
  | 0 => go 15 (x.srcVX && decide ((x.mod.extractLsb' 0 4).toNat < 13)) (.vamo (x.mod.extractLsb' 0 4) x.d x.s3 x.s2 x.vx x.mask)
  | 1 => go 2 (x.srcVX && decide (x.d = 0)) (.vscatadd (x.mb 1) x.s3 x.s2 x.vx x.mask)
  | 2 => go 2 (x.srcVX && decide (x.d = 0)) (.vscatacc (x.mb 1) x.s3 x.s2 x.vx x.mask)
  | 3 => go 0 x.un (.vlock x.d x.s3 x.s2 x.mask)
  | 4 => go 0 (x.un && decide (x.d = 0)) (.vunlock x.s3 x.s2 x.mask)
  | _ => .error .function

/-- VNET (R372). -/
def decVnet (x : F64) : Dec :=
  match x.op.toNat with
  | 0 => x.bin 1 (x.un && decide (x.um = 1)) (.vsend (x.mb 0) x.d x.s2)
  | 1 => x.bin 1 (x.un && decide (x.um = 1)) (.vrecv (x.mb 0) x.d x.s2)
  | _ => .error .function

/-- MCFG (R375). -/
def decMcfg (x : F64) : Dec :=
  let go (allowed : BitVec 5) (ok : Bool) (i : Instr) : Dec :=
    if !x.modIn allowed then .error .modifier
    else need (ok && x.noMask && decide (x.ssel = 0) && decide (x.d = 0) && decide (x.s3 = 0)) .field i
  match x.op.toNat with
  | 0 => go 0 (decide (x.k1 = 0) && decide (x.s1 = 0) && decide (x.s2 = 0) && decide (x.imm.extractLsb' 4 12 = 0)) (.mten (x.imm.extractLsb' 0 4))
  | 1 => go 0 (decide (x.k1 = 0) && decide (x.s1 = 0) && decide (x.s2 = 0) && decide (x.imm = 0)) .mtdis
  | 2 => go 0 (decide (x.k1 = 1) && decide (x.s2 = 0) && decide (x.imm = 0)) (.mshape x.s1)
  | 3 => go 0 (x.srcXI && decide (x.s2 = 0) && (decide (x.k1 = 1) || (!x.imm.getLsbD 7 && !x.imm.getLsbD 15))) (.mpred x.xi)
  | 4 => go 1 (decide (x.k1 = 0) && decide (x.s1 = 0) && decide (x.imm.extractLsb' 6 10 = 0)) (.mscale (x.mb 0) x.s2 (x.imm.extractLsb' 0 6))
  | _ => .error .function

/-- The operands of MOPA and MOPS: MOD[37] A is a link queue, MOD[38] B is one. -/
def F64.opA (x : F64) : MOperand := if x.mb 0 then .lq x.s2 else .v x.s2
def F64.opB (x : F64) : MOperand := if x.mb 1 then .lq x.s1 else .v x.s1
def F64.fwd (x : F64) : Option Reg := if x.mb 3 then some x.s3 else none

/-- MOP (R375). -/
def decMop (x : F64) : Dec :=
  let go (allowed : BitVec 5) (ok : Bool) (i : Instr) : Dec :=
    if !x.modIn allowed then .error .modifier
    else need (ok && x.noMask && x.k0 && decide (x.imm = 0)) .field i
  match x.op.toNat with
  | 0 => go 15 (x.mb 3 || decide (x.s3 = 0)) (.mopa x.d x.opA x.opB (x.mb 2) x.fwd)
  | 1 => go 15 (x.mb 3 || decide (x.s3 = 0)) (.mops x.d x.opA x.opB (x.mb 2) x.fwd)
  | 2 => go 20 true (.mopag (x.mb 4) x.d x.s2 x.s1 x.s3 (x.mb 2))
  | _ => .error .function

/-- MMOV (R375, R376). -/
def decMmov (x : F64) : Dec :=
  let fmt : BitVec 4 := x.imm.extractLsb' 0 4
  let fmtOk := decide (x.imm.extractLsb' 4 12 = 0) && fmtWf fmt
  let plain := x.k0 && decide (x.s1 = 0)
  let go (allowed : BitVec 5) (ok : Bool) (i : Instr) : Dec :=
    if !x.modIn allowed then .error .modifier else need ok .field i
  let vi : Option Reg := if x.mb 1 then some x.s2 else none
  match x.op.toNat with
  | 0 => go 0 (plain && x.noMask && decide (x.s2 = 0) && decide (x.s3 = 0) && decide (x.imm = 0)) (.mzero x.d)
  | 1 => go 0 (x.srcXI && x.maskOk && decide (x.s3 = 0)) (.mtrd x.d x.s2 x.xi x.mask)
  | 2 => go 0 (x.srcXI && x.maskOk && decide (x.s3 = 0)) (.mtwr x.d x.s2 x.xi x.mask)
  | 3 => go 6 (plain && x.noMask && fmtOk && (x.mb 1 || decide (x.s2 = 0))) (.mtld x.d x.s3 vi (x.mb 2) fmt)
  | 4 => go 6 (plain && x.noMask && fmtOk && (x.mb 1 || decide (x.s2 = 0))) (.mtst x.d x.s3 vi (x.mb 2) fmt)
  | 5 => go 5 (plain && x.noMask && fmtOk && decide (x.s3 = 0)) (.mtsend (x.mb 0) (x.mb 2) x.d x.s2 fmt)
  | 6 => go 1 (plain && x.noMask && decide (x.imm = 0) && decide (x.s3 = 0)) (.mtrecv (x.mb 0) x.d x.s2)
  | _ => .error .function

/-- MERGE (R375). -/
def decMerge (x : F64) : Dec :=
  let go (allowed : BitVec 5) (ok : Bool) (i : Instr) : Dec :=
    if !x.modIn allowed then .error .modifier else need (ok && decide (x.ssel = 0)) .field i
  match x.op.toNat with
  | 0 => go 0 (decide (x.k1 = 0) && x.noMask && decide (x.d = 0) && decide (x.s1 = 0) && decide (x.s2 = 0) && decide (x.imm.extractLsb' 5 11 = 0))
           (.mgcfg x.s3 (x.imm.extractLsb' 0 5))
  | 1 => go 0 (decide (x.k1 = 0) && x.maskOk && decide (x.d = 0) && decide (x.s3 = 0) && decide (x.imm.extractLsb' 3 13 = 0))
           (.mgin (x.imm.extractLsb' 0 3) x.s2 x.s1 x.mask)
  | 2 => go 1 (decide (x.k1 = 1) && x.noMask && decide (x.s2 = 0) && decide (x.imm = 0)) (.mgrun (x.mb 0) x.d x.s3 x.s1)
  | 3 => go 0 (decide (x.k1 = 0) && x.noMask && decide (x.s1 = 0) && decide (x.s2 = 0) && decide (x.imm = 0)) (.mgdrain x.d x.s3)
  | 4 => go 0 (decide (x.k1 = 0) && x.noMask && decide (x.d = 0) && decide (x.s1 = 0) && decide (x.s2 = 0) && decide (x.s3 = 0) && decide (x.imm = 0)) .mgrst
  | _ => .error .function

/-- XCOPY class (R375). -/
def decXcopy (x : F64) : Dec :=
  let go (allowed : BitVec 5) (ok : Bool) (i : Instr) : Dec :=
    if !x.modIn allowed then .error .modifier else need (ok && x.noMask) .field i
  match x.op.toNat with
  | 0 => go 3 x.srcXI (.xcopy (x.mb 0) (x.mb 1) x.d x.s3 x.s2 x.xi)
  | 1 => go 0 (x.kx && decide (x.s2 = 0) && decide (x.s3 = 0) && decide (x.imm = 0)) (.xwait x.d x.s1)
  | _ => .error .function

/-- The classes (R290). -/
def decVector (x : F64) : Dec :=
  match x.cls.toNat with
  | 0x00 => decVcfg x
  | 0x01 => decVload x
  | 0x02 => decVstore x
  | 0x03 => decVint x
  | 0x04 => decVfp x
  | 0x05 => decVfma x
  | 0x06 => decVspec x
  | 0x07 => decVcvt x
  | 0x08 => decVred x
  | 0x09 => decVmask x
  | 0x0A => decVperm x
  | 0x0B => decVsparse x
  | 0x0C => decVsolve x
  | 0x0D => decVmemop x
  | 0x0E => decVnet x
  | 0x10 => decMcfg x
  | 0x11 => decMop x
  | 0x12 => decMmov x
  | 0x14 => decMerge x
  | 0x15 => decXcopy x
  | _ => .error .opcode

/-- Decode a 32-bit scalar word. -/
def decode32 (w : Parcel) : Dec := decScalar (F32.unpack w)
/-- Decode a 64-bit word of kind 0b11. -/
def decode64 (w : BitVec 64) : Dec := decVector (F64.unpack w)

/-- N of a convoy header (R287). -/
def convoyCount (h : Parcel) : Nat := (h.extractLsb' 2 3).toNat

/-- The parcels an instruction whose first parcel is `p` has (R281): a header outside 2 to 6 members declares none (log 12). -/
def parcelCount (p : Parcel) : Nat :=
  if p.extractLsb' 0 2 = 3 then 2
  else if p.extractLsb' 0 2 = 1 then
    (if 2 ≤ convoyCount p ∧ convoyCount p ≤ 6 then 1 + 2 * convoyCount p else 1)
  else 1

/-- Pair parcels into 64-bit words, the first of a pair in the low half. -/
def pairParcels : List Parcel → List (BitVec 64)
  | a :: b :: r => (b ++ a) :: pairParcels r
  | _ => []

/-- Decode an instruction from its parcels (R281, R292). A header's own defects are found when it executes (R287). -/
def decode (ps : List Parcel) : Dec :=
  match ps with
  | [] => .error .missing
  | p :: r =>
    if p.extractLsb' 0 2 = 3 then
      match r with
      | q :: _ => decode64 (q ++ p)
      | [] => .error .missing
    else if p.extractLsb' 0 2 = 1 then
      if (r.take (parcelCount p - 1)).length = parcelCount p - 1 then
        .ok (.convoy p (pairParcels (r.take (parcelCount p - 1))))
      else .error .missing
    else decode32 p

/-! ### Encoding -/

/-- Fields of a scalar instruction, from the same tables. -/
def Instr.fields32 : Instr → Option F32
  | .add d a b => some (.reg 0x02 0x00 d a b)
  | .sub d a b => some (.reg 0x02 0x01 d a b)
  | .and d a b => some (.reg 0x02 0x02 d a b)
  | .or d a b => some (.reg 0x02 0x03 d a b)
  | .xor d a b => some (.reg 0x02 0x04 d a b)
  | .sll d a b => some (.reg 0x02 0x05 d a b)
  | .srl d a b => some (.reg 0x02 0x06 d a b)
  | .sra d a b => some (.reg 0x02 0x07 d a b)
  | .slt d a b => some (.reg 0x02 0x08 d a b)
  | .sltu d a b => some (.reg 0x02 0x09 d a b)
  | .min d a b => some (.reg 0x02 0x0A d a b)
  | .max d a b => some (.reg 0x02 0x0B d a b)
  | .minu d a b => some (.reg 0x02 0x0C d a b)
  | .maxu d a b => some (.reg 0x02 0x0D d a b)
  | .mul d a b => some (.reg 0x02 0x10 d a b)
  | .mulh d a b => some (.reg 0x02 0x11 d a b)
  | .mulhu d a b => some (.reg 0x02 0x12 d a b)
  | .div d a b => some (.reg 0x02 0x14 d a b)
  | .divu d a b => some (.reg 0x02 0x15 d a b)
  | .rem d a b => some (.reg 0x02 0x16 d a b)
  | .remu d a b => some (.reg 0x02 0x17 d a b)
  | .addw d a b => some (.reg 0x06 0x00 d a b)
  | .subw d a b => some (.reg 0x06 0x01 d a b)
  | .sllw d a b => some (.reg 0x06 0x05 d a b)
  | .srlw d a b => some (.reg 0x06 0x06 d a b)
  | .sraw d a b => some (.reg 0x06 0x07 d a b)
  | .mulw d a b => some (.reg 0x06 0x10 d a b)
  | .addi d a i => some (.immF 0x04 0 d a i)
  | .andi d a i => some (.immF 0x04 1 d a i)
  | .ori d a i => some (.immF 0x04 2 d a i)
  | .xori d a i => some (.immF 0x04 3 d a i)
  | .slti d a i => some (.immF 0x04 4 d a i)
  | .sltiu d a i => some (.immF 0x04 5 d a i)
  | .slli d a s => some (.immF 0x04 6 d a (0#6 ++ s))
  | .srli d a s => some (.immF 0x04 7 d a (0#6 ++ s))
  | .srai d a s => some (.immF 0x04 7 d a (0b100000#6 ++ s))
  | .ldd d a i => some (.immF 0x08 0 d a i)
  | .ldw d a i => some (.immF 0x08 1 d a i)
  | .ldwz d a i => some (.immF 0x08 2 d a i)
  | .ldh d a i => some (.immF 0x08 3 d a i)
  | .ldhz d a i => some (.immF 0x08 4 d a i)
  | .ldb d a i => some (.immF 0x08 5 d a i)
  | .ldbz d a i => some (.immF 0x08 6 d a i)
  | .std b a i => some (.immF 0x0A 0 b a i)
  | .stw b a i => some (.immF 0x0A 1 b a i)
  | .sth b a i => some (.immF 0x0A 2 b a i)
  | .stb b a i => some (.immF 0x0A 3 b a i)
  | .beq a b i => some (.immF 0x0C 0 a b i)
  | .bne a b i => some (.immF 0x0C 1 a b i)
  | .blt a b i => some (.immF 0x0C 2 a b i)
  | .bge a b i => some (.immF 0x0C 3 a b i)
  | .bltu a b i => some (.immF 0x0C 4 a b i)
  | .bgeu a b i => some (.immF 0x0C 5 a b i)
  | .jl d i => some (.jump 0x0E d i)
  | .jlr d a i => some (.immF 0x10 0 d a i)
  | .lih d i => some (.jump 0x12 d i)
  | .addpc d i => some (.jump 0x14 d i)
  | .fadd s d a b => some (.reg 0x16 (fpFn 0 s 0) d a b)
  | .fsub s d a b => some (.reg 0x16 (fpFn 1 s 0) d a b)
  | .fmul s d a b => some (.reg 0x16 (fpFn 2 s 0) d a b)
  | .fdiv s d a b => some (.reg 0x16 (fpFn 3 s 0) d a b)
  | .fsqrt s d a => some (.reg 0x16 (fpFn 4 s 0) d a 0)
  | .fmin s d a b => some (.reg 0x16 (fpFn 5 s 0) d a b)
  | .fmax s d a b => some (.reg 0x16 (fpFn 6 s 0) d a b)
  | .fcmp s c d a b => some (.reg 0x16 (fpFn 7 s c) d a b)
  | .fclass s d a => some (.reg 0x16 (fpFn 8 s 0) d a 0)
  | .fcvt s k d a => some (.reg 0x16 (fpFn 9 s k) d a 0)
  | .fma s d a b c => some (.reg 0x18 (0#4 ++ BitVec.ofBool s ++ c) d a b)
  | .amoadd s o d a b => some (.reg 0x1A (amoFn 0 s o) d a b)
  | .amoand s o d a b => some (.reg 0x1A (amoFn 1 s o) d a b)
  | .amoor s o d a b => some (.reg 0x1A (amoFn 2 s o) d a b)
  | .amoxor s o d a b => some (.reg 0x1A (amoFn 3 s o) d a b)
  | .amomin s o d a b => some (.reg 0x1A (amoFn 4 s o) d a b)
  | .amomax s o d a b => some (.reg 0x1A (amoFn 5 s o) d a b)
  | .amoswap s o d a b => some (.reg 0x1A (amoFn 6 s o) d a b)
  | .amocas s o d a b => some (.reg 0x1A (amoFn 7 s o) d a b)
  | .amofadd s o d a b => some (.reg 0x1A (amoFn 8 s o) d a b)
  | .csrr d c => some (.immF 0x1C 0 d 0 c)
  | .csrw c a => some (.immF 0x1C 1 0 a c)
  | .csrs c a => some (.immF 0x1C 2 0 a c)
  | .csrc c a => some (.immF 0x1C 3 0 a c)
  | .svc n => some (.immF 0x1C 4 0 0 n)
  | .bkpt => some (.immF 0x1C 5 0 0 0)
  | .tret => some (.immF 0x1C 5 0 0 1)
  | .halt => some (.immF 0x1C 5 0 0 2)
  | .pulse => some (.immF 0x1C 5 0 0 3)
  | .phase n => some (.immF 0x1C 6 0 0 (0#4 ++ n))
  | .tinv o a => some (.immF 0x1C 7 0 a (0#10 ++ o))
  | .fence k s => some (.immF 0x1E 0 0 0 (0#8 ++ k ++ s))
  | .lsync s => some (.immF 0x1E 1 0 0 (0#10 ++ s))
  | .ifence => some (.immF 0x1E 2 0 0 0)
  | .cwb a i => some (.immF 0x20 0 0 a i)
  | .cinv a i => some (.immF 0x20 1 0 a i)
  | .iinv a i => some (.immF 0x20 2 0 a i)
  | .qsend r q b => some (.reg 0x22 (0#5 ++ (if r then 2#2 else 0#2) ++ 0#3) 0 q b)
  | .qrecv r d q => some (.reg 0x22 (1#5 ++ (if r then 1#2 else 0#2) ++ 0#3) d q 0)
  | .qpeek d q => some (.reg 0x22 (2#5 ++ 0#5) d q 0)
  | .qpoll d q => some (.reg 0x22 (3#5 ++ 0#5) d q 0)
  | .bar l n => some (.immF 0x24 0 0 0 (0#7 ++ BitVec.ofBool l ++ n))
  | .ctrwait d a c => some (.immF 0x24 1 d a (0#2 ++ c))
  | .ctradd r d a c => some (.immF 0x24 2 d a (0#1 ++ BitVec.ofBool r ++ c))
  | .launch d a q => some (.immF 0x24 3 d a (0#8 ++ q))
  | .clz d a => some (.immF 0x26 0 d a 0)
  | .ctz d a => some (.immF 0x26 1 d a 0)
  | .popc d a => some (.immF 0x26 2 d a 0)
  | .bswap d a => some (.immF 0x26 3 d a 0)
  | .bfx d a p w => some (.immF 0x26 4 d a (w ++ p))
  | .bfi d a p w => some (.immF 0x26 5 d a (w ++ p))
  | _ => none
where
  /-- fn of an FPU form (R316). -/
  fpFn (op : BitVec 5) (d : Bool) (k : BitVec 4) : BitVec 10 := op ++ BitVec.ofBool d ++ k
  /-- fn of an AMO form (R321). -/
  amoFn (op : BitVec 5) (d : Bool) (ord : BitVec 2) : BitVec 10 := op ++ ord ++ 0#1 ++ 1#1 ++ BitVec.ofBool d

/-- Put the first source into K1, S1, IMM16 and SSEL. -/
def F64.withSrc1 (x : F64) : Src1 → F64
  | .v r => { x with k1 := 0, s1 := r }
  | .x r => { x with k1 := 1, s1 := r }
  | .imm i => { x with k1 := 2, imm := i }
  | .ds p => { x with k1 := 3, ssel := p }
def F64.withXI (x : F64) : XOrImm → F64
  | .x r => { x with k1 := 1, s1 := r }
  | .imm i => { x with k1 := 2, imm := i }
def F64.withVX (x : F64) : VOrX → F64
  | .v r => { x with k1 := 0, s1 := r }
  | .x r => { x with k1 := 1, s1 := r }
def F64.withMask (x : F64) : VMask → F64
  | .unmasked => x
  | .masked m => { x with um := 0, mreg := m }

/-- A vector form with destination, vs2, s1, MOD and mask. -/
def F64.vec (cls op : BitVec 6) (d s2 : Reg) (s1 : Src1) (mod : BitVec 5) (m : VMask) : F64 :=
  (({ F64.base cls op with d, s2, mod } : F64).withSrc1 s1).withMask m
def F64.vecXI (cls op : BitVec 6) (d s2 : Reg) (s1 : XOrImm) (mod : BitVec 5) (m : VMask) : F64 :=
  (({ F64.base cls op with d, s2, mod } : F64).withXI s1).withMask m
def F64.vecVX (cls op : BitVec 6) (d s2 : Reg) (s1 : VOrX) (mod : BitVec 5) (m : VMask) : F64 :=
  (({ F64.base cls op with d, s2, mod } : F64).withVX s1).withMask m
def F64.vec1 (cls op : BitVec 6) (d s2 s1 : Reg) (imm : BitVec 16) (mod : BitVec 5) (m : VMask) : F64 :=
  ({ F64.base cls op with d, s2, s1, imm, mod } : F64).withMask m

/-- Five MOD bits from [37] up. -/
def mod5 (b0 b1 b2 b3 b4 : Bool) : BitVec 5 :=
  BitVec.ofBool b4 ++ BitVec.ofBool b3 ++ BitVec.ofBool b2 ++ BitVec.ofBool b1 ++ BitVec.ofBool b0

/-- Fields of a 64-bit instruction, from the same tables. -/
def Instr.fields64 : Instr → Option F64
  | .vsetl d a vt ds => some { F64.base 0 0 with
      d, s1 := a, k1 := 1, imm := 0#6 ++ vt, mod := mod5 ds.isSome false false false false, ssel := ds.getD 0 }
  | .vdecl d n s => some { F64.base 0 1 with d, imm := 0#12 ++ s ++ n }
  | .dscfg p a b c w o => some { F64.base 0 2 with ssel := p, s1 := a, s2 := b, s3 := c, k1 := 1, imm := 0#13 ++ BitVec.ofBool o ++ w }
  | .dsclr p => some { F64.base 0 3 with ssel := p }
  | .vld d xb e lu ff m => some (({ F64.base 1 0 with d, s3 := xb, imm := e, mod := mod5 lu ff false false false } : F64).withMask m)
  | .vlds d xb xs e lu ff m => some (({ F64.base 1 1 with d, s3 := xb, s1 := xs, k1 := 1, imm := e, mod := mod5 lu ff false false false } : F64).withMask m)
  | .vldx d xb vi iw lu ff m => some (({ F64.base 1 2 with d, s3 := xb, s2 := vi, imm := 0#14 ++ iw, mod := mod5 lu ff false false false } : F64).withMask m)
  | .vldt d xb e lu t m => some (({ F64.base 1 3 with d, s3 := xb, imm := e, mod := mod5 lu false t false false } : F64).withMask m)
  | .vst d (.mem xb e) m => some (({ F64.base 2 0 with d, s3 := xb, imm := e } : F64).withMask m)
  | .vst d (.ds p) m => some (({ F64.base 2 0 with d, ssel := p, mod := mod5 false false false true false } : F64).withMask m)
  | .vsts d xb xs e m => some (({ F64.base 2 1 with d, s3 := xb, s1 := xs, k1 := 1, imm := e } : F64).withMask m)
  | .vstx d xb vi iw m => some (({ F64.base 2 2 with d, s3 := xb, s2 := vi, imm := 0#14 ++ iw } : F64).withMask m)
  | .vstt d xb e m => some (({ F64.base 2 3 with d, s3 := xb, imm := e } : F64).withMask m)
  | .vadd d a b m => some (.vec 3 0 d a b 0 m)
  | .vsub d a b m => some (.vec 3 1 d a b 0 m)
  | .vrsub d a b m => some (.vec 3 2 d a b 0 m)
  | .vmul d a b m => some (.vec 3 3 d a b 0 m)
  | .vmulh u d a b m => some (.vec 3 4 d a b (mod5 u false false false false) m)
  | .vdiv u d a b m => some (.vec 3 5 d a b (mod5 u false false false false) m)
  | .vrem u d a b m => some (.vec 3 6 d a b (mod5 u false false false false) m)
  | .vmin u d a b m => some (.vec 3 7 d a b (mod5 u false false false false) m)
  | .vmax u d a b m => some (.vec 3 8 d a b (mod5 u false false false false) m)
  | .vand d a b m => some (.vec 3 9 d a b 0 m)
  | .vor d a b m => some (.vec 3 10 d a b 0 m)
  | .vxor d a b m => some (.vec 3 11 d a b 0 m)
  | .vsll d a b m => some (.vec 3 12 d a b 0 m)
  | .vsrl d a b m => some (.vec 3 13 d a b 0 m)
  | .vsra d a b m => some (.vec 3 14 d a b 0 m)
  | .vsadd u d a b m => some (.vec 3 15 d a b (mod5 u false false false false) m)
  | .vssub u d a b m => some (.vec 3 16 d a b (mod5 u false false false false) m)
  | .vnclip u d a b m => some (.vec 3 17 d a b (mod5 u false false false false) m)
  | .vwmul u d a b m => some (.vec 3 18 d a b (mod5 u false false false false) m)
  | .vcmp u c d a b m => some (.vec 3 19 d a b (0#1 ++ c ++ BitVec.ofBool u) m)
  | .vmerge d a b mk => some (.vec 3 20 d a b 0 (.masked mk))
  | .vmv d b m => some (.vec 3 21 d 0 b 0 m)
  | .vbcast d a b m => some (.vecXI 3 22 d a b 0 m)
  | .vfadd d a b m => some (.vec 4 0 d a b 0 m)
  | .vfsub d a b m => some (.vec 4 1 d a b 0 m)
  | .vfmul d a b m => some (.vec 4 2 d a b 0 m)
  | .vfdiv d a b m => some (.vec 4 3 d a b 0 m)
  | .vfsqrt d a m => some (.vec1 4 4 d a 0 0 0 m)
  | .vfmin d a b m => some (.vec 4 5 d a b 0 m)
  | .vfmax d a b m => some (.vec 4 6 d a b 0 m)
  | .vfsgn j d a b m => some (.vec 4 7 d a b (0#3 ++ j) m)
  | .vfclass d a m => some (.vec1 4 8 d a 0 0 0 m)
  | .vfcmp c d a b m => some (.vec 4 9 d a b (0#1 ++ c ++ 0#1) m)
  | .vfma n d a b c m => some { F64.vec 5 0 d a b (0#3 ++ n) m with s3 := c }
  | .vfrec d a m => some (.vec1 6 0 d a 0 0 0 m)
  | .vfrsq d a m => some (.vec1 6 1 d a 0 0 0 m)
  | .vfrecref d a b m => some (.vec 6 2 d a b 0 m)
  | .vfrsqref d a b m => some (.vec 6 3 d a b 0 m)
  | .vfexp2 d a m => some (.vec1 6 4 d a 0 0 0 m)
  | .vflog2 d a m => some (.vec1 6 5 d a 0 0 0 m)
  | .vfcvt d a s m => some (.vec1 7 0 d a 0 (0#12 ++ s) 0 m)
  | .vfcvti u d a s m => some (.vec1 7 1 d a 0 (0#12 ++ s) (mod5 u false false false false) m)
  | .vicvtf d a s m => some (.vec1 7 2 d a 0 (0#12 ++ s) 0 m)
  | .viext d a s m => some (.vec1 7 3 d a 0 (0#12 ++ s) 0 m)
  | .vredsum f d a b m => some (.vecVX 8 0 d a b (mod5 false f false false false) m)
  | .vredosum d a b m => some (.vecVX 8 1 d a b 0 m)
  | .vredmax f u d a b m => some (.vecVX 8 2 d a b (mod5 u f false false false) m)
  | .vredmin f u d a b m => some (.vecVX 8 3 d a b (mod5 u f false false false) m)
  | .vredand d a b m => some (.vecVX 8 4 d a b 0 m)
  | .vredor d a b m => some (.vecVX 8 5 d a b 0 m)
  | .vmlogic o d a b => some (.vec1 9 0 d a b 0 (0#2 ++ o) .unmasked)
  | .vpopc d a m => some (.vec1 9 1 d a 0 0 0 m)
  | .vfirst d a m => some (.vec1 9 2 d a 0 0 0 m)
  | .viota d a m => some (.vec1 9 3 d a 0 0 0 m)
  | .vslideup d a b m => some (.vecXI 10 0 d a b 0 m)
  | .vslidedn d a b m => some (.vecXI 10 1 d a b 0 m)
  | .vperm d a b m => some (.vec1 10 2 d a b 0 0 m)
  | .vcompress d a b => some (.vec1 10 3 d a b 0 0 .unmasked)
  | .vexpand d a b => some (.vec1 10 4 d a b 0 0 .unmasked)
  | .vmvxs d a b => some (.vecXI 10 5 d a b 0 .unmasked)
  | .vmvsx d b => some (.vecXI 10 6 d 0 b 0 .unmasked)
  | .vnzscan f d a m => some (.vec1 11 0 d a 0 0 (mod5 false f false false false) m)
  | .vtopk f v d i a b m => some { F64.vecXI 11 1 d a b (mod5 false f v false false) m with s3 := i }
  | .vsegscan f d a b m => some (.vec1 11 2 d a b 0 (mod5 false f false false false) m)
  | .vpivdiv d a x m => some { F64.vec1 12 0 d a x 0 0 m with k1 := 1 }
  | .vpivsel f d a m => some (.vec1 12 1 d a 0 0 (mod5 false f false false false) m)
  | .vamo o d xb vi b m => some { F64.vecVX 13 0 d vi b (0#1 ++ o) m with s3 := xb }
  | .vscatadd f xb vi b m => some { F64.vecVX 13 1 0 vi b (mod5 false f false false false) m with s3 := xb }
  | .vscatacc f xb vi b m => some { F64.vecVX 13 2 0 vi b (mod5 false f false false false) m with s3 := xb }
  | .vlock d xb vi m => some { F64.vec1 13 3 d vi 0 0 0 m with s3 := xb }
  | .vunlock xb vi m => some { F64.vec1 13 4 0 vi 0 0 0 m with s3 := xb }
  | .vsend r q a => some (.vec1 14 0 q a 0 0 (mod5 r false false false false) .unmasked)
  | .vrecv r d q => some (.vec1 14 1 d q 0 0 (mod5 r false false false false) .unmasked)
  | .mten n => some { F64.base 16 0 with imm := 0#12 ++ n }
  | .mtdis => some (F64.base 16 1)
  | .mshape a => some { F64.base 16 2 with s1 := a, k1 := 1 }
  | .mpred s => some ((F64.base 16 3).withXI s)
  | .mscale b v n => some { F64.base 16 4 with s2 := v, mod := mod5 b false false false false, imm := 0#10 ++ n }
  | .mopa c a b i f => some (mopF 0 c a b i f)
  | .mops c a b i f => some (mopF 1 c a b i f)
  | .mopag g c a b xb i => some { F64.base 17 2 with d := c, s2 := a, s1 := b, s3 := xb, mod := mod5 false false i false g }
  | .mzero c => some { F64.base 18 0 with d := c }
  | .mtrd d c o m => some (.vecXI 18 1 d c o 0 m)
  | .mtwr c v o m => some (.vecXI 18 2 c v o 0 m)
  | .mtld c xb vi t f => some { F64.base 18 3 with d := c, s3 := xb, s2 := vi.getD 0, mod := mod5 false vi.isSome t false false, imm := 0#12 ++ f }
  | .mtst c xb vi t f => some { F64.base 18 4 with d := c, s3 := xb, s2 := vi.getD 0, mod := mod5 false vi.isSome t false false, imm := 0#12 ++ f }
  | .mtsend r t q c f => some { F64.base 18 5 with d := q, s2 := c, mod := mod5 r false t false false, imm := 0#12 ++ f }
  | .mtrecv r c q => some { F64.base 18 6 with d := c, s2 := q, mod := mod5 r false false false false }
  | .mgcfg xb k => some { F64.base 20 0 with s3 := xb, imm := 0#11 ++ k }
  | .mgin k c v m => some (.vec1 20 1 0 c v (0#13 ++ k) 0 m)
  | .mgrun r d xb xl => some { F64.base 20 2 with d, s1 := xl, k1 := 1, s3 := xb, mod := mod5 r false false false false }
  | .mgdrain c v => some { F64.base 20 3 with d := c, s3 := v }
  | .mgrst => some (F64.base 20 4)
  | .xcopy lu t c dst src len => some (({ F64.base 21 0 with d := c, s2 := src, s3 := dst, mod := mod5 lu t false false false } : F64).withXI len)
  | .xwait c a => some { F64.base 21 1 with d := c, s1 := a, k1 := 1 }
  | _ => none
where
  /-- Fields of MOPA and MOPS (R375). -/
  mopF (op : BitVec 6) (c : Reg) (a b : MOperand) (i : Bool) (f : Option Reg) : F64 :=
    let regOf : MOperand → Reg
      | .v r => r
      | .lq r => r
    let isLq : MOperand → Bool
      | .v _ => false
      | .lq _ => true
    { F64.base 17 op with d := c, s2 := regOf a, s1 := regOf b, s3 := f.getD 0, mod := mod5 (isLq a) (isLq b) i f.isSome false }

/-- The parcels of a convoy: its header, then its members (R287). -/
def Instr.convoyParcels : Instr → List Parcel
  | .convoy h ms => h :: ms.flatMap (fun w => [w.extractLsb' 0 32, w.extractLsb' 32 32])
  | _ => []

/-- The parcels of an instruction; events and the two failure steps have none. -/
def encode (i : Instr) : List Parcel :=
  match i.fields32 with
  | some x => [x.pack]
  | none =>
    match i.fields64 with
    | some x => [x.pack.extractLsb' 0 32, x.pack.extractLsb' 32 32]
    | none => i.convoyParcels

/-- Split a number into `n` parcels, the first from the low bits. -/
def parcelsOf : Nat → Nat → List Parcel
  | 0, _ => []
  | n + 1, w => BitVec.ofNat 32 w :: parcelsOf n (w / 2 ^ 32)

/-- The instruction the decoder reads from bits numbered as the opcode table numbers them; parcels above the row's bits are zero. -/
def decodeTableWord (nbits w : Nat) : Option Instr :=
  match decode (parcelsOf 13 (w % 2 ^ nbits)) with
  | .ok i => some i
  | .error _ => none

end Sys2Proof
end

