-- ==== Sys2Proof/Config.lean ====
section
/-!
DEFINITION. What the part fixes and this manual does not give: free values with no body. No proof can learn a value of one of them.
-/
namespace Sys2Proof.Config

/-- Result bits the manual leaves open inside a stated bound, drawn at use number `n` (log 4). -/
opaque freeValue : Nat → BitVec 64

/-- The free offset of VFEXP2 inside the 2 ulp of R275, by format width and operand: the same on every VX940 (log 6). -/
opaque exp2Pick : Nat → BitVec 64 → Nat

/-- As `exp2Pick`, for VFLOG2 (R275, log 6). -/
opaque log2Pick : Nat → BitVec 64 → Nat

/-- SHA-512 of an octet string (R72 to R76 name it and give no definition; log 7). -/
opaque sha512 : List Byte → BitVec 512

/-- ECDSA P-521 verification of a digest under a public key and signature (R73; log 7). -/
opaque p521Verify : (pubkey sig : List Byte) → (digest : BitVec 512) → Bool

/-- The fuses: the P-521 device identity key (R75). -/
opaque identityKey : List Byte

/-- The alias key pair that the boot ROM derives from the identity key and MEAS1 (R75; log 7). -/
opaque aliasKey : (identity : List Byte) → (meas1 : BitVec 512) → List Byte

/-- The certificate that an identity key makes of an alias key pair (R75; log 7). -/
opaque certify : (identity pair : List Byte) → List Byte

/-- The flash: the root and device identity certificates of slot 0 (R75; log 7). -/
opaque certBase : List Byte

/-- The ECDSA P-521 signature a key makes over an octet string (R76; log 7). -/
opaque p521Sign : (key msg : List Byte) → List Byte

/-- The fuses: silicon stepping (R56). -/
opaque stepping : BitVec 8

/-- The fuses: leakage bin code, 0 or 1 (R56, R14). -/
opaque leakageBin : BitVec 4

/-- The fuses: SHA-512 digest of the public key of a key slot (R72). -/
opaque keyDigest : Nat → BitVec 512

/-- The fuses: whether a key slot is revoked (R72). -/
opaque keyRevoked : Nat → Bool

/-- The boot ROM's own version record (R74). -/
opaque romVersion : List Byte

/-- The fuse configuration that MEAS2 is extended with (R74). -/
opaque fuseRecord : List Byte

/-- The neighbours of a junction sensor, listed in fuses (R122). -/
opaque sensorNeighbours : Nat → List Nat

/-- Whether the ordering code of the part is VX940-M (R2, R107). -/
opaque isModuleM : Bool

/-- The two copies of the management firmware image in flash, header and body (R72, R73; log 13). -/
opaque flashImage : (copyB : Bool) → List Byte

/-- The set of its stack's memory-side cache that holds a 64-byte line (R171, R172; log 9). -/
opaque cacheSet : Nat → Nat

/-- The way of its set in which a locked line is held: replacement is not architectural (R129, R171; log 9). -/
opaque cacheWay : Nat → Nat

/-- The pseudo-channel of a 64-byte line, by a hash fixed in each part (R173, R189; log 9). -/
opaque pseudoChannel : Nat → Nat

end Sys2Proof.Config
end

