-- ==== Sys2Proof/Machine/Map.lean ====
section
/-!
DEFINITION. Finite maps as plain data: a list of (key, value) pairs with keys strictly rising. With a default value,
the canonical form lists no pair whose value is the default, so equal maps are equal lists. Memory, vector registers,
tiles and register blocks are such maps.
-/
namespace Sys2Proof.Machine

/-- A map from natural-number keys: pairs with keys strictly rising. -/
abbrev FMap (α : Type) := List (Nat × α)

/-- The value listed at a key. -/
def FMap.find {α : Type} (k : Nat) : FMap α → Option α
  | [] => none
  | (j, v) :: m => if j = k then some v else FMap.find k m

/-- Remove a key. -/
def FMap.erase {α : Type} (k : Nat) : FMap α → FMap α
  | [] => []
  | (j, v) :: m => if j = k then FMap.erase k m else (j, v) :: FMap.erase k m

/-- List a value at a key, in rising order of keys. -/
def FMap.insert {α : Type} (k : Nat) (a : α) : FMap α → FMap α
  | [] => [(k, a)]
  | (j, v) :: m =>
    if k < j then (k, a) :: (j, v) :: m
    else if k = j then (k, a) :: m
    else (j, v) :: FMap.insert k a m

/-- The value at a key, `d` where none is listed. -/
def FMap.getD {α : Type} (d : α) (k : Nat) (m : FMap α) : α := (FMap.find k m).getD d

/-- Write a value at a key of a map with default `d`: the default removes the entry. -/
def FMap.setD {α : Type} [DecidableEq α] (d : α) (k : Nat) (a : α) (m : FMap α) : FMap α :=
  if a = d then FMap.erase k m else FMap.insert k a m

/-- Every listed key is at least `b` and keys rise strictly. -/
def FMap.sortedFrom {α : Type} (b : Nat) : FMap α → Bool
  | [] => true
  | (j, _) :: m => decide (b ≤ j) && FMap.sortedFrom (j + 1) m

/-- The canonical form for a map with default `d`. -/
def FMap.wf {α : Type} [DecidableEq α] (d : α) (m : FMap α) : Bool :=
  FMap.sortedFrom 0 m && m.all (fun p => decide (p.2 ≠ d))

/-- The canonical form of memory, a list of cells (log 3: an unlisted address reads 0). -/
def Memory.wf (m : FMap Byte) : Bool := FMap.wf 0 m

/-- Keep the entries whose key satisfies a test. -/
def FMap.keep {α : Type} (f : Nat → Bool) (m : FMap α) : FMap α := m.filter (fun p => f p.1)

end Sys2Proof.Machine
end

