-- ==== Sys2Proof/Machine/Bits.lean ====
section
/-!
DEFINITION. Bit fields, extension and byte order (00_scope R3, R7; 12_encoding R305).
-/
namespace Sys2Proof.Machine

/-- Bits [lo + len − 1 : lo] of a register, as a number. -/
def fld (w : Word) (lo len : Nat) : Nat := (w.toNat / 2 ^ lo) % 2 ^ len

/-- One bit of a register. -/
def bit (w : Word) (i : Nat) : Bool := w.getLsbD i

/-- The mask with bits [lo + len − 1 : lo] set. -/
def fieldMask (lo len : Nat) : Word := BitVec.ofNat 64 ((2 ^ len - 1) * 2 ^ lo)

/-- Replace bits [lo + len − 1 : lo] of a register. -/
def setFld (w : Word) (lo len v : Nat) : Word :=
  (w &&& ~~~ (fieldMask lo len)) ||| BitVec.ofNat 64 ((v % 2 ^ len) * 2 ^ lo)

/-- A Boolean as a one-bit number. -/
def b2n (b : Bool) : Nat := if b then 1 else 0

/-- SignExtend(x, w) of R305, as an integer. -/
def sextI (x w : Nat) : Int :=
  let y := x % 2 ^ w
  if w = 0 then 0 else if y < 2 ^ (w - 1) then (y : Int) else (y : Int) - (2 ^ w : Nat)

/-- An integer modulo 2^w. -/
def modW (x : Int) (w : Nat) : Nat := (x % ((2 ^ w : Nat) : Int)).toNat

/-- A 64-bit register holding SignExtend(x, w). -/
def sextW (x w : Nat) : Word := BitVec.ofInt 64 (sextI x w)

/-- The `n` low bytes of a number, least significant first (R3). -/
def bytesLE : Nat → Nat → List Byte
  | 0, _ => []
  | n + 1, v => BitVec.ofNat 8 v :: bytesLE n (v / 256)

/-- The number whose bytes, least significant first, are given (R3). -/
def ofBytesLE : List Byte → Nat
  | [] => 0
  | b :: bs => b.toNat + 256 * ofBytesLE bs

/-- RoundUp(x, a) of R305. -/
def roundUp (x a : Nat) : Nat := if a = 0 then x else (x + a - 1) / a * a

/-- RoundDown(x, a) of R305. -/
def roundDown (x a : Nat) : Nat := if a = 0 then x else x / a * a

/-- LargestPowerOfTwoAtMost(x) of R305 (0 for 0). -/
def pow2AtMost (x : Nat) : Nat := if x = 0 then 0 else 2 ^ Nat.log2 x

/-- The naturals `a`, `a+1`, …, `a+n−1`. -/
def upFrom (a : Nat) : Nat → List Nat
  | 0 => []
  | n + 1 => a :: upFrom (a + 1) n

/-- ceil(a / b). -/
def ceilDiv (a b : Nat) : Nat := if b = 0 then 0 else (a + b - 1) / b

/-- CRC-32C of an octet string, bitwise with the reflected Castagnoli polynomial (R15, R24, R79; log 7). -/
def crc32c (bs : List Byte) : Nat :=
  let stepBit (c : Nat) : Nat := if c % 2 = 1 then (c / 2) ^^^ 0x82F63B78 else c / 2
  let stepByte (c : Nat) (b : Byte) : Nat :=
    (List.range 8).foldl (fun c _ => stepBit c) (c ^^^ b.toNat)
  (bs.foldl stepByte 0xFFFFFFFF) ^^^ 0xFFFFFFFF

end Sys2Proof.Machine
end

