-- ==== Sys2Proof/Machine/State.lean ====
section
/-!
DEFINITION. The state of one VX940 as plain data: harts, crews, caches, memory, and the device's engines and registers.
INVENTORY.md lists each field with the rule that names it. Fields marked MODEL FIELD are the model's own (log 2, log 4).
-/
namespace Sys2Proof.Machine

/-- Why a step stops without a next state. -/
inductive Fault where
  /-- `step` raises it when the schedule names a hart that is not resident or has halted: no hardware step is meant by such
  a move (log 2). Safe: nothing is claimed of a run after it. -/
  | noSuchHart
  deriving DecidableEq, Repr

/-- Why an instruction has no meaning here. -/
inductive Refusal where
  /-- `exec` raises it for a constructor whose meaning is not written yet. Safe. -/
  | notModelled (mnemonic : String)
  deriving DecidableEq, Repr

/-- Trap causes by name (R223). -/
inductive Cause where
  | illegal | illegalConvoy | priv | misalignFetch | fetchFault | loadFault | storeFault | misalignData | accDisabled
  | shapeMismatch | streamUnderrun | mergeSpillFull | mergeOutFull | mergeOrder | poison | retiredPage | linkDown
  | barrierScope | svc | bkpt | queueUnbound | copyFault | streamUnconfig
  deriving DecidableEq, Repr

/-- TCAUSE.CODE of a cause (R223). -/
def Cause.code : Cause → Nat
  | .illegal => 0x01 | .illegalConvoy => 0x02 | .priv => 0x03 | .misalignFetch => 0x04 | .fetchFault => 0x05
  | .loadFault => 0x06 | .storeFault => 0x07 | .misalignData => 0x08 | .accDisabled => 0x09 | .shapeMismatch => 0x0A
  | .streamUnderrun => 0x0B | .mergeSpillFull => 0x0C | .mergeOutFull => 0x0D | .mergeOrder => 0x0E | .poison => 0x0F
  | .retiredPage => 0x10 | .linkDown => 0x11 | .barrierScope => 0x12 | .svc => 0x13 | .bkpt => 0x14
  | .queueUnbound => 0x15 | .copyFault => 0x16 | .streamUnconfig => 0x17

/-! ### Harts -/

/-- An imprecise report waiting for delivery (R227). -/
structure ImpReport where
  cause : Cause
  sub   : Nat
  tval  : Word
  deriving DecidableEq, Repr

/-- The control and status registers of one hart that hold values of their own (R295 and the maps it names). -/
structure Csrs where
  vl : Word
  vtype : Word
  vstart : Word
  vrc : Word
  vrp : Word
  vredacc : Word
  vflags : Word
  frm : Word
  mshape : Word
  mpred : Word
  mstart : Word
  amomode : Word
  pivtau : Word
  pivstat : Word
  ownmap : Word
  hweight : Word
  instret : Word
  mgoutb : Word
  mgoutl : Word
  mgspb : Word
  mgspl : Word
  mgmode : Word
  mgstate : Word
  mgocnt : Word
  mgtag : Word
  mgstat : Word
  tvec : Word
  tpc : Word
  tcause : Word
  tval : Word
  tstat : Word
  tscratch : Word
  hcap : Word
  deriving DecidableEq, Repr

/-- Stream port states as DSSTAT encodes them (R150, R151). -/
inductive StreamState where
  | unconfig | read | write | draining
  deriving DecidableEq, Repr

/-- An element appended to a write stream and not yet written: the VA to report, its PA, bytes and value, and the
instruction that appended it, by INSTRET (R149, R150, R226). -/
structure SElem where
  va : Nat
  pa : Nat
  n  : Nat
  v  : Nat
  ins : Word
  deriving DecidableEq, Repr

/-- A stream port (R149 to R151). Fetched elements are listed by their index in the pattern. -/
structure Stream where
  st    : StreamState
  base  : Nat
  c0    : Nat
  c1    : Nat
  c2    : Nat
  s0    : Int
  s1    : Int
  s2    : Int
  /-- element bytes -/
  width : Nat
  /-- elements consumed or appended -/
  pos   : Nat
  /-- read stream: elements fetched, by index -/
  buf   : FMap Nat
  /-- write stream: appended elements not yet written, oldest first -/
  pend  : List SElem
  /-- bytes the stream has written of poisoned lines, by line, byte b as bit b (R187) -/
  mend  : FMap Nat
  short : Bool
  fault : Bool
  deriving DecidableEq, Repr

/-- What came back: a value, a refusal, or poison. -/
inductive Answer where
  | value (v : Nat)
  | refused
  | poisoned
  deriving DecidableEq, Repr

/-- A copy channel (R158 to R160, R401). XSTAT.STATE is 0 IDLE, 1 RUNNING, 2 FAULTED. -/
structure CopyChan where
  st     : Nat
  cause  : Nat
  fva    : Nat
  src    : Nat
  dst    : Nat
  len    : Nat
  rows   : Nat
  pitch  : Int
  lu     : Bool
  /-- destination bytes filled -/
  done   : Nat
  /-- destination bytes whose page has been reached -/
  regd   : Nat
  /-- whether the XCOPY issued in system mode -/
  sys    : Bool
  /-- a source read that has left the device, and its answer -/
  ask    : Option Nat
  ans    : Option Answer
  /-- destination bytes posted that wait for their completion (R208) -/
  unit   : Nat
  /-- whether the current fault has been reported (R160) -/
  reported : Bool
  /-- granules whose contents before the hart's vector stores this copy reads, and the granule of which the last unit read
  a part (R207) -/
  view   : FMap Nat
  gran   : Option (Nat × Nat)
  deriving DecidableEq, Repr

/-- An outer product issued and not complete (R157): the tile elements it writes, by row × 64 + column, the flags it
raises, and the link queues whose oldest entries it holds (R153). -/
structure PendOp where
  tile  : Nat
  vals  : List (Nat × BitVec 32)
  flags : Nat
  holds : List Nat
  deriving DecidableEq, Repr

/-- A staged register stream of the merge network or a drain buffer (R241, R247): pairs (coordinate, value) at a value
width. -/
structure Staged where
  width : Nat
  pairs : List (Nat × Nat)
  deriving DecidableEq, Repr

/-- A request that left the core and waits for its answer (R34, R71): its tag and the key of the access in its
instruction. -/
structure Asked where
  tag : Nat
  key : Nat
  deriving DecidableEq, Repr

/-- Who posted a store: an instruction of the hart, a copy channel, or a write stream. -/
inductive Poster where
  | hart
  | chan (k : Nat)
  | stream (p : Nat)
  deriving DecidableEq, Repr

/-- Whether a copy channel posted it. -/
def Poster.isChan : Poster → Bool
  | .chan _ => true
  | _ => false

/-- A posted store without its completion (R34, R71): tag, the VA to report, who posted it, its physical bytes, the
instruction it belongs to (by INSTRET), and whether it has been refused and is not yet reported (R226). -/
structure Posted where
  tag : Nat
  va  : Nat
  by_ : Poster
  lo  : Nat
  n   : Nat
  ins : Word
  bad : Bool
  deriving DecidableEq, Repr

/-- A load performed before its turn (R134, R135, R196): INSTRET when its instruction executes, whether by the scalar
side, the bytes, and the value read. -/
structure EarlyRead where
  at_    : Word
  scalar : Bool
  pa     : Nat
  n      : Nat
  v      : Nat
  deriving DecidableEq, Repr

/-- A store to memory that has retired and is not yet performed (R197). -/
structure QStore where
  scalar : Bool
  pa : Nat
  n  : Nat
  v  : Nat
  deriving DecidableEq, Repr

/-- A stream-list entry of MGRUN (R239). -/
structure MEntry where
  kind  : Bool
  scale : Nat
  len   : Nat
  vbase : Nat
  cbase : Nat
  deriving DecidableEq, Repr

/-- What ends a merge pass early (R250, R252): a trap with its SUB and TVAL, or a translation fault with its kind and
access. -/
inductive MergeStop where
  | trap (c : Cause) (sub tval : Nat)
  | host (kind acc va : Nat)
  deriving DecidableEq, Repr

/-- A recording of a merge (R254): key, parameters, the list's description with staged lengths, and every stream's
coordinates. -/
structure Recording where
  core    : Nat
  tenant  : Nat
  asid    : Nat
  tag     : Word
  slots   : Nat
  accf    : Nat
  vfmt    : Nat
  entries : List MEntry
  coords  : List (List Nat)
  deriving DecidableEq, Repr

/-- Where an MGRUN stands: between passes or interrupted; inside a pass; a pass has met a trap that is not yet taken;
its final pass has ended. -/
inductive MergePhase where
  | idle | running | stopped | done
  deriving DecidableEq, Repr

/-- A merge in progress (R244 to R256), beside MGSTATE: its list as read, the recording that a replay uses, the pass that is
being run with the pairs it emits, and where that pass stops. -/
structure MergeRun where
  phase   : MergePhase
  /-- the list has been read and the merge has not been interrupted since -/
  live    : Bool
  reuse   : Bool
  rd      : Reg
  xb      : Reg
  xl      : Reg
  entries : List MEntry
  replay  : Option Recording
  /-- coordinates of the streams as read, by list index, for a recording (R254) -/
  coords  : FMap (List Nat)
  /-- pairs of the runs written so far, for the limit of R254 -/
  total   : Nat
  pass    : Nat
  /-- the entry after the pass's last, and the run's offset in 64-byte units where it is a spill run -/
  upTo    : Nat
  runoff  : Nat
  cap     : Nat
  final   : Bool
  /-- whether the output goes to the drain buffer, or the VA of the run -/
  toDrain : Bool
  base    : Nat
  /-- value bytes -/
  width   : Nat
  /-- pairs of the pass not yet written, and the number written and the last coordinate written -/
  pairs   : List (Nat × Nat)
  written : Nat
  lastC   : Option Nat
  /-- flags that each of those pairs raises when it is emitted, and after them those of pairs that DROPZ removes at the
  end (R240, R264) -/
  fls     : List Nat
  /-- granules whose contents before the hart's vector stores this merge reads (R207) -/
  view    : FMap Nat
  /-- coordinates the pass delivers, before DROPZ -/
  count   : Nat
  stop    : Option MergeStop
  deriving DecidableEq, Repr

/-- One hart (R133, R134 and the chapters of its instructions). -/
structure Hart where
  live  : Bool
  idx   : Nat
  pc    : Word
  x     : Vector Word 32
  /-- first parcel of the instruction being executed, for TVAL (R223) -/
  ir    : Parcel
  /-- fetched and prefetched parcels by VA (R212) -/
  ibuf  : FMap Parcel
  csr   : Csrs
  imp   : Option ImpReport
  nreg  : Nat
  sewMax : Nat
  vlenb : Nat
  /-- vector registers: byte b of vN at N × vlenb + b -/
  v     : FMap Byte
  /-- poisoned bytes of the vector registers, by N × vlenb + b: an element is poisoned if one of its bytes is (R186, R187) -/
  vpois : FMap Bool
  /-- mask registers: bit i of mN at N × 2^18 + i -/
  m     : FMap Bool
  /-- bytes of each vector register written since crew start (R100) -/
  wext  : FMap Nat
  tiles : Nat
  /-- accumulators: element (row, col) of acct at t × 4096 + row × 64 + col -/
  acc   : FMap (BitVec 32)
  accPois : FMap Bool
  pend  : List PendOp
  /-- scale tables SA and SB: code of block b, row or column x at b × 64 + x, default 0x7F (R377) -/
  sa    : FMap Byte
  sb    : FMap Byte
  scaled : Bool
  /-- link queues whose oldest entries a MOPA or MOPS of the hart holds that has begun and is at its record MSTART (R153) -/
  holdq : List Nat
  /-- rows of each accumulator from row 0 to the highest written (R100) -/
  trow   : FMap Nat
  ds    : Vector Stream 8
  cp    : Vector CopyChan 4
  staged : FMap Staged
  drain : Option Staged
  merge : Option MergeRun
  asked : List Asked
  answers : FMap Answer
  posted : List Posted
  /-- pairs of the VSCATACC being executed that have not left, with their owners (R42) -/
  pairs  : List (Nat × PairMsg)
  /-- 8-byte granules that the hart's vector stores and updates have changed since its last LSYNC or release, with the contents
  before the first of them and after the last (R207) -/
  olds   : FMap (Nat × Nat)
  /-- loads of younger instructions performed early (R135, R196) -/
  early  : List EarlyRead
  /-- stores that wait in the store queues, oldest first (R197), and MODEL FIELD: how many of the hart's next stores enter them
  (log 72) -/
  stq    : List QStore
  late   : Nat
  /-- a VLOCK that has begun its swaps: elements done, with whether each swap succeeded (R215, R216) -/
  lockRun : Option (List (Nat × Bool))
  /-- VL was last set on the vector side: by VSETL.DS, or by an instruction that sets VL there (R137, R343) -/
  vlDs   : Bool
  /-- the barrier the hart waits at: (launch scope, id); and whether it may leave (R334) -/
  barAt : Option (Bool × Nat)
  barGo : Bool
  halted : Bool
  /-- stopped by a translation fault routed to the host (R183) -/
  stopped : Bool
  /-- the hart's deficit at the lane group's arbiter, in lclk (R95) -/
  deficit : Nat
  /-- the head of the vector queue that the arbiter saw last, by its address and the instructions retired before it, and
  whether it was issued (R95) -/
  head : Option (Bool × Word × Word)
  /-- MODEL FIELD: where the current instruction takes a pre-emption point (log 2) -/
  limit : Option Nat
  /-- MODEL FIELD: the member of a convoy that is being executed; none between steps (R146) -/
  conv : Option Nat
  deriving DecidableEq, Repr

/-! ### Crews -/

/-- A crew's queue register (R152). Writer and reader are hart indices; whether each is blocked at the queue (R100). -/
structure QReg where
  entries : List Word
  writer  : Option Nat
  reader  : Option Nat
  wstop   : Bool := false
  rstop   : Bool := false
  deriving DecidableEq, Repr

/-- LQCFG.STATE (R44). -/
inductive LqState where
  | unbound | pending | bound | down
  deriving DecidableEq, Repr

/-- A link-queue endpoint (R44 to R49). `dir` is true for a send endpoint. -/
structure LqEnd where
  st     : LqState
  en     : Bool
  dir    : Bool
  cfgErr : Bool
  pchip  : Nat
  key    : Nat
  pkey   : Nat
  /-- entries held by a receive endpoint, oldest first -/
  held   : List TileMsg
  /-- send endpoint: credits; and the hart for whose convoy it keeps a further one (R372) -/
  credit : Nat
  kept   : Option Nat := none
  /-- the peer's crew is away (R49) -/
  away   : Bool
  /-- waiting for AWAYACK (R49) -/
  leaving : Bool
  deriving DecidableEq, Repr

/-- Where a crew is in its life (R98 to R103, R183). -/
inductive CrewPlace where
  | resident      -- on a core
  | leaving       -- pre-empted, its save not finished
  | saved         -- away, context held in memory
  | ended
  deriving DecidableEq, Repr

/-- One crew. -/
structure Crew where
  live    : Bool
  uid     : Nat
  launch  : Nat
  crewId  : Nat
  fn      : Nat
  tenant  : Nat
  asid    : Nat
  core    : Nat
  loopIdx : List Nat
  ssBase  : Nat
  ssSize  : Nat
  baseLane : Nat
  lanes   : Nat
  hg      : Nat
  accs    : Nat
  lqs     : Nat
  xch     : Nat
  phase   : Nat
  chainperm : Nat
  energy  : Word
  /-- the part of ENERGY that reads have shown as estimates since the last calibration (R109) -/
  est     : Nat
  cycle   : Word
  /-- cycles that reads of CYCLE have shown inside the current µs (R81) -/
  cyc     : Nat
  qs      : Vector QReg 8
  lq      : FMap LqEnd
  place   : CrewPlace
  faulted : Bool
  hung    : Bool
  /-- held by ENERGYCAP, by a scheduler command or by an offender's stop until SCHCMD RESUME (R103, R113) -/
  heldBy  : Bool
  /-- µs resident since the watchdog window began (R81) -/
  window  : Nat
  /-- µs resident in this stay (R81, R97) -/
  stay    : Nat
  /-- operating point applied: SOPP, MOPP, HALF (R107) -/
  sopp    : Nat
  mopp    : Nat
  half    : Bool
  /-- the crew's run of its operating-point entry: entry index, trial point, and whether conditions broke it (R115, R116) -/
  opEntry : Option Nat
  trial   : Nat
  runOk   : Bool
  runTime : Nat
  runEnergy : Nat
  /-- units of work since the lookup (R115) -/
  work    : Nat
  /-- a hart of the crew has issued an instruction (R81) -/
  issued  : Bool
  /-- µs away since it was saved (R97) -/
  away    : Nat
  /-- the hart that the lane group's arbiter visited last (R95) -/
  arb     : Nat
  /-- the hart whose convoy holds the lane group, with the addresses at which it is executing it, from the first up to the
  last (R95) -/
  convoy  : Option (Nat × Word × Word)
  /-- where the context lies while the crew is away: its physical address and its bytes (R92, R100) -/
  ctxAt   : Option (Nat × Nat)
  /-- the core where a pre-emption was made for the crew's return, so that what it frees goes to it first (R98) -/
  claim   : Option Nat
  deriving DecidableEq, Repr

/-! ### Caches -/

/-- A line of a scalar data cache: 64 bytes, a dirty bit for each, and the harts that dirtied it (R205, R331); whether it was
poisoned when it was filled, and whether an uncorrectable error has struck it dirty (R186). -/
structure DLine where
  data  : List Byte
  dirty : List Bool
  by_   : List Nat
  pois  : Bool
  bad   : Bool := false
  deriving DecidableEq, Repr

/-- A cached translation of one 128 KiB page (R181): the leaf's bits [7:0] and the frame, and the leaf's reach. -/
structure TlbEntry where
  tenant : Nat
  asid   : Nat
  page   : Nat
  flags  : Nat
  frame  : Nat
  /-- 0: 128 KiB leaf; 1: 4 MiB group; 2: 512 MiB leaf -/
  reach  : Nat
  deriving DecidableEq, Repr

/-- A cached table pointer (R181): level 3 is the context entry, 2 and 1 are table pointers. -/
structure WalkEntry where
  tenant : Nat
  asid   : Nat
  level  : Nat
  index  : Nat
  table  : Nat
  deriving DecidableEq, Repr

/-- A destination range registered and not yet filled (R159): PA range, the channel it belongs to, and the die of its
controllers, 2 for both. -/
structure CopyReg where
  slot : Nat
  chan : Nat
  die  : Nat
  lo   : Nat
  hi   : Nat
  /-- its translation has been removed since: the destination is translated again before the next byte (R182) -/
  stale : Bool := false
  /-- lines that an uncorrectable error has struck while they were to be filled (R192) -/
  bad  : List Nat := []
  deriving DecidableEq, Repr

/-- The merge network of a core (R257): the hart that holds it and those that wait, oldest first. -/
structure MNet where
  holder  : Option Nat
  waiters : List Nat
  deriving DecidableEq, Repr

/-- An invalidation of translations that is waiting or running (R182, R329): from the host or from a hart's TINV. -/
structure Inval where
  host   : Bool
  slot   : Nat
  op     : Nat
  tenant : Nat
  asid   : Nat
  page   : Nat
  deriving DecidableEq, Repr

/-! ### Scheduler and launches -/

/-- States of a launch (R82). -/
inductive LState where
  | queued | wait | ready | placing | running | completing | done
  deriving DecidableEq, Repr

/-- A launch (R63, R82 to R88, R96, R101, R113). `seq` is its order of acceptance. Queues 0 to 63 are the ports', 64 to 79
the device-side ones. -/
structure Launch where
  seq     : Nat
  id      : Nat
  fn      : Nat
  asid    : Nat
  queue   : Nat
  words   : List Word
  st      : LState
  /-- the wait of R66 has been satisfied -/
  waited  : Bool
  started : List Nat
  ended   : List Nat
  /-- home cores by spatial point (R85) -/
  homes   : List (Nat × Nat)
  /-- the physical die that takes die index 0 (R85) -/
  dieZero : Option Nat
  energy  : Nat
  noCap   : Bool
  hung    : Bool
  held    : Bool
  /-- effective class rise, time waited in READY at it, and whether the head starves (R96) -/
  cls     : Nat
  waitedAt : Nat
  starving : Bool
  /-- the cores where pre-emptions were made for this launch, so that what they free goes to it first (R98) -/
  claim   : List Nat
  /-- the tag of the completion write while its completion is awaited (R68) -/
  doneTag : Option Nat
  /-- BAR4 writes of the function that wait for fills and stand before the packet: those below this number (R200) -/
  after   : Nat
  deriving DecidableEq, Repr

/-- The energy record of a finished launch (R112). -/
structure EnRec where
  id      : Nat
  fn      : Nat
  energy  : Nat
  aborted : Bool
  deriving DecidableEq, Repr

/-- A fault-queue record (R184). -/
structure FqRec where
  w0 : Word
  w1 : Word
  w2 : Word
  w3 : Word
  deriving DecidableEq, Repr

/-- A fault-address record of a stack (R189). -/
structure FaqRec where
  type  : Nat
  count : Nat
  pa    : Nat
  pch   : Nat
  time  : Nat
  deriving DecidableEq, Repr

/-- A record of an error in a store, and one of a governor or scheduler event, for the dump (R79). -/
structure ErrRec where
  time : Nat
  site : Nat
  at_  : Nat
  correctable : Bool
  deriving DecidableEq, Repr

structure EvRec where
  time : Nat
  code : Nat
  deriving DecidableEq, Repr

/-- A scheduler command that is still acting (R101). -/
structure SchCmd where
  fn  : Nat
  op  : Nat
  seq : Nat
  /-- ABORT with DONE -/
  done : Bool
  deriving DecidableEq, Repr

/-! ### Package, governor and links -/

/-- A mailbox command that is running (R77). -/
structure MbCmd where
  side  : Bool
  op    : Nat
  arg   : Nat
  len   : Nat
  value : Nat
  deriving DecidableEq, Repr

/-- The management controller and the package pins (R8 to R21, R72 to R80). Registers it shows are in `State.regs`. -/
structure Pkg where
  vaux     : Bool
  /-- the power-on step in progress, 0 before VAUX -/
  step     : Nat
  /-- when the step in progress began, or enabled its latest rails -/
  stepAt   : Nat
  /-- steps 1 to 8 all complete -/
  up       : Bool
  stopped  : Bool
  /-- power-off is in progress (R19) -/
  off      : Bool
  vrEn     : Nat
  vrPg     : Nat
  /-- the voltages commanded over AVSBus, in mV, by rail select (R11) -/
  volts    : Vector (Option Nat) 4
  /-- PERST_N is asserted; and when it was last deasserted -/
  perst    : Bool
  perstAt  : Nat
  linkUp   : Bool
  /-- step 7 has begun, and when -/
  step7    : Option Nat
  /-- THERMTRIP_N is asserted -/
  trip     : Bool
  i3c      : Option (BitVec 7)
  mb       : Option MbCmd
  meas     : FMap (BitVec 512)
  svnMin   : Nat
  classA   : List Byte
  classB   : List Byte
  /-- the copy of the class record that step 3 read, true for the second (R15) -/
  inForce  : Option Bool
  w65      : Bool
  /-- the alias key pair of this boot (R75) -/
  aliasKey : List Byte
  dumpSeq  : Nat
  dumpSource : Nat
  fatal    : Bool
  /-- crews and harts as a fatal error found them, which its dump records (R79) -/
  dumpCrews : List Crew
  dumpHarts : FMap Hart
  /-- nonces of CHALLENGE requests held while measurements are extended (R76) -/
  held     : List (List Byte)
  deriving DecidableEq, Repr

/-- One sensor's history (R79, R123): past readings and past STATUS values with the samples they began at, newest first;
samples passed in a row. -/
structure SensorHist where
  runs   : List (Int × Nat)
  stats  : List (Nat × Nat)
  passed : Nat
  deriving DecidableEq, Repr

/-- A piece of ballast, most recent first (R121): a class-7 crew, or synthetic on a core and lane. -/
inductive Ballast where
  | crew (uid : Nat)
  | synth (core lane lanes : Nat)
  deriving DecidableEq, Repr

/-- A crew that has ended or been saved since the last calibration, whose energy is still to be charged (R109). -/
structure LeftCrew where
  uid     : Nat
  tenant  : Nat
  ballast : Bool
  deriving DecidableEq, Repr

/-- The governor's own state (R106 to R132); what registers show of it is in `State.regs`. -/
structure Gov where
  therm    : Vector Nat 2      -- ThermalCeiling
  safe     : Vector Nat 2      -- SafeCeiling
  /-- when the current critical state began, and when the safe-point conditions last held (samples) -/
  critAt   : Vector (Option Nat) 2
  safeLast : Vector Nat 2
  sample   : Nat
  hist     : FMap SensorHist
  /-- power of each die by the sample it began at, newest first (R123) -/
  power    : Vector (List (Nat × Nat)) 2
  level10  : Nat
  ballast  : List Ballast
  opOrder  : List Nat
  enl      : List EnRec
  /-- tenants' deficits in lane-µs, and the lane-µs their crews have held in this quantum (R97) -/
  deficit  : FMap Int
  laneUs   : FMap Nat
  /-- when the last quantum began (R81), the last calibration (R109), and each tenant's budget interval (R114) -/
  quantumAt : Nat
  calibAt  : Nat
  tenAt    : FMap Nat
  /-- estimates that reads of an energy register have shown since the last calibration, by key (R109) -/
  est      : FMap Nat
  left     : List LeftCrew
  deriving DecidableEq, Repr

/-- A link-directory entry (R43): who holds (direction, key). -/
structure DirEntry where
  dir  : Bool
  key  : Nat
  crew : Nat
  q    : Nat
  deriving DecidableEq, Repr

/-- A link-queue message that may be answered by an error response (R33): a tile message of a hart, or an AWAY. -/
structure LqTag where
  tag  : Nat
  crew : Nat
  q    : Nat
  hart : Nat
  away : Bool
  deriving DecidableEq, Repr

/-- A multicast store whose copies may still be refused or lost (R50, R226): its tag, the hart, the VA to report, who
stored it, and the instruction it belongs to (by INSTRET). -/
structure McTag where
  tag  : Nat
  slot : Nat
  va   : Nat
  by_  : Poster
  ins  : Word
  deriving DecidableEq, Repr

/-! ### What leaves the device -/

/-- A command on the AVSBus: voltage in mV, status, power mode (R11). -/
inductive AvsCmd where
  | voltage (mv : Nat)
  | status
  | powerMode (mode : Nat)
  deriving DecidableEq, Repr

/-- The signature and hash algorithms of attestation (R76). -/
inductive SpdmAsym where
  | ecdsaP521
  deriving DecidableEq, Repr
inductive SpdmHash where
  | sha512
  deriving DecidableEq, Repr

/-- An SPDM 1.3 response (R76); its octets are those of the DMTF specification. Measurement blocks carry index and digest. -/
inductive SpdmRsp where
  | version
  | capabilities
  | algorithms (asym : SpdmAsym) (hash : SpdmHash)
  | digests (slot0 : BitVec 512)
  | certificate (chain : List Byte)
  | challengeAuth (chain : BitVec 512) (nonce signature : List Byte)
  | measurements (blocks : List (Nat × BitVec 512))
  | unsupportedRequest
  deriving DecidableEq, Repr

/-- The capabilities of R53's table. -/
inductive PciCap where
  | msix | sriov | resizableBar (gib : Nat) | aer | doe | flr
  deriving DecidableEq, Repr

/-- The answer to a configuration request (R17, R53): retry, or the identity and capabilities of the function. -/
inductive ConfigAnswer where
  | retry
  | space (vendor device revision : Nat) (caps : List PciCap)
  deriving DecidableEq, Repr

/-- What leaves the device: messages to the host, the fabric and the board. Nothing inside reads the list of them. -/
inductive Output where
  | msix (fn vec : Nat)
  | hostWrite (fn bus : Nat) (bytes : List Byte) (tag : Option Nat)
  | hostRead (fn bus len tag : Nat)
  | hostData (fn off : Nat) (bytes : List Byte)
  | config (fn : Nat) (a : ConfigAnswer)
  | request (chip : Nat) (r : RemoteReq)
  | response (chip : Nat) (r : RemoteRsp)
  | scatter (chip : Nat) (ps : List PairMsg)
  | mcast (port : Nat) (m : McastMsg)
  | lq (chip : Nat) (k : LqKind) (m : LqMsg)
  | tile (chip : Nat) (m : TileMsg)
  | forward (port vc : Nat) (m : Transit)
  /-- flits that a port sends: those of the message before, replayed ones, or one that only acknowledges -/
  | flits (port : Nat) (fs : List WireFlit)
  | spdm (r : SpdmRsp)
  | avs (select : Nat) (c : AvsCmd)
  /-- the VR_EN pins, one bit per rail of R11 -/
  | rails (en : Nat)
  /-- a private read over the management sideband -/
  | side (bytes : List Byte)
  /-- the levels of MG_UART_TX, one bit time each (R21) -/
  | uart (bits : List Bool)
  deriving DecidableEq, Repr

/-- A flit sent and not yet acknowledged, with the message it belongs to (R25, R50). -/
structure TxFlit where
  wire : WireFlit
  msg  : Output
  deriving DecidableEq, Repr

/-- A link port (R24 to R26): sequence numbers, the replay buffer, messages that wait for it, the times of retrains, of
replays, and of uncorrectable codewords with their counts. -/
structure Port where
  nextSeq  : Nat
  /-- last sequence number received in order -/
  ackSeq   : Nat
  replay   : List TxFlit
  waiting  : List Output
  retrains : List Nat
  retrainAt : Option Nat
  replays  : List Nat
  uncs     : List (Nat × Nat)
  deriving DecidableEq, Repr

/-- What waits for a line that a copy has registered and not filled (R159): an access from outside the cores, or a multicast
write at its landing address. -/
inductive Held where
  | event (i : Input)
  | landing (m : McastMsg) (pa : Nat)
  deriving DecidableEq, Repr

/-! ### The schedule -/

/-- One move of the schedule (MODEL FIELD, log 2): who acts next. `dt` is the time in µs since the last move. -/
inductive Move where
  /-- a hart takes a step; `stop` is where it takes a pre-emption point inside an instruction -/
  | hart (dt slot : Nat) (stop : Option Nat)
  /-- an event of the opcode table -/
  | event (dt : Nat) (i : Input)
  /-- the oldest message that is arriving is performed (R25, R46) -/
  | deliver (dt : Nat)
  /-- the k-th access that waits for a copy's fill is tried again (R159) -/
  | retry (k : Nat)
  /-- equalisation finds a new margin (R52) -/
  | adapt (port : Nat)
  /-- a hart fetches a parcel early (R212) -/
  | prefetch (slot va : Nat)
  /-- a translation is cached; `member` is the leaf of a CONTIG group that is used (R180, R181) -/
  | tlbFill (tenant asid va member : Nat)
  /-- a cached translation or table pointer is dropped -/
  | tlbDrop (index : Nat)
  | walkFill (tenant asid va level : Nat)
  /-- a line of an instruction cache is dropped (R186, R212); scalar data lines leave by CACHE_EVICTION -/
  | iDrop (core line : Nat)
  /-- a read stream fetches an element of its pattern; a write stream writes its oldest appended element (R149, R209) -/
  | streamFetch (slot port elem : Nat)
  | streamWrite (slot port : Nat)
  /-- a copy channel fills up to `n` further units of its destination (R159, R160) -/
  | copyFill (slot ch n : Nat)
  /-- a transaction on the management sideband: a private write, with a private read after it or not (R21) -/
  | side (addr : BitVec 7) (bytes : List Byte) (read : Bool)
  /-- firmware writes text of its event log to MG_UART_TX; MG_UART_RX receives an octet, which is ignored (R21) -/
  | uartText (text : List Byte)
  | uartIn (b : Byte)
  /-- the device commands an adjustable rail (R11) -/
  | avs (select : Nat) (c : AvsCmd)
  /-- firmware measures the system-mode runtime that the host has installed (R74) -/
  | runtime (component : List Byte)
  /-- the host masks or unmasks a vector of a function (R68) -/
  | msixMask (fn vec : Nat) (masked : Bool)
  /-- a load of the instruction that is `ahead` places younger is performed early (R135, R196) -/
  | early (slot ahead : Nat) (scalar : Bool) (va : Word) (n : Nat)
  /-- the hart's next `n` stores to memory wait in its store queues; the k-th store that waits is performed (R197) -/
  | late (slot n : Nat)
  | perform (slot k : Nat)
  deriving DecidableEq, Repr

/-! ### The device -/

structure State where
  /-- µs since VAUX came up, by the management oscillator -/
  time    : Nat
  moves   : List Move
  input   : Option Input
  /-- MODEL FIELD: uses made of free values (log 4) -/
  freeCtr : Nat
  out     : List Output
  /-- slot of the current hart: crew uid × 32 + hart index -/
  cur     : Nat
  hart    : Hart
  crew    : Crew
  harts   : FMap Hart
  crews   : FMap Crew
  nextUid : Nat
  /-- next source tag for requests (R24) -/
  nextTag : Nat
  /-- scalar data caches, line number × 256 + core -/
  dcache  : FMap DLine
  /-- instruction caches, line number × 256 + core -/
  icache  : FMap (List Byte)
  mnet    : FMap MNet
  recs    : List Recording
  /-- DRAM and both shared stores by physical address -/
  mem     : FMap Byte
  /-- poisoned 64-byte lines, by line number -/
  pois    : FMap Bool
  cregs   : List CopyReg
  tlb     : List TlbEntry
  walks   : List WalkEntry
  invals  : List Inval
  /-- registers of the BARs, by key (Regs.lean); an unlisted key holds its reset value -/
  regs    : FMap Word
  /-- completion counters (R65) -/
  ctrs    : FMap (BitVec 32)
  launches : FMap Launch
  nextSeq : Nat
  nextId  : Nat
  cmds    : List SchCmd
  fq      : FMap (List FqRec)
  /-- records of faulting crews that wait for space (R184) -/
  fqWait  : List (Nat × FqRec)
  faq     : FMap (List FaqRec)
  faqLost : FMap Nat
  /-- the last 1,024 errors and 4,096 governor and scheduler events, oldest first (R79) -/
  errs    : List ErrRec
  events  : List EvRec
  bpl     : List (BitVec 32)
  /-- the bad-page entry whose flash write is in progress (R190) -/
  bplBusy : Option (BitVec 32)
  /-- entries whose flash write failed: applied until power-off only (R190) -/
  bplTemp : List (BitVec 32)
  /-- DRAM lines that memory-side caches hold locked (R172) -/
  locked  : List Nat
  /-- MEMSTAT.LOCKOVF: a line of a lock range was held unlocked (R172) -/
  lockOvf : Bool
  pkg     : Pkg
  gov     : Gov
  ports   : Vector Port 6
  dir     : List DirEntry
  drops   : List Word
  dropLost : Nat
  /-- masked MSI-X vectors and those held pending, by function × 128 + vector (R58, R68) -/
  msixMask : FMap Bool
  msixPend : FMap Bool
  /-- BAR4's size by function: 1 GiB times two to this power (R55) -/
  bar4Size : FMap Nat
  /-- messages that are arriving, oldest first: link-queue messages between endpoints of this device (R46) and those that ports
  have received (R25) -/
  wire    : List Input
  /-- accesses that wait for fills, by their order of arrival (R159) -/
  held    : FMap Held
  nextHeld : Nat
  lqTags  : List LqTag
  mcTags  : List McTag
  deriving DecidableEq, Repr

/-! ### Reset -/

/-- A stream port that is not configured. -/
def Stream.reset : Stream :=
  { st := .unconfig, base := 0, c0 := 0, c1 := 0, c2 := 0, s0 := 0, s1 := 0, s2 := 0, width := 1, pos := 0, buf := [],
    pend := [], mend := [], short := false, fault := false }

/-- An idle copy channel. -/
def CopyChan.reset : CopyChan :=
  { st := 0, cause := 0, fva := 0, src := 0, dst := 0, len := 0, rows := 0, pitch := 0, lu := false, done := 0, regd := 0,
    sys := false, ask := none, ans := none, unit := 0, reported := false, view := [], gran := none }

/-- The CSRs at crew start (R93): the reset values of their maps. MSHAPE, MPRED: R156. MGMODE.SLOTSM1: R248. -/
def Csrs.reset : Csrs :=
  { vl := 0, vtype := 0, vstart := 0, vrc := 1, vrp := 0, vredacc := 0, vflags := 0, frm := 0,
    mshape := 0x0000004000004040, mpred := 0x4040, mstart := 0, amomode := 0, pivtau := 0, pivstat := 0, ownmap := 0,
    hweight := 1, instret := 0, mgoutb := 0, mgoutl := 0, mgspb := 0, mgspl := 0, mgmode := 63, mgstate := 0, mgocnt := 0,
    mgtag := 0, mgstat := 0, tvec := 0, tpc := 0, tcause := 0, tval := 0, tstat := 0, tscratch := 0, hcap := 0 }

/-- A hart of no crew: the values every hart has at crew start, before R93's own settings. -/
def Hart.reset : Hart :=
  { live := false, idx := 0, pc := 0, x := Vector.replicate 32 0, ir := 0, ibuf := [], csr := Csrs.reset, imp := none,
    nreg := 8, sewMax := 0, vlenb := 256, v := [], vpois := [], m := [], wext := [], tiles := 0, acc := [], accPois := [],
    pend := [], sa := [], sb := [], scaled := false, holdq := [], trow := [], ds := Vector.replicate 8 Stream.reset,
    cp := Vector.replicate 4 CopyChan.reset, staged := [], drain := none, merge := none, asked := [], answers := [],
    posted := [], pairs := [], olds := [], early := [], stq := [], late := 0, lockRun := none, vlDs := false, barAt := none, barGo := false, halted := false,
    stopped := false, deficit := 0, head := none, limit := none, conv := none }

/-- No crew. -/
def Crew.reset : Crew :=
  { live := false, uid := 0, launch := 0, crewId := 0, fn := 0, tenant := 0, asid := 0, core := 0, loopIdx := [0, 0, 0, 0],
    ssBase := 0, ssSize := 0, baseLane := 0, lanes := 4, hg := 1, accs := 0, lqs := 0, xch := 0, phase := 0,
    chainperm := 2 ^ 36 - 1, energy := 0, est := 0, cycle := 0, cyc := 0,
    qs := Vector.replicate 8 { entries := [], writer := none, reader := none },
    lq := [], place := .resident, faulted := false, hung := false, heldBy := false, window := 0, stay := 0, sopp := 15,
    mopp := 15, half := false, opEntry := none, trial := 0, runOk := true, runTime := 0, runEnergy := 0, work := 0,
    issued := false, away := 0, arb := 0, convoy := none, ctxAt := none, claim := none }

/-- The package before VAUX: every rail down, PERST_N asserted, flash and fuses as log 5 says. -/
def Pkg.reset : Pkg :=
  { vaux := false, step := 0, stepAt := 0, up := false, stopped := false, off := false, vrEn := 0, vrPg := 0,
    volts := Vector.replicate 4 none, perst := true, perstAt := 0, linkUp := false, step7 := none,
    trip := false, i3c := none, mb := none, meas := [], svnMin := 0,
    classA := [], classB := [], inForce := none, w65 := false, aliasKey := [], dumpSeq := 0, dumpSource := 0, fatal := false,
    dumpCrews := [], dumpHarts := [], held := [] }

/-- The governor at reset: ceilings at code 15, nothing sampled. -/
def Gov.reset : Gov :=
  { therm := Vector.replicate 2 15, safe := Vector.replicate 2 15, critAt := Vector.replicate 2 none,
    safeLast := Vector.replicate 2 0, sample := 0, hist := [], power := Vector.replicate 2 [], level10 := 0, ballast := [],
    opOrder := [], enl := [], deficit := [], laneUs := [], quantumAt := 0,
    calibAt := 0, tenAt := [], est := [], left := [] }

/-- A port with no traffic (log 5: sequence numbers begin at 0). -/
def Port.reset : Port := { nextSeq := 0, ackSeq := 4095, replay := [], waiting := [], retrains := [], retrainAt := none, replays := [], uncs := [] }

/-- The VX940 before VAUX reaches regulation (R16): every register at the reset value of its map, memory with nothing
listed. Values the manual does not give are those of log 3 and log 5. -/
def State.reset : State :=
  { time := 0, moves := [], input := none, freeCtr := 0, out := [], cur := 0, hart := Hart.reset, crew := Crew.reset,
    harts := [], crews := [], nextUid := 1, nextTag := 0, dcache := [], icache := [], mnet := [], recs := [], mem := [],
    pois := [], cregs := [], tlb := [], walks := [], invals := [], regs := [], ctrs := [], launches := [], nextSeq := 0,
    nextId := 1, cmds := [], fq := [], fqWait := [], faq := [], faqLost := [], errs := [], events := [], bpl := [], bplBusy := none, bplTemp := [], locked := [], lockOvf := false,
    pkg := Pkg.reset, gov := Gov.reset, ports := Vector.replicate 6 Port.reset, dir := [], drops := [], dropLost := 0,
    msixMask := [], msixPend := [], bar4Size := [],
    wire := [], held := [], nextHeld := 0, lqTags := [], mcTags := [] }

end Sys2Proof.Machine
end

