-- ==== Sys2Proof/Machine/Regs.lean ====
section
/-!
DEFINITION. The host-visible registers as data: keys, reset values and which bits a write changes (03_host_launch R55 to R62
and the register maps of the other chapters). A register with behaviour beyond its access codes has it in Control.lean.
-/
namespace Sys2Proof.Machine

/-- Key of a register of which each function has its own copy. -/
def fnKey (fn off : Nat) : Nat := (fn + 1) * 2 ^ 24 + off
/-- Key of a register of launch port `p` (R60). -/
def lpKey (p off : Nat) : Nat := 2 ^ 29 + p * 4096 + off

def rIDENT : Nat := 0x0
def rMCSTAT : Nat := 0x8
def rFNID : Nat := 0x10
def rMBCMD : Nat := 0x100
def rMBSTAT : Nat := 0x108
def rMBDATA : Nat := 0x1000
def rTENCFG (t : Nat) : Nat := 0x10000 + 8 * t
def rPORTOWN : Nat := 0x10100
def rCTROWN : Nat := 0x10200
def rDQOWN : Nat := 0x10300
def rCTR : Nat := 0x20000
def rCTRADD : Nat := 0x22000
def rDQSTAT (q : Nat) : Nat := 0x30000 + 8 * q
def rAPERTURE (e : Nat) : Nat := 0x40000 + 8 * e
def rW4CFG : Nat := 0x50000
def rW4ERR : Nat := 0x50008
def rSCHCFG : Nat := 0x100000
def rAGETHR : Nat := 0x100008
def rSCHOVF : Nat := 0x100010
def rSCHTW (t : Nat) : Nat := 0x100100 + 8 * t
def rSCHCMD : Nat := 0x100200
def rSCHRES : Nat := 0x100208
def rPWRCFG : Nat := 0x200000
def rPWRSTAT : Nat := 0x200008
def rDEVENERGY : Nat := 0x200010
def rBALENERGY : Nat := 0x200018
def rENLQ : Nat := 0x200040
def rENLR : Nat := 0x200048
def rTENBUD (t : Nat) : Nat := 0x200100 + 8 * t
def rTENUSED (t : Nat) : Nat := 0x200180 + 8 * t
def rSTKCTL (s : Nat) : Nat := 0x200200 + 8 * s
def rTSENS (n : Nat) : Nat := 0x200400 + 8 * n
def rOPT (e : Nat) : Nat := 0x201000 + 16 * e
def rMEMSTAT : Nat := 0x300000
def rTENPT (t : Nat) : Nat := 0x300100 + 8 * t
def rTLBINV : Nat := 0x300200
def rTLBINVVA : Nat := 0x300208
def rMSCLK (k : Nat) : Nat := 0x300300 + 8 * k
def rFAQ (s : Nat) : Nat := 0x300400 + 16 * s
def rBPLADD : Nat := 0x300500
def rBPLSTAT : Nat := 0x300508
def rBPLIDX : Nat := 0x300510
def rBPLENT : Nat := 0x300518
def rFQDATA (i : Nat) : Nat := 0x301000 + 8 * i
def rFQSTAT : Nat := 0x301020
def rFQRESUME : Nat := 0x301028
def rRTVEC (t : Nat) : Nat := 0x302000 + 8 * t
def rIXCFG : Nat := 0x400000
def rIXPSTAT (n : Nat) : Nat := 0x400100 + 0x20 * n
def rIXPCNT (n : Nat) : Nat := 0x400108 + 0x20 * n
def rIXDROP : Nat := 0x400200
def rGROUP (g : Nat) : Nat := 0x480000 + 8 * g
def rDUMPSTAT : Nat := 0xF00000

/-- Whether a key lies in an array of 8-byte-aligned registers. -/
def inArr (k base stride count : Nat) : Bool :=
  decide (base ≤ k) && decide (k < base + stride * count) && decide ((k - base) % stride = 0)

/-- The reset value of each register (the Reset columns of the maps). Counts of free entries are computed where they are
read. -/
def regReset (k : Nat) : Word :=
  if k = rTENCFG 0 then 0xA0000000000000A0
  else if k = rSCHCFG then 0x3030
  else if k = rAGETHR then 0x0064646464646400
  else if inArr k (rSCHTW 0) 8 16 then 1
  else if k = rPWRCFG then 1650
  else if inArr k (rTENBUD 0) 8 16 then 0x000003E800000000
  else if inArr k (rOPT 0) 16 1024 then 0xFFFEFF0000000000
  else if inArr k (rOPT 0 + 8) 16 1024 then 0x1FFFFF
  else 0

/-- What a plain host write does to a register: bits written, bits cleared by writing 1, and who may write. -/
structure RegRow where
  base   : Nat
  stride : Nat
  count  : Nat
  rw     : Word
  w1c    : Word
  /-- 0 the physical function only, 1 every function its own copy -/
  own    : Nat

/-- The registers of BAR0 whose writes follow their access codes alone. -/
def regRows : List RegRow :=
  [ ⟨rMBDATA, 8, 512, 0xFFFFFFFFFFFFFFFF, 0, 0⟩,
    ⟨rTENCFG 0, 8, 16, 0xE000FFFF000000FF, 0, 0⟩,
    ⟨rPORTOWN, 8, 4, 0xFFFFFFFFFFFFFFFF, 0, 0⟩,
    ⟨rCTROWN, 8, 1, 0xFFFFFFFFFFFFFFFF, 0, 0⟩,
    ⟨rDQOWN, 8, 1, 0xFFFFFFFFFFFFFFFF, 0, 0⟩,
    ⟨rAPERTURE 0, 8, 64, 0xF8000003FFFFFFFF, 0, 0⟩,
    ⟨rW4CFG, 8, 1, 0x801FFFFFFFFE0FFF, 0, 1⟩,
    ⟨rAGETHR, 8, 1, 0x00FFFFFFFFFFFF00, 0, 0⟩ ] ++
  [ ⟨rSCHOVF, 8, 1, 0xFF1FFFFFFFFE0000, 0, 0⟩,
    ⟨rSCHTW 0, 8, 16, 0xFF, 0, 0⟩,
    ⟨rTENPT 0, 8, 16, 0x801FFFFFFFFF8000, 0, 0⟩,
    ⟨rTLBINVVA, 8, 1, 0x1FFFFFFFFE0000, 0, 0⟩,
    ⟨rMSCLK 0, 8, 16, 0x8000FF7FFFFE0000, 0, 0⟩,
    ⟨rBPLIDX, 8, 1, 0x1FFF, 0, 0⟩,
    ⟨rRTVEC 0, 8, 16, 0x1FFFFFFFFFFFFD, 0, 0⟩,
    ⟨rGROUP 0, 8, 65536, 0xF87F007FFF000000, 0, 0⟩ ]

namespace State

/-- The stored value of a register. -/
def reg (s : State) (k : Nat) : Word := FMap.getD (regReset k) k s.regs

/-- Store a register. -/
def setReg (s : State) (k : Nat) (v : Word) : State := { s with regs := FMap.setD (regReset k) k v s.regs }

/-- Change one field of a register. -/
def setRegFld (s : State) (k lo len v : Nat) : State := s.setReg k (setFld (s.reg k) lo len v)

/-- A write under access codes: RW bits take the value, W1C bits written as 1 clear (R5, R6). -/
def maskWrite (s : State) (k : Nat) (rw w1c v : Word) : State :=
  let old := s.reg k
  s.setReg k (((old &&& ~~~rw) ||| (v &&& rw)) &&& ~~~(v &&& w1c))

/-! ### Named fields -/

def mcstat (s : State) (lo len : Nat) : Nat := fld (s.reg rMCSTAT) lo len
def setMcstat (s : State) (lo len v : Nat) : State := s.setRegFld rMCSTAT lo len v

/-- TENCFGn.EN, PIVGOK, SYSCLASS, SSQUOTA and CORES (R57). -/
def tenEn (s : State) (t : Nat) : Bool := bit (s.reg (rTENCFG t)) 63
def tenPivgok (s : State) (t : Nat) : Bool := bit (s.reg (rTENCFG t)) 62
def tenSysclass (s : State) (t : Nat) : Bool := bit (s.reg (rTENCFG t)) 61
def tenQuota (s : State) (t : Nat) : Nat := fld (s.reg (rTENCFG t)) 32 16
def tenCores (s : State) (t : Nat) : Nat := fld (s.reg (rTENCFG t)) 0 8

/-- Owners of a port, a counter block and a device-side queue (R57). -/
def portOwner (s : State) (p : Nat) : Nat := fld (s.reg (rPORTOWN + 8 * (p / 16))) (4 * (p % 16)) 4
def ctrOwner (s : State) (c : Nat) : Nat := fld (s.reg rCTROWN) (4 * (c / 64)) 4
def dqOwner (s : State) (q : Nat) : Nat := fld (s.reg rDQOWN) (4 * q) 4

/-- IXCFG (R27). -/
def faben (s : State) : Bool := bit (s.reg rIXCFG) 63
def chipId (s : State) : Nat := fld (s.reg rIXCFG) 0 12
def tenmask (s : State) (t : Nat) : Bool := bit (s.reg rIXCFG) (16 + t)
/-- Size and wrap of dimension 0, 1 or 2. -/
def dimSize (s : State) (d : Nat) : Nat := fld (s.reg rIXCFG) (36 + 4 * d) 4 + 1
def dimWrap (s : State) (d : Nat) : Bool := bit (s.reg rIXCFG) (48 + d)

/-- The cap level (R117, R130). -/
def capLevel (s : State) : Nat := fld (s.reg rPWRSTAT) 59 5
/-- THERMd, 0 normal to 3 critical, and SAFEd (R130). -/
def thermState (s : State) (die : Nat) : Nat := fld (s.reg rPWRSTAT) (52 + 2 * die) 2
def safePoint (s : State) (die : Nat) : Bool := bit (s.reg rPWRSTAT) (50 + die)

/-- A port's state in IXPSTATn (R52): 0 DISABLED, 1 TRAINING, 2 UP, 3 RETRAIN, 4 DOWN. -/
def portState (s : State) (n : Nat) : Nat := fld (s.reg (rIXPSTAT n)) 60 4

/-- The shadow reserve of a die in MiB: SCHCFG.MIRRORd (R91). -/
def mirror (s : State) (die : Nat) : Nat := fld (s.reg rSCHCFG) (8 * die) 6

/-- DRAM present in bytes: 384 GiB, or 336 GiB when DEGRADED (R165). -/
def dramBytes (s : State) : Nat := if bit (s.reg rMEMSTAT) 55 then 0x5400000000 else 0x6000000000

/-- The stack that holds a DRAM line (R164, R165). -/
def stackOf (s : State) (pa : Nat) : Nat :=
  let c := pa / 4096
  if bit (s.reg rMEMSTAT) 55 then
    ((List.range 8).filter fun k => bit (s.reg rMEMSTAT) (56 + k)).getD (c % 7) 0
  else c % 8

/-- Append to what leaves the device. -/
def emit (s : State) (o : Output) : State := { s with out := s.out ++ [o] }

/-- Send an MSI-X vector of a function (R58): one that is masked is held pending (R68), and after a fatal error virtual
functions receive none (R238). -/
def msix (s : State) (fn vec : Nat) : State :=
  if s.pkg.fatal && decide (fn ≠ 0) then s
  else if FMap.getD false (fn * 128 + vec) s.msixMask then
    { s with msixPend := FMap.setD false (fn * 128 + vec) true s.msixPend }
  else s.emit (.msix fn vec)

/-- The host masks or unmasks a vector; one held pending is sent when it is unmasked (R68). -/
def setMsixMask (s : State) (fn vec : Nat) (masked : Bool) : State :=
  let k := fn * 128 + vec
  if 16 ≤ fn ∨ 128 ≤ vec then s
  else
    let t : State := { s with msixMask := FMap.setD false k masked s.msixMask }
    if !masked && FMap.getD false k s.msixPend then
      ({ t with msixPend := FMap.setD false k false s.msixPend } : State).msix fn vec
    else t

end State

/-- The die of a core (R8). -/
def dieOf (core : Nat) : Nat := if core < 80 then 0 else 1

end Sys2Proof.Machine
end

