-- ==== Sys2Proof/Machine/Fabric.lean ====
section
/-!
DEFINITION. The transmitting side of the fabric: routes and virtual channels, flits on the wire, replay buffers, the drop log
(02_torus_links R24 to R30, R38, R42, R47, R51).
-/
namespace Sys2Proof.Machine

/-- An entry of the drop log (R51). -/
def State.logDrop (s : State) (cause tenant src dest hops : Nat) : State :=
  if s.drops.length < 64 then
    let w := BitVec.ofNat 64 (2 ^ 63 + cause * 2 ^ 59 + tenant * 2 ^ 55 + src % 2 ^ 12 * 2 ^ 43 + dest % 2 ^ 16 * 2 ^ 27 + hops % 128 * 2 ^ 20)
    let s' := { s with drops := s.drops ++ [w] }
    if s.drops = [] then s'.msix 0 1 else s'
  else { s with dropLost := Nat.min 255 (s.dropLost + 1) }

/-! ### Routes (R27 to R29) -/

/-- A chip's coordinate in a dimension (R27). -/
def coord (chip d : Nat) : Nat := chip / 16 ^ d % 16

/-- Whether a chip ID lies in the configured torus (R28, R33). -/
def State.inTorus (s : State) (chip : Nat) : Bool :=
  [0, 1, 2].all fun d => decide (coord chip d < s.dimSize d)

/-- Whether the hop out of a port crosses its dimension's dateline, the link between the last coordinate and 0 (R29). -/
def State.datelineHop (s : State) (port : Nat) : Bool :=
  let d := port / 2
  let a := coord s.chipId d
  s.dimWrap d && (if port % 2 = 0 then decide (a = s.dimSize d - 1) else decide (a = 0))

/-- The port towards a chip in dimension order (R28): none for this chip itself and for a line that cannot reach the
coordinate. -/
def State.route (s : State) (dest : Nat) : Option Nat :=
  let hop (d : Nat) : Option Nat :=
    let n := s.dimSize d
    let a := coord s.chipId d
    let b := coord dest d
    if a = b then none
    else
      let plus := if s.dimWrap d then decide ((b + n - a) % n ≤ n - (b + n - a) % n) else decide (a < b)
      some (2 * d + (if plus then 0 else 1))
  match hop 0, hop 1, hop 2 with
  | some p, _, _ => some p
  | none, some p, _ => some p
  | none, none, p => p

/-- Whether this device's router refuses a request to a chip (R28, R33, R50), with the drop-log cause. The offset is
judged at the target. -/
def State.srcRefuses (s : State) (chip : Nat) : Option Nat :=
  if !s.faben || !s.inTorus chip then some 6
  else
    match s.route chip with
    | some p => if s.portState p = 4 then some 4 else none
    | none => none

/-! ### Messages on the wire (R24, R42, R47) -/

/-- A message that leaves by a port: its header fields and its payload. -/
structure Packet where
  port   : Nat
  mclass : Nat
  vc     : Bool
  dest   : Nat
  src    : Nat
  core   : Nat
  tenant : Nat
  hops   : Nat
  tag    : Nat
  data   : List Byte
  deriving DecidableEq, Repr

/-- A number for each kind of request. -/
def reqCode : ReqKind → Nat
  | .read => 0
  | .write => 1
  | .atomic op =>
    match op with
    | .add => 2 | .and => 3 | .or => 4 | .xor => 5 | .min => 6 | .max => 7 | .swap => 8 | .cas => 9 | .fadd => 10
    | .fmin => 11 | .fmax => 12 | .minu => 13 | .maxu => 14

/-- A number for each kind of control message. -/
def lqCode : LqKind → Nat
  | .bind => 1 | .bindack => 2 | .nack => 3 | .unbind => 4 | .away => 5 | .awayack => 6 | .back => 7 | .credit => 8

/-- The header of a tile message, R47's map. -/
def tileWire (m : TileMsg) : List Byte :=
  bytesLE 16 (m.key * 2 ^ 112 + m.rows * 2 ^ 48 + m.cols * 2 ^ 32 + m.fmt * 2 ^ 28 + m.bytes)

/-- The payload of a message. R47 gives that of a tile message and R42 the 16 bytes of a pair; the others are the model's
arrangement: DESIGN CHOICE (log 63). -/
def payloadOf : Output → List Byte
  | .request _ r => bytesLE 8 r.off ++ bytesLE 4 r.width ++ bytesLE 4 (reqCode r.kind)
      ++ (match r.kind with
          | .read => []
          | .write => bytesLE r.width r.dat
          | .atomic _ => bytesLE 8 r.dat ++ bytesLE 8 r.cmp)
  | .response _ r => bytesLE 16 (b2n r.ok + 2 * b2n r.poisoned + r.flags * 2 ^ 8) ++ bytesLE r.width r.dat
  | .scatter _ ps => ps.flatMap fun p => bytesLE 8 (p.off + p.width * 2 ^ 40 + b2n p.fp * 2 ^ 48) ++ bytesLE 8 p.v
  | .mcast _ m => bytesLE 16 m.off ++ m.data
  | .lq _ k m => bytesLE 16 (m.key * 2 ^ 112 + m.pkey * 2 ^ 96 + b2n m.dir * 2 ^ 8 + m.free * 2 ^ 4 + lqCode k)
  | .tile _ m => tileWire m ++ m.data
  | .forward _ _ m => m.data
  | _ => []

/-- The packet a message travels as, none where it passes no port. Its own messages enter a dimension on VC 0 and take VC 1
where their first hop crosses the dateline (R29). -/
def State.packetOf (s : State) (o : Output) : Option Packet :=
  let data := payloadOf o
  let to_ (mclass chip core tenant hops tag : Nat) : Option Packet :=
    (s.route chip).map fun p => { port := p, mclass, vc := s.datelineHop p, dest := chip, src := s.chipId, core, tenant, hops, tag, data }
  match o with
  | .request chip r => to_ 0 chip r.core r.tenant r.hops r.tag
  | .response chip r => to_ 1 chip 0xFF r.tenant r.hops r.tag
  | .scatter chip ps =>
    match ps with
    | [] => none
    | q :: _ => to_ 0 chip q.core q.tenant q.hops q.tag
  | .lq chip _ m => to_ 2 chip m.core m.tenant m.hops m.tag
  | .tile chip m => to_ 2 chip m.core m.tenant m.hops m.tag
  | .mcast p m =>
    some { port := p, mclass := 3, vc := m.vc, dest := m.group, src := m.src, core := m.core, tenant := m.tenant, hops := m.hops,
           tag := m.tag, data }
  | .forward p vc m =>
    some { port := p, mclass := m.mclass, vc := decide (vc = 1), dest := m.dest, src := m.src, core := m.core, tenant := m.tenant,
           hops := m.hops, tag := m.tag, data }
  | _ => none

/-- Flits of a packet: 240 payload bytes each, at least one (R24). -/
def Packet.flits (k : Packet) : Nat := Nat.max 1 (ceilDiv k.data.length 240)

/-- Bits [95:0] of a header, from bit 0 (R24). -/
def hdrBytes (h : FlitHdr) : List Byte :=
  bytesLE 12 (h.seq % 2 ^ 12 * 2 ^ 84 + h.ackseq % 2 ^ 12 * 2 ^ 72 + b2n h.nak * 2 ^ 71 + h.mclass % 4 * 2 ^ 67 + b2n h.vc * 2 ^ 66
    + b2n h.first * 2 ^ 65 + b2n h.last * 2 ^ 64 + h.dest % 2 ^ 16 * 2 ^ 48 + h.src % 2 ^ 12 * 2 ^ 36 + h.core % 2 ^ 8 * 2 ^ 28
    + h.tenant % 16 * 2 ^ 24 + h.hops % 128 * 2 ^ 16 + h.nflit % 256 * 2 ^ 8 + h.tag % 256)

/-- The CRC-32C of a flit (R24). -/
def flitCrc (h : FlitHdr) (payload : List Byte) : BitVec 32 := BitVec.ofNat 32 (crc32c (hdrBytes h ++ payload))

/-- Flit `i` of a packet with a port's sequence numbers; payload past the message's end is zero (log 63). -/
def Packet.flit (k : Packet) (q : Port) (i : Nat) : WireFlit :=
  let hdr : FlitHdr :=
    { seq := (q.nextSeq + i) % 4096, ackseq := q.ackSeq, nak := false, mclass := k.mclass, vc := k.vc, first := decide (i = 0),
      last := decide (i + 1 = k.flits), dest := k.dest, src := k.src, core := k.core, tenant := k.tenant, hops := k.hops,
      nflit := k.flits, tag := k.tag }
  let chunk := (k.data.drop (240 * i)).take 240
  let payload := chunk ++ List.replicate (240 - chunk.length) 0
  { hdr, payload, crc := flitCrc hdr payload }

/-- The flit that acknowledges, or asks for a replay, where no message goes the other way: it is of no message and takes
no sequence number (log 63). -/
def ackFlit (q : Port) (nak : Bool) : WireFlit :=
  let hdr : FlitHdr :=
    { seq := (q.nextSeq + 4095) % 4096, ackseq := q.ackSeq, nak, mclass := 0, vc := false, first := false, last := false, dest := 0, src := 0
      core := 0xFF, tenant := 0, hops := 0, nflit := 0, tag := 0 }
  let payload := List.replicate 240 0
  { hdr, payload, crc := flitCrc hdr payload }

/-! ### Ports (R25, R26) -/

/-- A port's link state. -/
def State.port (s : State) (n : Nat) : Port := s.ports.toList.getD n Port.reset

/-- Change a port's link state. -/
def State.modPort (s : State) (n : Nat) (f : Port → Port) : State :=
  if h : n < 6 then { s with ports := s.ports.set n (f s.ports[n]) } else s

/-- A port acknowledges what it has received in order, or with NAK asks for a replay from the flit after (R24, R25). -/
def State.sayAck (s : State) (n : Nat) (nak : Bool) : State := s.emit (.flits n [ackFlit (s.port n) nak])

/-- Send the messages that wait for a port while it is UP and its replay buffer of 512 flits has room: their flits take
the next sequence numbers and stay in the buffer until they are acknowledged (R24, R25). -/
def State.transmit (s : State) (n : Nat) : List Output → State
  | [] => s.modPort n fun q => { q with waiting := [] }
  | o :: os =>
    let stay := s.modPort n fun q => { q with waiting := o :: os }
    match s.packetOf o with
    | none => transmit s n os
    | some k =>
      let q := s.port n
      if s.portState n = 2 ∧ q.replay.length + k.flits ≤ 512 then
        let fs := (List.range k.flits).map (k.flit q)
        let t := s.modPort n fun q => { q with
          nextSeq := (q.nextSeq + k.flits) % 4096
          replay := q.replay ++ fs.map fun f => { wire := f, msg := o } }
        transmit ((t.emit o).emit (.flits n fs)) n os
      else stay

/-- Let a port's waiting messages go. -/
def State.drain (s : State) (n : Nat) : State := s.transmit n (s.port n).waiting

/-- Send a message by its port, or from the device where it passes none. A port that is DOWN drops it, logged (R50). -/
def State.emitNet (s : State) (o : Output) : State :=
  match s.packetOf o with
  | none => s.emit o
  | some k =>
    if s.portState k.port = 4 then s.logDrop 4 k.tenant k.src k.dest k.hops
    else (s.modPort k.port fun q => { q with waiting := q.waiting ++ [o] }).drain k.port

end Sys2Proof.Machine
end

