-- ==== Sys2Proof/Machine/Ops.lean ====
section
/-!
DEFINITION. The named operations every meaning is built from: registers of the current hart, focus, taking a trap and
returning from one, stopping for the host, translation, and access to memory through the core (06, 07, 08, 09).
-/
namespace Sys2Proof.Machine

/-- How an instruction ends before it completes: a trap (R220), a translation fault (R183), or waiting to be tried again. -/
inductive Exit where
  | trap (s : State) (c : Cause) (sub : Nat) (tval : Word)
  /-- kind 1 to 4 as R179 and R184 number them, 5 COPY; access 0 read, 1 write, 2 fetch -/
  | host (s : State) (kind acc : Nat) (va : Word)
  | wait (s : State)
  /-- waiting after a request is sent for the access `key` -/
  | ask (s : State) (key : Nat) (o : Nat → Output)

/-- A computation over the state that may end the instruction. -/
abbrev Act (α : Type) := StateT State (Except Exit) α

/-- End the instruction with a trap at the state reached. -/
def raise {α : Type} (c : Cause) (sub : Nat) (tval : Word) : Act α := fun s => .error (.trap s c sub tval)
/-- End it with a translation fault. -/
def xfault {α : Type} (kind acc : Nat) (va : Word) : Act α := fun s => .error (.host s kind acc va)
/-- The hart waits: the instruction is tried again later. -/
def wait {α : Type} : Act α := fun s => .error (.wait s)
/-- Raise unless a condition holds. -/
def check (c : Bool) (k : Cause) (sub : Nat) (tval : Word) : Act Unit := if c then pure () else raise k sub tval
/-- Wait unless a condition holds. -/
def waitUnless (c : Bool) : Act Unit := if c then pure () else wait

/-- Change the state an exit carries. -/
def Exit.mapState (f : State → State) : Exit → Exit
  | .trap s c sub v => .trap (f s) c sub v
  | .host s k a v => .host (f s) k a v
  | .wait s => .wait (f s)
  | .ask s k o => .ask (f s) k o

/-- Run an action; change the state any exit carries. -/
def onExit {α : Type} (f : State → State) (a : Act α) : Act α := fun s =>
  match a s with
  | .ok r => .ok r
  | .error e => .error (e.mapState f)

namespace State

/-! ### Registers of the current hart -/

/-- Change the current hart. -/
def onHart (s : State) (f : Hart → Hart) : State := { s with hart := f s.hart }
/-- Change the current crew. -/
def onCrew (s : State) (f : Crew → Crew) : State := { s with crew := f s.crew }
/-- Change the CSRs of the current hart. -/
def onCsr (s : State) (f : Csrs → Csrs) : State := { s with hart := { s.hart with csr := f s.hart.csr } }

/-- XRead (R305): x0 reads zero. -/
def x (s : State) (r : Reg) : Word := if r = 0 then 0 else s.hart.x[r.toNat]

/-- XWrite (R305): x0 discards the value (R284). -/
def setX (s : State) (r : Reg) (v : Word) : State :=
  if r = 0 then s else { s with hart := { s.hart with x := s.hart.x.set r.toNat v } }

def pc (s : State) : Word := s.hart.pc
def setPc (s : State) (v : Word) : State := { s with hart := { s.hart with pc := v } }

/-- Continue after an instruction of `n` bytes, which has retired (R282, R297). -/
def advance (s : State) (n : Nat) : State :=
  { s with hart := { s.hart with
      pc := s.hart.pc + BitVec.ofNat 64 n, asked := [], answers := []
      csr := { s.hart.csr with instret := s.hart.csr.instret + 1 } } }

/-- Retire with the program counter at a target (R314, R315). -/
def jumpTo (s : State) (t : Word) : State :=
  { s with hart := { s.hart with
      pc := t, asked := [], answers := []
      csr := { s.hart.csr with instret := s.hart.csr.instret + 1 } } }

/-- The first parcel of the current instruction, as TVAL holds it (R223). -/
def parcel (s : State) : Word := s.hart.ir.setWidth 64

/-- System mode: TSTAT.MODE (R217). -/
def sysMode (s : State) : Bool := bit s.hart.csr.tstat 0

/-- Raise sticky flags in VFLAGS (R264). -/
def addFlags (s : State) (f : Nat) : State :=
  if f = 0 then s else s.onCsr fun c => { c with vflags := c.vflags ||| BitVec.ofNat 64 f }

def setVstart (s : State) (n : Nat) : State := s.onCsr fun c => { c with vstart := BitVec.ofNat 64 n }
def setMstart (s : State) (n : Nat) : State := s.onCsr fun c => { c with mstart := BitVec.ofNat 64 n }

/-- A free value (log 4), and the state that has used it. -/
def takeFree (s : State) : BitVec 64 × State := (Config.freeValue s.freeCtr, { s with freeCtr := s.freeCtr + 1 })

/-! ### Focus: which hart is current (log 2) -/

def slotOf (uid idx : Nat) : Nat := uid * 32 + idx

/-- Write the current hart and crew back to the lists. -/
def flush (s : State) : State :=
  if s.hart.live then
    { s with harts := FMap.insert s.cur s.hart s.harts, crews := FMap.insert s.crew.uid s.crew s.crews }
  else s

/-- A hart by slot, the current one included. -/
def getHart (s : State) (slot : Nat) : Option Hart :=
  if s.hart.live = true ∧ s.cur = slot then some s.hart else FMap.find slot s.harts

/-- A crew by uid, the current one included. -/
def getCrew (s : State) (uid : Nat) : Option Crew :=
  if s.hart.live = true ∧ s.crew.uid = uid then some s.crew else FMap.find uid s.crews

/-- Make a hart the current one, with its crew. -/
def focus (s : State) (slot : Nat) : Option State :=
  if s.hart.live = true ∧ s.cur = slot then some s
  else
    let s := s.flush
    match FMap.find slot s.harts, FMap.find (slot / 32) s.crews with
    | some h, some c => some { s with cur := slot, hart := h, crew := c }
    | _, _ => none

/-- Put a hart into the lists and, where it is the current one, into its place. -/
def putHart (s : State) (slot : Nat) (h : Hart) : State :=
  if s.hart.live = true ∧ s.cur = slot then { s with hart := h }
  else { s with harts := FMap.insert slot h s.harts }

def putCrew (s : State) (c : Crew) : State :=
  if s.hart.live = true ∧ s.crew.uid = c.uid then { s with crew := c }
  else { s with crews := FMap.insert c.uid c s.crews }

def modHart (s : State) (slot : Nat) (f : Hart → Hart) : State :=
  match s.getHart slot with
  | some h => s.putHart slot (f h)
  | none => s

def modCrew (s : State) (uid : Nat) (f : Crew → Crew) : State :=
  match s.getCrew uid with
  | some c => s.putCrew (f c)
  | none => s

/-- Harts of a crew that are there, by slot. -/
def crewHarts (s : State) (c : Crew) : List (Nat × Hart) :=
  (List.range c.hg).filterMap fun i => (s.getHart (slotOf c.uid i)).map (fun h => (slotOf c.uid i, h))

/-- Every crew the device knows, the current one with its present contents. -/
def allCrews (s : State) : List Crew := s.flush.crews.map (·.2)

/-! ### Fault records -/

/-- Put a record on a function's fault queue and raise its vector 3 (R58, R184). `must`: records of a faulting crew wait for
space; the others are dropped and counted. -/
def pushFq (s : State) (fn : Nat) (must : Bool) (r : FqRec) : State :=
  let q := FMap.getD [] fn s.fq
  if q.length < 256 then ({ s with fq := FMap.insert fn (q ++ [r]) s.fq }).msix fn 3
  else if must then { s with fqWait := s.fqWait ++ [(fn, r)] }
  else
    let k := fnKey fn rFQSTAT
    s.setRegFld k 32 8 (Nat.min 255 (fld (s.reg k) 32 8 + 1))

/-- A fault record of a crew (R184). -/
def crewRecord (c : Crew) (launchId : Nat) (cause hart acc va elem : Nat) : FqRec :=
  { w0 := BitVec.ofNat 64 (2 ^ 63 + cause * 2 ^ 48 + c.tenant * 2 ^ 44 + c.asid * 2 ^ 32 + launchId % 2 ^ 32)
    w1 := BitVec.ofNat 64 (c.crewId % 2 ^ 32 * 2 ^ 32 + c.core * 2 ^ 24 + hart * 2 ^ 19 + acc * 2 ^ 17)
    w2 := BitVec.ofNat 64 (va % 2 ^ 53)
    w3 := BitVec.ofNat 64 (elem % 2 ^ 32 * 2 ^ 32) }

/-- A launch's 32-bit ID, by sequence number. -/
def launchId (s : State) (seq : Nat) : Nat :=
  match FMap.find seq s.launches with
  | some l => l.id
  | none => 0

/-! ### Traps -/

/-- Taking a trap (R220): save TPC, TCAUSE and TVAL, stack the mode, enter system mode at TVEC. Parcels fetched in the
other mode and what younger instructions have read are discarded (R136). -/
def takeTrap (s : State) (c : Cause) (sub : Nat) (tval tpc : Word) (imp : Bool) : State :=
  let t := s.hart.csr.tstat
  let t1 := setFld t 1 1 (fld t 0 1)
  let t2 := setFld t1 0 1 1
  let t3 := setFld t2 2 2 (Nat.min (fld t 2 2 + 1) 3)
  { s with hart := { s.hart with
      pc := s.hart.csr.tvec, asked := [], answers := [], ibuf := [], early := []
      csr := { s.hart.csr with
        tpc := tpc &&& fieldMask 0 53
        tcause := BitVec.ofNat 64 (b2n imp * 2 ^ 63 + sub % 16 * 2 ^ 8 + c.code)
        tval := tval, tstat := t3 } } }

/-- TRET's effect on the trap state (R221). -/
def trapReturn (s : State) : State :=
  let t := s.hart.csr.tstat
  let t1 := setFld t 0 1 (fld t 1 1)
  let t2 := setFld t1 1 1 0
  let t3 := setFld t2 2 2 (fld t 2 2 - 1)
  { s with hart := { s.hart with
      pc := s.hart.csr.tpc, asked := [], answers := [], ibuf := [], early := []
      csr := { s.hart.csr with tstat := t3, instret := s.hart.csr.instret + 1 } } }

/-- The cause a translation fault of a kind and access traps with under FAULTLOCAL = 1, and its SUB (R179, R183, R223). -/
def xfaultCause (kind acc : Nat) : Cause × Nat :=
  if kind = 4 then (.retiredPage, 0)
  else if kind = 5 then (.copyFault, acc + 1)
  else if acc = 2 then (.fetchFault, kind)
  else if acc = 1 then (.storeFault, kind)
  else (.loadFault, kind)

/-- A translation fault (R183): to the hart's handler, or the crew stops FAULTED with a record. -/
def translationFault (s : State) (kind acc : Nat) (va : Word) : State :=
  if bit s.hart.csr.hcap 0 then
    let (c, sub) := xfaultCause kind acc
    s.takeTrap c sub va s.hart.pc false
  else
    let r := crewRecord s.crew (s.launchId s.crew.launch) kind s.hart.idx acc va.toNat s.hart.csr.vstart.toNat
    let s := { s with hart := { s.hart with stopped := true, asked := [], answers := [] }, crew := { s.crew with faulted := true } }
    s.pushFq s.crew.tenant true r

/-- Report imprecisely to a hart: pending, or lost and counted (R227). -/
def reportImp (s : State) (slot : Nat) (c : Cause) (sub : Nat) (tval : Word) : State :=
  s.modHart slot fun h =>
    match h.imp with
    | none =>
      { h with imp := some { cause := c, sub, tval }, csr := { h.csr with tstat := setFld h.csr.tstat 7 1 1 } }
    | some _ =>
      { h with csr := { h.csr with tstat := setFld h.csr.tstat 8 8 (Nat.min 255 (fld h.csr.tstat 8 8 + 1)) } }

/-- A POISONWB record, naming a hart (R184, R226). -/
def poisonWb (s : State) (slot : Nat) : State :=
  match s.getCrew (slot / 32) with
  | some c => s.pushFq c.tenant false (crewRecord c (s.launchId c.launch) 0x24 (slot % 32) 3 0 0)
  | none => s

end State

/-! ### Memory at its home -/

/-- The kinds of place a physical address names (R162). -/
inductive Place where
  | mem (pa : Nat)
  | aperture (off : Nat)
  | control (off : Nat)
  | remote (chip off : Nat)
  | mcast (group off high : Nat)
  | hole
  deriving DecidableEq, Repr

namespace State

/-- Local DRAM or one of the two shared stores (R162, R165). -/
def isMem (s : State) (pa : Nat) : Bool :=
  decide (pa < s.dramBytes)
  || (decide (0x7000000000 ≤ pa) && decide (pa < 0x7006000000))
  || (decide (0x7100000000 ≤ pa) && decide (pa < 0x7106000000))

/-- Decode a physical address (R162, R31, R35). -/
def place (s : State) (pa : Nat) : Place :=
  if pa / 2 ^ 52 % 2 = 1 then
    if pa / 2 ^ 51 % 2 = 1 then .mcast (pa / 2 ^ 35 % 2 ^ 16) (pa % 2 ^ 24) (pa / 2 ^ 24 % 2 ^ 11)
    else .remote (pa / 2 ^ 39 % 2 ^ 12) (pa % 2 ^ 39)
  else if s.isMem pa then .mem pa
  else if 0x6000000000 ≤ pa ∧ pa < 0x7000000000 then .aperture (pa - 0x6000000000)
  else if 0x7F00000000 ≤ pa ∧ pa < 0x7F01000000 then .control (pa - 0x7F00000000)
  else .hole

/-- One byte at its home; memory nothing has written reads 0x00 (log 3). -/
def byteAt (s : State) (pa : Nat) : Byte := FMap.getD 0 pa s.mem

/-- `n` bytes at their home, as a list from the lowest address. -/
def bytesAt (s : State) (pa n : Nat) : List Byte := (upFrom pa n).map s.byteAt

/-- `n` bytes at their home as a little-endian number (R3). -/
def readHome (s : State) (pa n : Nat) : Nat := ofBytesLE (s.bytesAt pa n)

/-- Store bytes at their home. -/
def writeMem (m : FMap Byte) (pa : Nat) : List Byte → FMap Byte
  | [] => m
  | b :: bs => writeMem (FMap.setD 0 pa b m) (pa + 1) bs

def writeBytes (s : State) (pa : Nat) (bs : List Byte) : State := { s with mem := writeMem s.mem pa bs }

/-- Store the low `n` bytes of a number, least significant first (R3). -/
def writeHome (s : State) (pa n v : Nat) : State := s.writeBytes pa (bytesLE n v)

/-- Whether the line of an address is poisoned (R187). -/
def poisoned (s : State) (pa : Nat) : Bool := FMap.getD false (pa / 64) s.pois

/-- Whether any line of `n` bytes is poisoned. -/
def poisonedAny (s : State) (pa n : Nat) : Bool :=
  if n = 0 then false else (upFrom (pa / 64) ((pa + n - 1) / 64 - pa / 64 + 1)).any fun l => FMap.getD false l s.pois

def setPois (s : State) (line : Nat) (b : Bool) : State := { s with pois := FMap.setD false line b s.pois }

/-- Write all 64 bytes of a line, which clears its poison (R187). -/
def writeLine (s : State) (line : Nat) (bs : List Byte) : State := (s.writeBytes (line * 64) bs).setPois line false

/-! ### Copy destinations not yet filled (R159) -/

/-- The registrations whose unfilled lines an access touches. -/
def unfilled (s : State) (pa n : Nat) : List CopyReg :=
  s.cregs.filter fun r => decide (r.lo < r.hi) && decide (r.lo / 64 * 64 < pa + n) && decide (pa < roundUp r.hi 64)

/-! ### Locked ranges (R172) -/

/-- Whether a lock range that is in force covers a DRAM line. -/
def lockCovers (s : State) (line : Nat) : Bool :=
  (List.range 16).any fun i =>
    let r := s.reg (rMSCLK i)
    let base := fld r 17 22 * 2 ^ 17
    bit r 63 && decide (base ≤ line * 64) && decide (line * 64 < base + fld r 40 8 * 2 ^ 17)

/-- An access to a line of a lock range fills it: it is held locked where its set has fewer than eight such lines, else
unlocked with LOCKOVF. -/
def lockFill (s : State) (line : Nat) : State :=
  if s.dramBytes ≤ line * 64 ∨ !s.lockCovers line ∨ s.locked.contains line then s
  else
    let same := s.locked.filter fun l => decide (s.stackOf (l * 64) = s.stackOf (line * 64)) && decide (Config.cacheSet l = Config.cacheSet line)
    if same.length < 8 then { s with locked := line :: s.locked } else { s with lockOvf := true }

/-- The lines `n` bytes touch. -/
def linesOf (pa n : Nat) : List Nat := if n = 0 then [] else upFrom (pa / 64) ((pa + n - 1) / 64 - pa / 64 + 1)

/-- An access to `n` bytes at their home locks those of its lines that a lock range covers. -/
def touch (s : State) (pa n : Nat) : State := (linesOf pa n).foldl lockFill s

/-! ### The scalar data cache (R205, R331) -/

def dkey (core line : Nat) : Nat := line * 256 + core

def dline (s : State) (core line : Nat) : Option DLine := FMap.find (dkey core line) s.dcache

def putDline (s : State) (core line : Nat) (d : DLine) : State :=
  { s with dcache := FMap.insert (dkey core line) d s.dcache }

def dropDline (s : State) (core line : Nat) : State := { s with dcache := FMap.erase (dkey core line) s.dcache }

/-- Store the bytes of a line that are dirty. -/
def writeDirty (m : FMap Byte) (pa : Nat) : List Byte → List Bool → FMap Byte
  | b :: bs, d :: ds => writeDirty (if d then FMap.setD 0 pa b m else m) (pa + 1) bs ds
  | _, _ => m

/-- Write a line's dirty bytes to its home on a hart's account (R331); a line whose every byte is dirty clears the
home's poison (R187). One that an error has struck is written back poisoned, with a record that names the hart (R186,
R226). The copy stays, clean. -/
def flushLine (s : State) (slot core line : Nat) : State :=
  match s.dline core line with
  | none => s
  | some d =>
    if d.dirty.any id then
      let s := { s.lockFill line with mem := writeDirty s.mem (line * 64) d.data d.dirty }
      let s := s.putDline core line { d with dirty := List.replicate 64 false, by_ := [], pois := d.bad, bad := false }
      if d.bad then (s.setPois line true).poisonWb slot
      else if d.dirty.all id then s.setPois line false
      else s
    else s

/-- Whether a cached line holds dirty bytes whose home a copy has registered and not filled: its write-back waits (R159). -/
def stuck (s : State) (core line : Nat) : Bool :=
  match s.dline core line with
  | some d => d.dirty.any id && !(s.unfilled (line * 64) 64).isEmpty
  | none => false

/-- As `flushLine`; a line whose home waits for a copy's fill stays as it is. -/
def writeBackBy (s : State) (slot core line : Nat) : State := if s.stuck core line then s else s.flushLine slot core line

/-- Write a line back on the current hart's account. -/
def writeBack (s : State) (core line : Nat) : State := s.writeBackBy s.cur core line

/-- Write a line back on a hart's account and drop it. -/
def evictBy (s : State) (slot core line : Nat) : State :=
  if s.stuck core line then s else (s.flushLine slot core line).dropDline core line

/-- Write a line back and drop it. -/
def evict (s : State) (core line : Nat) : State := s.evictBy s.cur core line

/-- As `evict`, of a line that leaves on no hart's account that the device can see: the lowest that wrote it stands for
the hart whose access made room (log 42). -/
def evictAlone (s : State) (core line : Nat) : State :=
  let who := match s.dline core line with
    | some d => (d.by_.min?).getD s.cur
    | none => s.cur
  s.evictBy who core line

/-- Lines of a core's cache that satisfy a test. -/
def dlines (s : State) (core : Nat) (f : DLine → Bool) : List Nat :=
  s.dcache.filterMap fun p => if p.1 % 256 = core ∧ f p.2 then some (p.1 / 256) else none

/-- Write back every line a hart dirtied (R198, R199). -/
def writeBackOf (s : State) (core slot : Nat) : State :=
  (s.dlines core fun d => d.by_.contains slot).foldl (fun s l => s.writeBackBy slot core l) s

/-- Drop every byte not written by the core, with the line's dirty bytes written back (R199): the core's lines all leave,
but for those whose every byte the core wrote. -/
def refresh (s : State) (core : Nat) : State :=
  (s.dlines core fun d => !d.dirty.all id).foldl (fun s l => s.evict core l) s

/-- Lines of a cache of 64 KiB (R133). -/
def cacheLines : Nat := 1024

/-- Make room for a line in a core's scalar data cache: where it is full, a line leaves that the manual does not name
(log 4), one that no copy holds back. -/
def makeRoom (s : State) (core : Nat) : State :=
  if (s.dlines core fun _ => true).length < cacheLines then s
  else
    let ls := (s.dlines core fun _ => true).filter fun l => !s.stuck core l
    let (v, s) := s.takeFree
    s.evict core (ls.getD (v.toNat % ls.length) 0)

/-- A line as a fill takes it from its home. -/
def freshLine (s : State) (line : Nat) : DLine :=
  { data := s.bytesAt (line * 64) 64, dirty := List.replicate 64 false, by_ := [], pois := FMap.getD false line s.pois }

/-- Fill a line from its home if the cache does not hold it; one that an error has struck is written back first (R186). -/
def fillLine (s : State) (core line : Nat) : State :=
  match s.dline core line with
  | some d =>
    if d.bad then
      let s := (s.evict core line).lockFill line
      s.putDline core line (s.freshLine line)
    else s
  | none =>
    let s := (s.makeRoom core).lockFill line
    s.putDline core line (s.freshLine line)

/-- A byte as the core's scalar side sees it: its cached copy, else its home. -/
def coreByte (s : State) (core pa : Nat) : Byte :=
  match s.dline core (pa / 64) with
  | some d => d.data.getD (pa % 64) 0
  | none => s.byteAt pa

/-- Whether the scalar side finds a line poisoned. -/
def corePois (s : State) (core pa : Nat) : Bool :=
  match s.dline core (pa / 64) with
  | some d => d.pois && !d.dirty.all id
  | none => s.poisoned pa

/-- Store one byte through the cache: fill the line, then set the byte dirty. -/
def storeByte (s : State) (core slot pa : Nat) (b : Byte) : State :=
  let s := s.fillLine core (pa / 64)
  match s.dline core (pa / 64) with
  | none => s
  | some d =>
    s.putDline core (pa / 64) { d with
      data := d.data.set (pa % 64) b, dirty := d.dirty.set (pa % 64) true
      by_ := if d.by_.contains slot then d.by_ else slot :: d.by_ }

def storeBytes (s : State) (core slot pa : Nat) : List Byte → State
  | [] => s
  | b :: bs => storeBytes (s.storeByte core slot pa b) core slot (pa + 1) bs

/-- The lines that bytes cover whole lose their poison (R187). -/
def clearWhole (s : State) (pa n : Nat) : State :=
  (linesOf pa n).foldl (fun s l => if pa ≤ l * 64 ∧ l * 64 + 64 ≤ pa + n then s.setPois l false else s) s

/-- Store bytes at their home and clear the poison of lines they cover. -/
def writeCover (s : State) (pa : Nat) (bs : List Byte) : State := (s.writeBytes pa bs).clearWhole pa bs.length

/-! ### Translation (R176 to R181) -/

/-- What an access needs of its leaf (R179, R332). -/
inductive Need where
  | read | write | fetch
  /-- cache maintenance: R or X -/
  | cache
  deriving DecidableEq, Repr

/-- A leaf as translation uses it: its bits [7:0] and the base of the 128 KiB frame reached. -/
structure Leaf where
  flags : Nat
  frame : Nat
  reach : Nat
  deriving DecidableEq, Repr

/-- Whether a frame may not be used: in the bad-page list, the dump region or a shadow reserve (R179 order 4, R78, R91,
R190). -/
def retiredFrame (s : State) (frame : Nat) : Bool :=
  let degraded := bit (s.reg rMEMSTAT) 55
  let inBpl := s.bpl.any fun e =>
    decide (fld (e.setWidth 64) 0 22 = frame / 2 ^ 17) && (bit (e.setWidth 64) 22 == degraded) && decide (frame < 2 ^ 39)
  let inDump := decide (s.dramBytes - 0x10000000 ≤ frame) && decide (frame < s.dramBytes)
  let inShadow (die : Nat) : Bool :=
    let top := 0x7006000000 + die * 0x100000000
    decide (top - s.mirror die * 2 ^ 20 ≤ frame) && decide (frame < top)
  inBpl || inDump || inShadow 0 || inShadow 1

/-- A cached leaf for a page, if one is held (R181). -/
def tlbFind (s : State) (tenant asid page : Nat) : Option Leaf :=
  (s.tlb.find? fun e => decide (e.tenant = tenant) && decide (e.page = page)
      && (decide (e.asid = asid) || decide (e.flags / 64 % 2 = 1))).map
    fun e => { flags := e.flags, frame := e.frame, reach := e.reach }

/-- A cached table pointer (R181). -/
def walkFind (s : State) (tenant asid level index : Nat) : Option Nat :=
  (s.walks.find? fun e => decide (e.tenant = tenant) && decide (e.asid = asid) && decide (e.level = level)
      && decide (e.index = index)).map (·.table)

/-- The context table's pointer to a root table (R177): the root's address, or the kind of the fault. Kind 0 stands for
a walk that waits at a line that a copy has registered and not filled (R159). -/
def walkContext (s : State) (tenant asid : Nat) : Except Nat Nat :=
  let tp := s.reg (rTENPT tenant)
  if !bit tp 63 then .error 1
  else
    match s.walkFind tenant asid 3 0 with
    | some t => .ok t
    | none =>
      let a := fld tp 15 38 * 2 ^ 15 + 8 * asid
      let e := s.readHome a 8
      if !(s.unfilled a 8).isEmpty then .error 0
      else if s.poisonedAny a 8 then .error 2
      else if e % 2 = 0 then .error 1
      else if e / 2 ^ 53 ≠ 0 ∨ e / 2 % 2 ^ 14 ≠ 0 then .error 2
      else .ok (e / 2 ^ 15 % 2 ^ 38 * 2 ^ 15)

/-- Read a table entry at a level: the next table, or a leaf (R178, R179 orders 1 and 2). -/
def readEntry (s : State) (level table index va : Nat) : Except Nat (Nat ⊕ Leaf) :=
  let a := table + 8 * index
  let e := s.readHome a 8
  if !(s.unfilled a 8).isEmpty then .error 0
  else if s.poisonedAny a 8 then .error 2
  else if e % 2 = 0 then .error 1
  else if e / 2 ^ 53 ≠ 0 then .error 2
  else if e / 2 % 2 = 0 then
    if level = 0 ∨ e / 4 % 2 ^ 6 ≠ 0 ∨ e / 2 ^ 8 % 2 ^ 7 ≠ 0 then .error 2
    else .ok (.inl (e / 2 ^ 15 % 2 ^ 38 * 2 ^ 15))
  else if level = 2 ∨ e / 2 ^ 8 % 2 ^ 9 ≠ 0 ∨ (e / 8 % 2 = 1 ∧ e / 4 % 2 = 0) then .error 2
  else
    let frame := e / 2 ^ 17 % 2 ^ 36 * 2 ^ 17
    if level = 1 then
      if e / 2 ^ 7 % 2 = 1 ∨ frame / 2 ^ 17 % 2 ^ 12 ≠ 0 then .error 2
      else .ok (.inr { flags := e % 256, frame := frame + va / 2 ^ 17 % 2 ^ 12 * 2 ^ 17, reach := 2 })
    else .ok (.inr { flags := e % 256, frame, reach := e / 2 ^ 7 % 2 })

/-- The walk (R176, R179): levels 2, 1 and 0. -/
def walk (s : State) (tenant asid va : Nat) : Except Nat Leaf := do
  let root ← s.walkContext tenant asid
  let t1 ← match s.walkFind tenant asid 2 (va / 2 ^ 41) with
    | some t => pure t
    | none =>
      match ← s.readEntry 2 root (va / 2 ^ 41 % 2 ^ 12) va with
      | .inl t => pure t
      | .inr _ => throw 2
  let r1 ← match s.walkFind tenant asid 1 (va / 2 ^ 29) with
    | some t => pure (.inl t)
    | none => s.readEntry 1 t1 (va / 2 ^ 29 % 2 ^ 12) va
  match r1 with
  | .inr l => pure l
  | .inl t0 =>
    match ← s.readEntry 0 t0 (va / 2 ^ 17 % 2 ^ 12) va with
    | .inr l => pure l
    | .inl _ => throw 2

/-- Orders 3 and 4 of R179 on a leaf. -/
def leafCheck (s : State) (sys : Bool) (n : Need) (l : Leaf) : Except Nat Nat :=
  let f (i : Nat) : Bool := decide (l.flags / 2 ^ i % 2 = 1)
  let ok := match n with
    | .read => f 2
    | .write => f 3
    | .fetch => f 4
    | .cache => f 2 || f 4
  if (!sys && !f 5) || !ok then .error 3
  else if s.retiredFrame l.frame then .error 4
  else .ok l.frame

/-- Translate an address that is not in the shared-store window: the physical address, or the kind of fault (R179). -/
def translate (s : State) (tenant asid : Nat) (sys : Bool) (n : Need) (va : Nat) : Except Nat Nat := do
  if va / 2 ^ 53 ≠ 0 ∨ bit (s.reg (rTENPT tenant)) 63 = false then throw 1
  let l ← match s.tlbFind tenant asid (va / 2 ^ 17) with
    | some l => pure l
    | none => s.walk tenant asid va
  let frame ← s.leafCheck sys n l
  pure (frame + va % 2 ^ 17)

/-! ### The current hart's addresses -/

/-- Why an address cannot be reached: a translation fault of a kind, 0 where the walk waits for a copy; or a refusal
with its SUB (R163, R168). -/
inductive AFault where
  | kind (k : Nat)
  | refused
  | outside
  deriving DecidableEq, Repr

/-- The shared-store window (R167). -/
def inWindow (va : Nat) : Bool := decide (0x1FFFF000000000 ≤ va) && decide (va < 0x20000000000000)

/-- Reach `n` bytes inside one page: through the window or by translation. -/
def reach (s : State) (need : Need) (va n : Nat) : Except AFault Nat :=
  if inWindow va then
    match need with
    | .fetch => .error .refused
    | _ =>
      if s.crew.ssBase ≤ va ∧ va + n ≤ s.crew.ssBase + s.crew.ssSize then .ok (0x7000000000 + (va - 0x1FFFF000000000))
      else .error .outside
  else
    match s.translate s.crew.tenant s.crew.asid s.sysMode need va with
    | .ok pa => .ok pa
    | .error k => .error (.kind k)

/-- Split `n` bytes at a page boundary: (VA, offset in the access, bytes). -/
def pieces (va n : Nat) : List (Nat × Nat × Nat) :=
  let room := 2 ^ 17 - va % 2 ^ 17
  if n ≤ room then [(va, 0, n)] else [(va, 0, room), ((va + room) % 2 ^ 64, room, n - room)]

/-- Kinds of access, as R162, R163, R33, R35 and R71 distinguish them. -/
inductive Acc where
  | scalarLd | scalarSt | vecLd | vecSt | atomic
  /-- VSCATADD: an update without an answer (R33) -/
  | update
  /-- the gather of MOPAG: shared store only (R385) -/
  | gather
  /-- the merge network's reads and writes -/
  | engineLd | engineSt
  deriving DecidableEq, Repr

/-- Loads and stores by what the trap is called: a refused read is LOAD_FAULT, the others STORE_FAULT (R163). -/
def Acc.isRead : Acc → Bool
  | .scalarLd | .vecLd | .gather | .engineLd => true
  | _ => false

/-- Whether a place admits an access of the current hart, before anything is sent (R33, R35, R71, R163). -/
def admits (s : State) (a : Acc) (va n : Nat) : Place → Bool
  | .mem pa => !(a == .gather) || decide (0x7000000000 ≤ pa)
  | .aperture off =>
    let e := s.reg (rAPERTURE (off / 2 ^ 30))
    (a == .scalarLd || a == .scalarSt || a == .vecLd || a == .vecSt) && bit e 63 && decide (fld e 59 4 = s.crew.tenant)
  | .control _ => (a == .scalarLd || a == .scalarSt) && decide (n = 8) && decide (va % 8 = 0) && s.sysMode
  | .remote _ _ => !(a == .gather)
  | .mcast _ _ high => (a == .scalarSt || a == .vecSt) && decide (high = 0)
  | .hole => false

end State

open State

/-- The trap or fault of an address that cannot be reached (R163, R168, R179, R183). -/
def addrFault {α : Type} (read : Bool) (va : Word) : AFault → Act α
  | .kind 0 => wait
  | .kind k => xfault k (if read then 0 else 1) va
  | .refused => raise (if read then .loadFault else .storeFault) 0 va
  | .outside => raise (if read then .loadFault else .storeFault) 4 va

/-- Translate the pieces of an access in order; TVAL is the VA of the element (R223), and for a scalar access whose
second page faults that page's first byte (R313). -/
def reachPieces (a : Acc) (need : Need) (va : Word) (s : State) : List (Nat × Nat × Nat) → Except Exit (List (Nat × Nat × Place))
  | [] => .ok []
  | (v, off, k) :: ps =>
    match s.reach need v k with
    | .error f =>
      let tv := if a == .scalarLd || a == .scalarSt then BitVec.ofNat 64 v else va
      match addrFault (α := Unit) a.isRead tv f s with
      | .error e => .error e
      | .ok _ => .ok []
    | .ok pa =>
      match reachPieces a need va s ps with
      | .ok r => .ok ((off, k, s.place pa) :: r)
      | .error e => .error e

/-- Reach the pieces of an access: every translation check comes before a refusal (R224 step 6). -/
def reachAll (a : Acc) (need : Need) (va : Word) (n : Nat) : Act (List (Nat × Nat × Place)) := fun s =>
  match reachPieces a need va s (pieces va.toNat n) with
  | .error e => .error e
  | .ok ps =>
    if ps.all fun p => s.admits a va.toNat n p.2.2 then .ok (ps, s)
    else .error (.trap s (if a.isRead then .loadFault else .storeFault) 0 va)

/-! ### Waiting for a copy (R159, R160) -/

/-- Wait for fills. The issuing hart of a FAULTED channel learns of the fault here; once it is reported, a further access
restarts the copy and waits (R160, R402). -/
def copyGate (pa n : Nat) : Act Unit := fun s =>
  match unfilled s pa n with
  | [] => .ok ((), s)
  | rs =>
    match rs.find? (fun r => decide (r.slot = s.cur) && decide (r.chan < 4)) with
    | none => .error (.wait s)
    | some r =>
      if h : r.chan < 4 then
        let c := s.hart.cp[r.chan]
        if c.st = 2 then
          if c.reported then
            .error (.wait (s.onHart fun h' => { h' with cp := h'.cp.set r.chan { c with st := 1, cause := 0, reported := false } }))
          else
            let s' := s.onHart fun h' => { h' with cp := h'.cp.set r.chan { c with reported := true } }
            if c.cause = 1 ∨ c.cause = 2 then .error (.host s' 5 (c.cause - 1) (BitVec.ofNat 64 c.fva))
            else .error (.trap s' .copyFault c.cause (BitVec.ofNat 64 c.fva))
        else .error (.wait s)
      else .error (.wait s)

/-! ### Requests that leave the core (R31 to R34, R71) -/

/-- The memory slice of an address (R164). -/
def sliceOf (pa : Nat) : Nat := pa / 2 ^ 12 % 64

/-- Put an access among those that wait for fills (R159). -/
def State.hold (s : State) (h : Held) : State := { s with held := FMap.insert s.nextHeld h s.held, nextHeld := s.nextHeld + 1 }

/-- Whether a multicast write stays behind one that waits: two of one source hart to one group and slice keep their
order (R39). -/
def landsBehind (m : McastMsg) : Held → Bool
  | .landing q _ => decide (q.src = m.src) && decide (q.core = m.core) && decide (q.slot = m.slot) && decide (q.group = m.group)
      && decide (sliceOf q.off = sliceOf m.off)
  | .event _ => false

/-- Deliver a multicast message locally at the landing address its entry gave (R37, R159). -/
def State.land (s : State) (m : McastMsg) (pa : Nat) : State :=
  if !(s.isMem pa && s.isMem (pa + m.data.length - 1)) then s.logDrop 5 m.tenant m.src m.group m.hops
  else if !(s.unfilled pa m.data.length).isEmpty || s.held.any (fun h => landsBehind m h.2) then s.hold (.landing m pa)
  else (s.touch pa m.data.length).writeCover pa m.data

/-- A multicast message at this router (R37): `inPort` is the port it came by, none at the source. -/
def State.mcastRoute (s : State) (inPort : Option Nat) (m : McastMsg) : State :=
  let e := s.reg (rGROUP m.group)
  if 64 < m.hops then s.logDrop 1 m.tenant m.src m.group m.hops
  else if !bit e 63 then s.logDrop 2 m.tenant m.src m.group m.hops
  else if fld e 59 4 ≠ m.tenant then s.logDrop 3 m.tenant m.src m.group m.hops
  else
    let s := [0, 1, 2, 3, 4, 5].foldl (fun s p =>
      if !bit e (48 + p) then s
      else if inPort = some p then s.setRegFld (rIXPSTAT p) 16 16 (Nat.min 65535 (fld (s.reg (rIXPSTAT p)) 16 16 + 1))
      else if s.portState p = 4 then s.logDrop 4 m.tenant m.src m.group m.hops
      else s.emitNet (.mcast p { m with hops := m.hops + 1, vc := m.vc || s.datelineHop p })) s
    if bit e 54 then s.land m (fld e 24 15 * 2 ^ 24 + m.off) else s

/-- The current hart stores to a multicast group, and remembers it for a refusal of one of the copies (R37, R226). -/
def State.sendMcast (s : State) (by_ : Poster) (va : Nat) (m : McastMsg) : State :=
  let t : McTag := { tag := s.nextTag, slot := s.cur, va, by_, ins := s.hart.csr.instret }
  ({ s with nextTag := s.nextTag + 1, mcTags := s.mcTags ++ [t] } : State).mcastRoute none { m with tag := s.nextTag }

/-- Where an access to a place is performed on this device: its own memory, or its fabric address by its own chip ID
(R32). -/
def State.homeOf (s : State) : Place → Option Nat
  | .mem pa => some pa
  | .remote chip off =>
    if chip = s.chipId ∧ (s.srcRefuses chip).isNone ∧ s.isMem off ∧ s.tenmask s.crew.tenant then some off else none
  | _ => none

/-- Whether the target refuses a request from a tenant at an offset (R33), with the drop-log cause. Where the offset is
no memory and the TENMASK bit is clear too, the cause is REFUSED: DESIGN CHOICE (log 65). -/
def State.tgtRefuses (s : State) (tenant off : Nat) : Option Nat :=
  if !s.faben ∨ !s.isMem off then some 6
  else if !s.tenmask tenant then some 3
  else none

/-- Keys of accesses: each member of a convoy has its own. -/
def State.askKey (s : State) (key : Nat) : Nat := match s.hart.conv with | some j => key + (j + 1) * 2 ^ 50 | none => key

/-- The key of an access that updates memory. -/
def updateKey (key : Nat) : Nat := 2 ^ 60 + key

/-- The hart's instruction has sent an update, so that it goes on to its end (R99, R225). -/
def Hart.mustFinish (h : Hart) : Bool :=
  h.asked.any (fun a => decide (2 ^ 60 ≤ a.key)) || h.answers.any fun p => decide (2 ^ 60 ≤ p.1)

/-- The answer recorded for an access of the current instruction, by key. -/
def answerOf (key : Nat) : Act (Option Answer) := fun s => .ok (FMap.find (s.askKey key) s.hart.answers, s)

/-- Send a request for an access of the current instruction and wait for its answer. -/
def ask {α : Type} (key : Nat) (o : Nat → Output) : Act α := fun s =>
  if s.hart.asked.any (fun a => decide (a.key = s.askKey key)) then .error (.wait s) else .error (.ask s (s.askKey key) o)

/-- Send the request of an access and remember it. -/
def State.sendAsk (s : State) (key : Nat) (o : Nat → Output) : State :=
  let tag := s.nextTag
  let s := s.emitNet (o tag)
  { s with nextTag := tag + 1, hart := { s.hart with asked := { tag, key } :: s.hart.asked } }

/-- A trap is taken once everything older has completed: until then the instruction waits (R136). -/
def Exit.inOrder (s : State) (e : Exit) : Exit :=
  match e with
  | .trap _ _ _ _ | .host _ _ _ _ => if s.hart.pend.isEmpty then e else .wait s
  | e => e

/-- The state after an instruction that ended early: traps report the instruction's own address (R223). -/
def Exit.state : Exit → State
  | .trap s c sub v => s.takeTrap c sub v s.hart.pc false
  | .host s k a v => s.translationFault k a v
  | .wait s => s
  | .ask s k o => s.sendAsk k o

/-- A trap of the current instruction, once everything older has completed (R136, R223). -/
def trapHere (c : Cause) (sub : Nat) (tval : Word) (s : State) : Host.Outcome State Fault Refusal :=
  .next (Exit.inOrder s (.trap s c sub tval)).state

/-- Run an instruction's body and continue after its `n` bytes. -/
def runAct (n : Nat) (a : Act Unit) (s : State) : Host.Outcome State Fault Refusal :=
  match a s with
  | .ok (_, s') => .next (s'.advance n)
  | .error e => .next (e.inOrder s).state

/-- Remember a posted store of the current hart. -/
def State.addPosted (s : State) (p : Posted) : State := { s with hart := { s.hart with posted := s.hart.posted ++ [p] } }

/-- Post a store or update of an instruction, of `n` bytes at a physical address, and remember it until its completion (R34,
R226). -/
def post (va lo n : Nat) (o : Nat → Output) : Act Unit := fun s =>
  let tag := s.nextTag
  let s := s.emitNet (o tag)
  .ok ((), ({ s with nextTag := tag + 1 } : State).addPosted { tag, va, by_ := .hart, lo, n, ins := s.hart.csr.instret, bad := false })

/-- The bus address an aperture offset reaches, and the function that issues it (R70). -/
def State.hostBus (s : State) (off : Nat) : Nat := fld (s.reg (rAPERTURE (off / 2 ^ 30))) 0 34 * 2 ^ 30 + off % 2 ^ 30

/-- Refuse a remote access at this device: logged, and reported at the hart (R33). -/
def refuseHere {α : Type} (read : Bool) (cause chip : Nat) (va : Word) : Act α := fun s =>
  let s' := s.logDrop cause s.crew.tenant s.chipId chip 0
  .error (.trap s' (if read then .loadFault else .storeFault) 0 va)

/-- A write refused at this device is reported imprecisely with the rest of its instruction (R226). -/
def refusePosted (cause chip : Nat) (va : Word) : Act Unit := fun s =>
  let tag := s.nextTag
  let s' := s.logDrop cause s.crew.tenant s.chipId chip 0
  .ok ((), ({ s' with nextTag := tag + 1 } : State).addPosted
    { tag, va := va.toNat, by_ := .hart, lo := 0, n := 0, ins := s.hart.csr.instret, bad := true })

/-- Whether an element that an instruction appended to a write stream is still to be written. -/
def Hart.undrained (h : Hart) (ins : Word) : Bool := h.ds.toList.any fun d => d.pend.any fun e => decide (e.ins = ins)

/-- Report the refused stores of instructions that have retired and whose every completion has come, those of elements
appended to write streams among them: once for each instruction, with the VA of its lowest refused element (R226). -/
def settleRun (cur : Word) (all : List Posted) : List Posted → Hart → Hart
  | [], h => h
  | p :: ps, h =>
    let mine (q : Posted) : Bool := !q.by_.isChan && decide (q.ins = p.ins)
    if p.bad ∧ p.ins ≠ cur ∧ !h.undrained p.ins ∧ !(all.any fun q => mine q && !q.bad) ∧ h.posted.contains p then
      let h := { h with posted := h.posted.filter fun q => !mine q }
      settleRun cur all ps (match h.imp with
        | none => { h with
            imp := some { cause := .storeFault, sub := 0, tval := BitVec.ofNat 64 p.va }
            csr := { h.csr with tstat := setFld h.csr.tstat 7 1 1 } }
        | some _ => { h with csr := { h.csr with tstat := setFld h.csr.tstat 8 8 (Nat.min 255 (fld h.csr.tstat 8 8 + 1)) } })
    else settleRun cur all ps h

/-- Report what is due of a hart's posted stores. -/
def State.settlePosted (s : State) (slot : Nat) : State :=
  s.modHart slot fun h => settleRun h.csr.instret h.posted h.posted h

/-- Posted stores of the hart's instructions whose completions have not come. -/
def Hart.awaits (h : Hart) : Bool := h.posted.any fun p => decide (p.by_ = .hart) && !p.bad

/-- A load waits for an older store of the hart to the same bytes that has not been performed (R138). -/
def waitPosted (lo n : Nat) : Act Unit := fun s =>
  if s.hart.posted.any (fun p => decide (p.by_ = .hart) && !p.bad && decide (p.lo < lo + n) && decide (lo < p.lo + p.n)) then
    .error (.wait s)
  else .ok ((), s)

/-- The physical addresses of an aperture offset and of another chip's memory (R31, R162). -/
def aperturePa (off : Nat) : Nat := 0x6000000000 + off
def remotePa (chip off : Nat) : Nat := 2 ^ 52 + chip * 2 ^ 39 + off

/-! ### A core's own lines -/

/-- The 8-byte granules of an access. -/
def granules (pa n : Nat) : List Nat := if n = 0 then [] else upFrom (pa / 8) ((pa + n - 1) / 8 - pa / 8 + 1)

/-- `t` is `s` after a vector store or update of the current hart: what the granules of the access held before the first
and after the last of them is remembered (R207). -/
def State.noteOld (s t : State) (pa n : Nat) : State :=
  let put (m : FMap (Nat × Nat)) (g : Nat) : FMap (Nat × Nat) :=
    FMap.insert g ((FMap.getD (s.readHome (g * 8) 8, 0) g m).1, t.readHome (g * 8) 8) m
  { t with hart := { t.hart with olds := (granules pa n).foldl put t.hart.olds } }

/-- A number of 8 bytes, the contents of granule `g`, with the bytes of a store in it. -/
def overlay (g old pa : Nat) (bs : List Byte) : Nat :=
  ofBytesLE ((List.range 8).map fun i =>
    if pa ≤ g * 8 + i ∧ g * 8 + i < pa + bs.length then bs.getD (g * 8 + i - pa) 0 else BitVec.ofNat 8 (old / 256 ^ i))

/-- A scalar store of the current hart is always seen: it stands in what granules held before its vector stores, too
(R207). -/
def State.overOld (s : State) (pa : Nat) (bs : List Byte) : State :=
  let put (m : FMap (Nat × Nat)) (g : Nat) : FMap (Nat × Nat) :=
    match FMap.find g m with
    | some p => FMap.insert g (overlay g p.1 pa bs, overlay g p.2 pa bs) m
    | none => m
  { s with hart := { s.hart with olds := (granules pa bs.length).foldl put s.hart.olds } }

/-- The core's own copies of the lines of an access leave its scalar data cache, written back first (R138, R195, R205). -/
def State.dropOwn (pa n : Nat) (s : State) : State := (linesOf pa n).foldl (fun s l => s.evict s.crew.core l) s

/-! ### Early loads and late stores (R135, R138, R195 to R197) -/

/-- Whether two byte ranges meet. -/
def meets (pa n pb m : Nat) : Bool := decide (pa < pb + m) && decide (pb < pa + n)

/-- The value that the current instruction's load of these bytes has read early. -/
def State.earlyValue (s : State) (scalar : Bool) (pa n : Nat) : Option Nat :=
  (s.hart.early.find? fun e => decide (e.at_ = s.hart.csr.instret) && (e.scalar == scalar) && decide (e.pa = pa) && decide (e.n = n)).map (·.v)

/-- What younger loads have read of these bytes no longer serves: the hart now performs an access to them (R195). -/
def State.forget (s : State) (pa n : Nat) : State :=
  { s with hart := { s.hart with early := s.hart.early.filter fun e => !meets e.pa e.n pa n } }

/-- Perform a store of the current hart to local memory: a scalar one in its core's cache, a vector one at the home, the
core's copies written back and dropped (R138, R205). -/
def State.performStore (q : QStore) (s : State) : State :=
  if q.scalar then (s.storeBytes s.crew.core s.cur q.pa (bytesLE q.n q.v)).overOld q.pa (bytesLE q.n q.v)
  else
    let s := (s.dropOwn q.pa q.n).touch q.pa q.n
    s.noteOld (s.writeHome q.pa q.n q.v) q.pa q.n

/-- Perform, in order, the queued stores of the current hart that satisfy a test; they leave the store queues. -/
def State.performAll (f : QStore → Bool) (s : State) : State :=
  if s.hart.stq.isEmpty then s
  else (s.hart.stq.filter f).foldl (fun s q => s.performStore q) (s.onHart fun h => { h with stq := h.stq.filter fun q => !f q })

/-- Those of the slices of some of them (R197). -/
def State.performSlices (qs : List QStore) (s : State) : State :=
  s.performAll fun q => qs.any fun p => decide (sliceOf p.pa = sliceOf q.pa)

/-- A load waits for the hart's older stores to its bytes: they are performed now, with what stands before them (R138). -/
def State.performMeeting (pa n : Nat) (s : State) : State := s.performSlices (s.hart.stq.filter fun q => meets q.pa q.n pa n)

/-- A store or update follows the hart's older stores of its slices (R197). -/
def State.performBefore (pa n : Nat) (s : State) : State :=
  s.performAll fun q => decide (sliceOf q.pa = sliceOf pa) || decide (sliceOf q.pa = sliceOf (pa + n - 1))

/-- Change a hart with the state around it, as it does itself. -/
def State.asHart (slot : Nat) (f : State → State) (s : State) : State :=
  match s.focus slot with
  | none => s
  | some t => ((f t).focus s.cur).getD (f t)

/-! ### Reads and writes of one piece -/

/-- Read bytes at their home on this device, past the core's scalar data cache, whose copies leave it (R138, R195). -/
def readLocal (va : Word) (pa n : Nat) : Act Nat := do
  modify (·.performMeeting pa n)
  copyGate pa n
  modify fun s => ((s.dropOwn pa n).forget pa n).touch pa n
  let s ← get
  if s.poisonedAny pa n then raise .poison 0 va
  pure (s.readHome pa n)

/-- Read bytes of local memory through the core's scalar data cache (R205). -/
def readCached (va : Word) (pa n : Nat) : Act Nat := do
  modify (·.performMeeting pa n)
  copyGate pa n
  modify fun s => (linesOf pa n).foldl (fun s l => s.fillLine s.crew.core l) (s.forget pa n)
  let s ← get
  if (linesOf pa n).any (fun l => s.corePois s.crew.core (l * 64)) then raise .poison 0 va
  pure (ofBytesLE ((upFrom pa n).map (s.coreByte s.crew.core)))

/-- Read local memory by the scalar side or the vector side. -/
def readMem (scalar : Bool) (va : Word) (pa n : Nat) : Act Nat := if scalar then readCached va pa n else readLocal va pa n

/-- Store to local memory, at once or later in the order of its slice (R138, R197, R205). -/
def writeMemory (scalar : Bool) (pa n v : Nat) : Act Unit := do
  copyGate pa n
  modify (·.forget pa n)
  let s ← get
  let q : QStore := { scalar, pa, n, v }
  if 0 < s.hart.late ∧ sliceOf pa = sliceOf (pa + n - 1) ∧ !s.poisonedAny pa n then
    set (s.onHart fun h => { h with late := h.late - 1, stq := h.stq ++ [q] })
  else set ((s.performBefore pa n).performStore q)

/-- Store at the home on this device. -/
def writeLocal (pa n v : Nat) : Act Unit := writeMemory false pa n v

/-- A number of `n` bytes at an address with those of granule `g` replaced. -/
def putGranule (pa n v g old : Nat) : Nat :=
  ofBytesLE ((List.range n).map fun i =>
    BitVec.ofNat 8 (if (pa + i) / 8 = g then old / 256 ^ ((pa + i) % 8) else v / 256 ^ i))

/-- What an engine of the core will read of granules that the hart's vector stores have changed since its last release:
for each, its old contents or its new, which the manual leaves open; a granule that another agent has changed since
shows what it holds (R207; log 4). -/
def State.oldView (s : State) : FMap Nat × State :=
  s.hart.olds.foldl (fun (a : FMap Nat × State) p =>
    let (b, s) := a.2.takeFree
    (if bit b 0 ∧ s.readHome (p.1 * 8) 8 = p.2.2 then FMap.insert p.1 p.2.1 a.1 else a.1, s)) ([], s)

/-- `n` bytes at an address, of value `v` at their home, as an engine sees them whose view holds old contents of some
granules. -/
def viewed (view : FMap Nat) (pa n v : Nat) : Nat :=
  (granules pa n).foldl (fun v g => match FMap.find g view with | none => v | some old => putGranule pa n v g old) v

/-- Write back the hart's dirty lines of its core that virtual ranges of sources touch, each a first byte and a length
(R207). -/
def State.cleanSources (s : State) (rs : List (Nat × Nat)) : State :=
  let mine := s.dlines s.crew.core fun d => d.by_.contains s.cur
  let inSrc (line : Nat) : Bool :=
    rs.any fun r => (linesOf r.1 r.2).any fun l =>
      match s.reach .read (l * 64 % 2 ^ 64) 1 with
      | .ok pa => decide ((s.homeOf (s.place pa)).map (· / 64) = some line)
      | .error _ => false
  (mine.filter inSrc).foldl (fun s l => s.writeBack s.crew.core l) s

/-- The answer to a read that has left the device, or send it (R33, R71). -/
def readAway (va : Word) (key : Nat) (o : Nat → Output) : Act Nat := do
  match ← answerOf key with
  | some (.value v) => pure v
  | some .refused => raise .loadFault 0 va
  | some .poisoned => raise .poison 0 va
  | none => ask key o

/-- The answer to a write whose completion the instruction waits for, or send it (R252). -/
def writeAway (va : Word) (key : Nat) (o : Nat → Output) : Act Unit := do
  match ← answerOf key with
  | some .refused => raise .storeFault 0 va
  | some _ => pure ()
  | none => ask key o

/-- Read one piece through the core, scalar side (R205) or vector side (R138), or from outside the core; what the load
has read early stands (R135, R196). `key` names the access in its instruction. -/
def readPiece (scalar : Bool) (va : Word) (key n : Nat) : Place → Act Nat
  | .mem pa => do
    match (← get).earlyValue scalar pa n with
    | some v => pure v
    | none => readMem scalar va pa n
  | .aperture off => do
    let s ← get
    waitPosted (aperturePa off) n
    readAway va key (.hostRead s.crew.tenant (s.hostBus off) n)
  | .remote chip off => do
    let s ← get
    if let some c := s.srcRefuses chip then refuseHere true c chip va
    else if chip = s.chipId then
      match s.tgtRefuses s.crew.tenant off with
      | some c => refuseHere true c chip va
      | none => readLocal va off n
    else do
      waitPosted (remotePa chip off) n
      readAway va key fun tag => .request chip
        { kind := .read, src := s.chipId, tenant := s.crew.tenant, tag, off, width := n, dat := 0, cmp := 0, core := s.crew.core }
  | _ => raise .loadFault 0 va

/-- Write one piece: through the scalar data cache, or at the home with the core's copy dropped (R138, R205), or posted. -/
def writePiece (scalar : Bool) (va : Word) (n v : Nat) : Place → Act Unit
  | .mem pa => writeMemory scalar pa n v
  | .aperture off => do
    modify (·.performBefore (aperturePa off) n)
    let s ← get
    post va.toNat (aperturePa off) n fun tag => .hostWrite s.crew.tenant (s.hostBus off) (bytesLE n v) (some tag)
  | .remote chip off => do
    let s ← get
    if let some c := s.srcRefuses chip then refusePosted c chip va
    else if chip = s.chipId then
      match s.tgtRefuses s.crew.tenant off with
      | some c => refusePosted c chip va
      | none => writeLocal off n v
    else
      post va.toNat (remotePa chip off) n fun tag => .request chip
        { kind := .write, src := s.chipId, tenant := s.crew.tenant, tag, off, width := n, dat := v % 2 ^ (8 * n), cmp := 0
          core := s.crew.core }
  | .mcast group off _ => do
    let s ← get
    if !s.faben then refusePosted 6 group va
    else
      let m : McastMsg := { group, off, data := bytesLE n v, src := s.chipId, tenant := s.crew.tenant, hops := 0, core := s.crew.core
                            slot := s.cur }
      set (s.sendMcast .hart va.toNat m)
  | _ => raise .storeFault 0 va

/-- Wait for the fills of every local piece before any of it is written (R159). -/
def gateAll : List (Nat × Nat × Place) → Act Unit
  | [] => pure ()
  | (_, n, .mem pa) :: ps => do copyGate pa n; gateAll ps
  | (_, n, .remote chip off) :: ps => do
    let s ← get
    if chip = s.chipId then copyGate off n
    gateAll ps
  | _ :: ps => gateAll ps

/-- Read the pieces of one access in order; the value is little-endian over them. -/
def readPieces (scalar : Bool) (va : Word) (key : Nat) : List (Nat × Nat × Place) → Act Nat
  | [] => pure 0
  | (off, n, p) :: ps => do
    let v ← readPiece scalar va (key + (if off = 0 then 0 else 1)) n p
    let r ← readPieces scalar va key ps
    pure (v + r * 2 ^ (8 * n))

/-- Write the pieces of one access in order. -/
def writePieces (scalar : Bool) (va : Word) (v : Nat) : List (Nat × Nat × Place) → Act Unit
  | [] => pure ()
  | (off, n, p) :: ps => do
    writePiece scalar va n (v / 2 ^ (8 * off)) p
    writePieces scalar va v ps

/-! ### Release and acquire (R198 to R200) -/

/-- Wait for the fills of the homes of cached lines before they are written back (R159). -/
def gateLines : List Nat → Act Unit
  | [] => pure ()
  | l :: ls => do copyGate (l * 64) 64; gateLines ls

/-- Release at a scope, 0 CORE to 3 SYS: the stores that wait in the hart's store queues are performed, at DIE or wider
its dirty lines are written back, at SYS every completion of its own stores has come (R197 to R199, R34); an engine that
reads memory now sees its vector stores (R207). -/
def release (scope : Nat) : Act Unit := do
  modify (·.performAll fun _ => true)
  let s ← get
  if scope ≠ 0 then
    gateLines (s.dlines s.crew.core fun d => d.by_.contains s.cur)
    modify fun s => s.writeBackOf s.crew.core s.cur
  waitUnless (decide (scope ≠ 3) || !(← get).hart.awaits)
  modify fun s => { s with hart := { s.hart with olds := [] } }

/-- Acquire at a scope: no later load has been performed (R199), and at DIE or wider the core's lines that hold bytes it
did not write leave the cache. -/
def acquire (scope : Nat) : Act Unit := do
  modify fun s => { s with hart := { s.hart with early := [] } }
  if scope ≠ 0 then
    let s ← get
    gateLines (s.dlines s.crew.core fun d => !d.dirty.all id && d.dirty.any id)
    modify fun s => s.refresh s.crew.core

/-! ### Instruction fetch (R212, R223, R282) -/

/-- What a fetch of one parcel gives: the parcel and the caches after it; the SUB of a FETCH_FAULT (4 stands for RETIRED, 5
for a poisoned line, which is reported as POISON); or what a line that a copy has not filled makes of it (R159, R160). -/
inductive Fetched where
  | parcel (p : Parcel) (s : State)
  | fault (sub : Nat)
  | stop (e : Exit)

/-- Keep a line in a core's instruction cache; where its 64 KiB are full, another leaves (R133, log 4). -/
def State.keepCode (s : State) (core line : Nat) : State :=
  let s := s.lockFill line
  let ks := (s.icache.filter fun p => decide (p.1 % 256 = core)).map (·.1)
  let put (s : State) (m : FMap (List Byte)) : State :=
    { s with icache := FMap.insert (dkey core line) (s.bytesAt (line * 64) 64) m }
  if ks.length < cacheLines then put s s.icache
  else
    let (v, s) := s.takeFree
    put s (FMap.erase (ks.getD (v.toNat % ks.length) 0) s.icache)

/-- Fetch the parcel at an address for the current hart: what it holds prefetched, the instruction cache, or memory. -/
def State.fetch (s : State) (va : Nat) : Fetched :=
  match FMap.find va s.hart.ibuf with
  | some p => .parcel p { s with hart := { s.hart with ibuf := FMap.erase va s.hart.ibuf } }
  | none =>
    match s.reach .fetch va 4 with
    | .error (.kind 0) => .stop (.wait s)
    | .error (.kind k) => .fault k
    | .error _ => .fault 0
    | .ok pa =>
      match s.place pa with
      | .mem pa =>
        match FMap.find (dkey s.crew.core (pa / 64)) s.icache with
        | some line => .parcel (BitVec.ofNat 32 (ofBytesLE ((line.drop (pa % 64)).take 4))) s
        | none =>
          match copyGate pa 4 s with
          | .error e => .stop e
          | .ok _ =>
            if s.poisoned pa then .fault 5
            else .parcel (BitVec.ofNat 32 (s.readHome pa 4)) (s.keepCode s.crew.core (pa / 64))
      | _ => .fault 0

end Sys2Proof.Machine
end

