-- ==== Sys2Proof/Machine/Gov.lean ====
section
/-!
DEFINITION. What the governor grants and chooses: cap limits, effective points, and the operating-point table
(05_power_thermal R106 to R119).
-/
namespace Sys2Proof.Machine

open State

/-- The VL grant limit at a cap level (R117, R118): MVL × 1, 3/4, 1/2 or 1/4, rounded down. -/
def capVl (level mvl : Nat) : Nat :=
  if level = 0 then mvl else if level = 1 then mvl * 3 / 4 else if level = 2 then mvl / 2 else mvl / 4

/-- The MSHAPE N grant limit at a cap level: CapN (R117, R156). -/
def capN (level : Nat) : Nat := if level < 4 then 64 else if level = 4 then 48 else if level = 5 then 32 else 16

/-- CapCeiling (R117). -/
def capCeiling (level : Nat) : Nat := if level < 10 then 15 else 24 - level

/-- A clock in MHz from an operating-point code (R106). -/
def codeMHz (c : Nat) : Nat := 400 + 100 * c

/-- The index of a pair of units in CHAINPERM (R119), a < b. -/
def chainBit (a b : Nat) : Nat := (a - 1) * (18 - a) / 2 + (b - a - 1)

namespace State

/-- ClassCeiling (R107): 14 under a W65 record for a VX940-M, and for any part without the low-leakage bin, which R14 treats
as one. -/
def classCeiling (s : State) : Nat := if s.pkg.w65 && (Config.isModuleM || decide (Config.leakageBin.toNat ≠ 1)) then 14 else 15

/-- Whether a die forces half the lane clock and no chaining: critical or at its safe point (R107, R119). -/
def dieForced (s : State) (die : Nat) : Bool := decide (s.thermState die = 3) || s.safePoint die

/-- The ceiling of R107 for a die. -/
def ceiling (s : State) (die : Nat) : Nat :=
  Nat.min (Nat.min s.classCeiling (if die = 0 then s.gov.therm[0] else s.gov.therm[1]))
    (Nat.min (capCeiling s.capLevel) (if die = 0 then s.gov.safe[0] else s.gov.safe[1]))

/-- Crews resident on a core. -/
def residents (s : State) (core : Nat) : List Crew :=
  s.allCrews.filter fun c => decide (c.core = core) && (decide (c.place = .resident) || decide (c.place = .leaving))

/-- A core's effective point (R107): SOPP, MOPP and HALF. A core with no resident crew requests code 15 of domain M as
it does of domain S, and HALF 0: DESIGN CHOICE (log 66). -/
def effPoint (s : State) (core : Nat) : Nat × Nat × Bool :=
  let cs := s.residents core
  let die := dieOf core
  let reqS := if cs.isEmpty then 15 else (cs.map (·.sopp)).foldl Nat.max 0
  let reqM := if cs.isEmpty then 15 else (cs.map (·.mopp)).foldl Nat.max 0
  let half := cs.all (·.half) && !cs.isEmpty
  (Nat.min reqS (s.ceiling die), Nat.min reqM (s.ceiling die), half || decide (8 ≤ s.capLevel) || s.dieForced die)

/-- CHAINPERM as a crew reads it (R119). -/
def chainPerm (s : State) (c : Crew) : Nat :=
  if 7 ≤ s.capLevel || s.dieForced (dieOf c.core) then 0 else c.chainperm

/-! ### The operating-point table (R115, R116) -/

/-- The two words of entry `e`. -/
def opLo (s : State) (e : Nat) : Word := s.reg (rOPT e)
def opHi (s : State) (e : Nat) : Word := s.reg (rOPT e + 8)

/-- Valid entries, in ascending number. -/
def opValid (s : State) : List Nat :=
  s.regs.filterMap fun p => if inArr p.1 (rOPT 0 + 8) 16 1024 ∧ bit p.2 63 then some ((p.1 - rOPT 0) / 16) else none

/-- The lowest entry number that is not in a rising list. -/
def firstFree : Nat → List Nat → Nat
  | n, [] => n
  | n, e :: es => if e = n then firstFree (n + 1) es else n

/-- A crew's energy since the last calibration enters ENERGY as an estimate, an open amount that the next calibration
takes into account (R109; log 16). -/
def tally (s : State) (uid : Nat) : State :=
  let (v, s) := s.takeFree
  s.modCrew uid fun c =>
    if c.place = .resident ∨ c.place = .leaving then
      { c with energy := c.energy + BitVec.ofNat 64 (v.toNat % 65536), est := c.est + v.toNat % 65536 }
    else c

/-- Find the entry of (KERNELID, PHASE), or take an invalid one, or the least recently applied unpinned one (R115); one
that no crew has applied comes before all others. -/
def opFind (s : State) (kernel phase : Nat) : Option Nat × State :=
  let vs := s.opValid
  match vs.find? (fun e => decide (fld (s.opLo e) 0 32 = kernel) && decide (fld (s.opLo e) 32 8 = phase)) with
  | some e => (some e, s)
  | none =>
    let fresh (e : Nat) : State :=
      ((s.setReg (rOPT e) (setFld (setFld (regReset (rOPT e)) 0 32 kernel) 32 8 phase)).setReg (rOPT e + 8)
        (setFld (regReset (rOPT e + 8)) 63 1 1))
    let n := firstFree 0 vs
    if n < 1024 then (some n, fresh n)
    else
      let free := vs.filter fun e => !bit (s.opHi e) 62
      match (free.find? fun e => !s.gov.opOrder.contains e).or (s.gov.opOrder.find? free.contains) with
      | some e => (some e, fresh e)
      | none => (none, s)

/-- The trial points in TRIAL order from a base point (R116), none where a neighbour is outside 0 to 15 or above the
ceiling. -/
def neighbour (ceil trial : Nat) (p : Nat × Nat × Bool) : Option (Nat × Nat × Bool) :=
  match trial with
  | 0 => if p.1 + 1 ≤ 15 ∧ p.1 + 1 ≤ ceil then some (p.1 + 1, p.2.1, p.2.2) else none
  | 1 => if 1 ≤ p.1 ∧ p.1 - 1 ≤ ceil then some (p.1 - 1, p.2.1, p.2.2) else none
  | 2 => if p.2.1 + 1 ≤ 15 ∧ p.2.1 + 1 ≤ ceil then some (p.1, p.2.1 + 1, p.2.2) else none
  | 3 => if 1 ≤ p.2.1 ∧ p.2.1 - 1 ≤ ceil then some (p.1, p.2.1 - 1, p.2.2) else none
  | _ => some (p.1, p.2.1, !p.2.2)

/-- The first neighbour from TRIAL on that is not skipped, with its number. -/
def nextTrial (ceil : Nat) (p : Nat × Nat × Bool) : Nat → Nat → Nat × Nat × Nat × Bool
  | 0, t => (t % 5, p.1, p.2.1, p.2.2)
  | fuel + 1, t =>
    match neighbour ceil (t % 5) p with
    | some q => (t % 5, q.1, q.2.1, q.2.2)
    | none => nextTrial ceil p fuel (t + 1)

/-- Look up the entry of a crew's kernel and phase and apply its point (R115, R116). Whether the run will last 1 ms is the
device's prediction: a free value (log 4). -/
def opLookup (s : State) (c : Crew) (kernel : Nat) : State :=
  match s.opFind kernel c.phase with
  | (none, s) =>
    s.putCrew { c with sopp := 15, mopp := 15, half := false, chainperm := 2 ^ 36 - 1, opEntry := none, trial := 5,
                       runOk := false, runTime := 0, runEnergy := c.energy.toNat, work := 0 }
  | (some e, s) =>
    let lo := s.opLo e
    let hi := s.opHi e
    let base := (fld lo 40 4, fld lo 44 4, bit lo 48)
    let (pick, s) := s.takeFree
    let alone := ((s.residents c.core).filter fun d => decide (d.uid ≠ c.uid)).isEmpty
    let try_ := decide (fld hi 23 20 ≠ 0) && alone && bit pick 0 && !bit (s.reg rPWRCFG) 34 && !bit hi 62
    let t := nextTrial (s.ceiling (dieOf c.core)) base 5 (fld hi 59 3)
    let s := if try_ then s.setReg (rOPT e + 8) (setFld hi 59 3 t.1) else s
    let s := { s with gov := { s.gov with opOrder := (s.gov.opOrder.filter fun k => decide (k ≠ e)) ++ [e] } }
    let p := if try_ then t.2 else base
    s.putCrew { c with sopp := p.1, mopp := p.2.1, half := p.2.2, chainperm := fld lo 49 15 + fld hi 0 21 * 2 ^ 15,
                       opEntry := some e, trial := if try_ then t.1 else 5, runOk := alone, runTime := 0,
                       runEnergy := c.energy.toNat, work := 0 }

/-- End the crew's run of its entry: update the table when the run was measured (R116), whatever key the entry now has
(log 76). -/
def opEndRun (s : State) (c : Crew) : State :=
  match c.opEntry with
  | none => s
  | some e =>
    let hi := s.opHi e
    let energy := c.energy.toNat - c.runEnergy
    if !c.runOk || decide (c.runTime < 1000) || decide (c.work = 0) || bit (s.reg rPWRCFG) 34 || bit hi 62 then s
    else
      let epw := Nat.min (2 ^ 20 - 1) (energy * 1000000 * 16 / c.work)
      let meanp := Nat.min 1023 (2 * energy / c.runTime)
      let old := fld hi 23 20
      let record (hi : Word) : Word := setFld (setFld hi 23 20 epw) 43 10 meanp
      let runs (hi : Word) : Word := setFld hi 53 6 (Nat.min 63 (fld hi 53 6 + 1))
      if old = 0 then s.setReg (rOPT e + 8) (runs (record hi))
      else if c.trial < 5 then
        if epw * 100 ≤ old * 99 then
          let lo := setFld (setFld (setFld (s.opLo e) 40 4 c.sopp) 44 4 c.mopp) 48 1 (b2n c.half)
          (s.setReg (rOPT e) lo).setReg (rOPT e + 8) (runs (setFld (record hi) 59 3 0))
        else s.setReg (rOPT e + 8) (runs (setFld hi 59 3 ((fld hi 59 3 + 1) % 5)))
      else s.setReg (rOPT e + 8) (runs hi)

/-- Runs in progress are not measured across a change of cap level, thermal state or ceiling (R116). -/
def spoilRuns (s : State) (f : Crew → Bool) : State :=
  { s with crew := if f s.crew then { s.crew with runOk := false } else s.crew
           crews := s.crews.map fun p => if f p.2 then (p.1, { p.2 with runOk := false }) else p }

/-- A change of phase (R328, R115, R116): end the run, set PHASEMK, look up the new entry. -/
def changePhase (s : State) (phase kernel : Nat) : State :=
  let s := s.tally s.crew.uid
  let s := s.opEndRun s.crew
  let s := { s with crew := { s.crew with phase } }
  s.opLookup s.crew kernel

end State

/-- Count units of work of the current crew (R115). -/
def State.addWork (s : State) (n : Nat) : State := { s with crew := { s.crew with work := s.crew.work + n } }

end Sys2Proof.Machine
end

