-- ==== Sys2Proof/Machine/LinkQ.lean ====
section
/-!
DEFINITION. Link-queue endpoints: binding, messages, credits, and leaving and returning crews (02_torus_links R43 to R49).
A message for another device leaves as an output; one for an endpoint of this device travels in `State.wire`.
-/
namespace Sys2Proof.Machine

open State

/-- An endpoint that no write has enabled. -/
def LqEnd.reset : LqEnd :=
  { st := .unbound, en := false, dir := false, cfgErr := false, pchip := 0, key := 0, pkey := 0, held := [], credit := 0,
    away := false, leaving := false }

/-- LQCFG.STATE. -/
def LqState.code : LqState → Nat
  | .unbound => 0 | .pending => 1 | .bound => 2 | .down => 3

/-- LQCFG as it reads (R44). -/
def LqEnd.read (e : LqEnd) : Word :=
  let occ := if e.dir then (if e.st = .bound then 4 - e.credit else 0) else e.held.length
  BitVec.ofNat 64 (e.st.code * 2 ^ 62 + occ * 2 ^ 59 + b2n e.away * 2 ^ 58 + b2n e.cfgErr * 2 ^ 57 + b2n e.dir * 2 ^ 56
    + b2n e.en * 2 ^ 55 + e.pkey * 2 ^ 36 + e.key * 2 ^ 20 + e.pchip)

/-- FREE of a BIND or BINDACK (R46). -/
def LqEnd.free (e : LqEnd) : Nat := if e.dir then 0 else 4 - e.held.length

/-- Header bits [63:0] of a tile message (R47). -/
def tileHeader (m : TileMsg) : Word := BitVec.ofNat 64 (m.rows * 2 ^ 48 + m.cols * 2 ^ 32 + m.fmt * 2 ^ 28 + m.bytes)

/-- Bytes of an element of a typed message format (R47). -/
def fmtBytes (fmt : Nat) : Nat :=
  if fmt ≤ 2 then 1 else if fmt ≤ 4 then 2 else if fmt ≤ 6 then 4 else if fmt = 7 then 8 else 1

/-- The sizes and fields of a tile message are consistent (R47). The equality of BYTES with ROWS × COLS is demanded of
untyped messages too, with elements of one byte: DESIGN CHOICE (log 64). -/
def tileWf (m : TileMsg) : Bool :=
  decide (m.fmt ≤ 8) && m.zeroOk && decide (m.bytes ≤ 16384) && decide (m.data.length = m.bytes)
  && decide (m.bytes = m.rows * m.cols * fmtBytes m.fmt)

namespace State

/-- An endpoint of a crew. -/
def lqEnd (s : State) (uid q : Nat) : LqEnd :=
  match s.getCrew uid with
  | some c => (FMap.find q c.lq).getD LqEnd.reset
  | none => LqEnd.reset

def putEnd (s : State) (uid q : Nat) (e : LqEnd) : State :=
  s.modCrew uid fun c => { c with lq := FMap.insert q e c.lq }

/-- The endpoint that holds (direction, key) on this device, by the link directory (R43). -/
def lqHolder (s : State) (dir : Bool) (key : Nat) : Option (Nat × Nat) :=
  (s.dir.find? fun d => (d.dir == dir) && decide (d.key = key)).map fun d => (d.crew, d.q)

/-- The endpoint a control message is for, when its holder names the sender as its peer (R46). -/
def lqMatch (s : State) (m : LqMsg) : Option (Nat × Nat) :=
  match s.lqHolder (!m.dir) m.pkey with
  | some (uid, q) =>
    let e := s.lqEnd uid q
    if e.pchip = m.chip ∧ e.pkey = m.key then some (uid, q) else none
  | none => none

/-- Whether this device carries a message to a peer: any peer on this device, else one that its router does not refuse
(R33, R46, R49). -/
def lqRoute (s : State) (chip : Nat) : Bool := if chip = s.chipId then true else (s.srcRefuses chip).isNone

/-- The input that a control message is when it arrives. -/
def lqInput (k : LqKind) (m : LqMsg) : Input :=
  match k with
  | .bind => .bind m | .bindack => .bindack m | .nack => .nack m | .unbind => .unbind m
  | .away => .away m | .awayack => .awayack m | .back => .back m | .credit => .creditReturn m

/-- Send a control message to a chip; one that the router refuses is dropped and logged (R33). -/
def lqSend (s : State) (chip : Nat) (k : LqKind) (m : LqMsg) : State :=
  if chip = s.chipId then { s with wire := s.wire ++ [lqInput k m] }
  else
    match s.srcRefuses chip with
    | some c => s.logDrop c m.tenant s.chipId chip 0
    | none => s.emitNet (.lq chip k { m with viaPort := true })

/-- The SRCCORE of a message of an endpoint: its crew's core, or 0xFF where the link directory speaks for a crew that is away
(R24). -/
def lqCore (s : State) (uid : Nat) : Nat :=
  match s.getCrew uid with
  | some c => if c.place = .resident ∨ c.place = .leaving then c.core else 0xFF
  | none => 0xFF

/-- A control message from an endpoint to its peer. -/
def lqSay (s : State) (uid q : Nat) (k : LqKind) : State :=
  let e := s.lqEnd uid q
  let tenant := match s.getCrew uid with | some c => c.tenant | none => 0
  let m : LqMsg := { chip := s.chipId, dir := e.dir, key := e.key, pkey := e.pkey, free := e.free, tenant, viaPort := false,
                     tag := s.nextTag, core := s.lqCore uid }
  ({ s with nextTag := s.nextTag + 1 } : State).lqSend e.pchip k m

/-- A reply to a control message: of the directory for a binding it does not hold, or of an endpoint on a core. -/
def lqReply (s : State) (m : LqMsg) (k : LqKind) (core : Nat := 0xFF) : State :=
  ({ s with nextTag := s.nextTag + 1 } : State).lqSend m.chip k
    { chip := s.chipId, dir := !m.dir, key := m.pkey, pkey := m.key, free := 0, tenant := m.tenant, viaPort := false, tag := s.nextTag, core }

/-- Return one credit to the sender of a tile message. -/
def lqCredit (s : State) (m : TileMsg) : State :=
  ({ s with nextTag := s.nextTag + 1 } : State).lqSend m.chip .credit
    { chip := s.chipId, dir := false, key := m.key, pkey := m.skey, free := 0, tenant := m.tenant, viaPort := false, tag := s.nextTag }

/-- Discard a message for a binding that no endpoint holds, logged NOENDPOINT (R46, R51). -/
def lqLost (s : State) (m : LqMsg) : State := s.logDrop 8 m.tenant m.chip s.chipId (if m.viaPort then m.hops else 0)

/-- Answer a chip. -/
def respond (s : State) (chip : Nat) (r : RemoteRsp) : State := s.emitNet (.response chip { r with src := s.chipId })

/-- The checks on a control message that came through a port (R33): a refused one is dropped, logged and answered with an
error response. -/
def lqAdmit (s : State) (m : LqMsg) (f : State → State) : State :=
  if m.viaPort && decide (64 < m.hops) then s.logDrop 1 m.tenant m.chip s.chipId m.hops
  else if m.viaPort && (!s.faben || !s.tenmask m.tenant) then
    (s.logDrop (if s.faben then 3 else 6) m.tenant m.chip s.chipId m.hops).respond m.chip { tag := m.tag, ok := false, tenant := m.tenant }
  else f s

/-- An endpoint becomes BOUND on a BIND or BINDACK: a send endpoint takes the credits that FREE states (R46). AWAY stays
as it was until BACK, an own write of LQCFG or an unbinding: DESIGN CHOICE (log 64). -/
def lqBound (s : State) (uid q : Nat) (m : LqMsg) : State :=
  let e := s.lqEnd uid q
  s.putEnd uid q { e with st := .bound, credit := if e.dir then m.free else 0, kept := none }

/-- BIND arrives (R46). An endpoint in DOWN does not act on its peer's BIND and no reply is sent: DESIGN CHOICE (log 64). -/
def onBind (s : State) (m : LqMsg) : State :=
  match s.lqMatch m with
  | none => s.lqReply m .nack
  | some (uid, q) =>
    match (s.lqEnd uid q).st with
    | .pending | .bound => (s.lqBound uid q m).lqSay uid q .bindack
    | _ => s

/-- BINDACK arrives (R46). -/
def onBindack (s : State) (m : LqMsg) : State :=
  match s.lqMatch m with
  | none => s.lqLost m
  | some (uid, q) => if (s.lqEnd uid q).st = .pending then s.lqBound uid q m else s

/-- NACK arrives: the endpoint stays PENDING and BIND is sent again later (R46). -/
def onNack (s : State) (m : LqMsg) : State :=
  match s.lqMatch m with
  | none => s.lqLost m
  | some _ => s

/-- UNBIND arrives (R46). -/
def onUnbind (s : State) (m : LqMsg) : State :=
  match s.lqMatch m with
  | none => s.lqLost m
  | some (uid, q) =>
    let e := s.lqEnd uid q
    if e.st = .bound then (s.putEnd uid q { e with st := .pending, credit := 0, kept := none }).lqSay uid q .bind else s

/-- A credit returns (R46, R49): also to a sender that is away. -/
def onCredit (s : State) (m : LqMsg) : State :=
  match s.lqMatch m with
  | none => s.lqLost m
  | some (uid, q) =>
    let e := s.lqEnd uid q
    let tags := match s.lqTags.find? (fun t => decide (t.crew = uid) && decide (t.q = q) && !t.away) with
      | some t => s.lqTags.filter fun u => decide (u.tag ≠ t.tag)
      | none => s.lqTags
    if e.dir ∧ e.st = .bound then { s.putEnd uid q { e with credit := Nat.min 4 (e.credit + 1) } with lqTags := tags } else s

/-- AWAY arrives: the endpoint, or the directory, answers AWAYACK (R46, R49). -/
def onAway (s : State) (m : LqMsg) : State :=
  match s.lqMatch m with
  | none => (s.lqLost m).lqReply m .awayack
  | some (uid, q) => (s.putEnd uid q { s.lqEnd uid q with away := true }).lqReply m .awayack (s.lqCore uid)

/-- AWAYACK arrives (R49). -/
def onAwayack (s : State) (m : LqMsg) : State :=
  match s.lqMatch m with
  | none => s
  | some (uid, q) =>
    { s.putEnd uid q { s.lqEnd uid q with leaving := false } with
      lqTags := s.lqTags.filter fun t => !(decide (t.crew = uid) && decide (t.q = q) && t.away) }

/-- BACK arrives (R49). -/
def onBack (s : State) (m : LqMsg) : State :=
  match s.lqMatch m with
  | none => s.lqLost m
  | some (uid, q) => s.putEnd uid q { s.lqEnd uid q with away := false }

/-- A tile message arrives (R33, R46 to R48). One from the named peer finds its slot also where the endpoint is PENDING
or DOWN: DESIGN CHOICE (log 64). -/
def onTile (s : State) (m : TileMsg) : State :=
  let hops := if m.viaPort then m.hops else 0
  if 64 < hops then s.logDrop 1 m.tenant m.chip s.chipId hops
  else if m.viaPort && (!s.faben || !s.tenmask m.tenant) then
    (s.logDrop (if s.faben then 3 else 6) m.tenant m.chip s.chipId hops).respond m.chip { tag := m.tag, ok := false, tenant := m.tenant }
  else
    match s.lqHolder false m.key with
    | none => (s.logDrop 8 m.tenant m.chip s.chipId hops).lqCredit m
    | some (uid, q) =>
      let e := s.lqEnd uid q
      if e.pchip ≠ m.chip ∨ e.pkey ≠ m.skey then (s.logDrop 8 m.tenant m.chip s.chipId hops).lqCredit m
      else if !tileWf m then (s.logDrop 7 m.tenant m.chip s.chipId hops).lqCredit m
      else if e.held.length < 4 then s.putEnd uid q { e with held := e.held ++ [m] }
      else s.logDrop 9 m.tenant m.chip s.chipId hops

/-- Leave UNBOUND behind: from BOUND or PENDING, UNBIND to the peer, and entries and credits are discarded; from DOWN,
entries stay (R46). -/
def lqUnbind (s : State) (uid q : Nat) : State :=
  let e := s.lqEnd uid q
  let live := decide (e.st = .bound) || decide (e.st = .pending)
  let s := if live then s.lqSay uid q .unbind else s
  let s := { s with dir := s.dir.filter fun d => !(decide (d.crew = uid) && decide (d.q = q)) }
  s.putEnd uid q { e with st := .unbound, en := false, held := if live then [] else e.held, credit := 0, kept := none, away := false, leaving := false }

/-- A write of LQCFGn (R44 to R46). -/
def lqWrite (s : State) (uid q : Nat) (v : Word) : State :=
  let s := if (s.lqEnd uid q).st = .unbound then s else s.lqUnbind uid q
  let e := { s.lqEnd uid q with
    dir := bit v 56, pkey := fld v 36 16, key := fld v 20 16, pchip := fld v 0 12, cfgErr := false, en := false }
  if bit v 55 then
    if (s.lqHolder e.dir e.key).isSome || decide (8192 ≤ s.dir.length) then s.putEnd uid q { e with cfgErr := true }
    else
      let s := s.putEnd uid q { e with en := true, st := .pending }
      let s : State := { s with dir := s.dir ++ [{ dir := e.dir, key := e.key, crew := uid, q }] }
      s.lqSay uid q .bind
  else s.putEnd uid q e

/-- Endpoints whose traffic a predicate on the peer's chip stops enter DOWN (R46). -/
def lqDownIf (s : State) (f : Nat → Bool) : State :=
  s.dir.foldl (fun s d =>
    let e := s.lqEnd d.crew d.q
    if (e.st = .bound ∨ e.st = .pending) ∧ e.pchip ≠ s.chipId ∧ f e.pchip then
      s.putEnd d.crew d.q { e with st := .down, credit := 0, kept := none, leaving := false }
    else s) s

/-- A crew starts to leave: AWAY from every endpoint that is BOUND or PENDING; where it cannot be carried, DOWN (R49
step 1). -/
def lqLeave (s : State) (uid : Nat) : State :=
  (List.range 16).foldl (fun s q =>
    let e := s.lqEnd uid q
    if e.st = .bound ∨ e.st = .pending then
      let tag := s.nextTag
      let t := s.lqSay uid q .away
      if s.lqRoute e.pchip then
        { t.putEnd uid q { e with leaving := true } with lqTags := t.lqTags ++ [{ tag, crew := uid, q, hart := 0, away := true }] }
      else t.putEnd uid q { e with st := .down, credit := 0, kept := none, leaving := false }
    else s) s

/-- Every AWAYACK of a leaving crew has come (R49 step 3). -/
def lqGone (s : State) (uid : Nat) : Bool := (List.range 16).all fun q => !(s.lqEnd uid q).leaving

/-- A crew is back: BACK to the peer of every endpoint that left (R49). -/
def lqReturn (s : State) (uid : Nat) : State :=
  (List.range 16).foldl (fun s q =>
    let e := s.lqEnd uid q
    if e.st = .bound ∨ e.st = .pending then s.lqSay uid q .back else s) s

end State

/-! ### A hart's use of an endpoint -/

/-- QUEUE_UNBOUND: a link queue at or above LQS, unbound, or used against its direction (R46, R293, R390). -/
def lqKnown (q : Reg) (send : Bool) : Act Unit := fun s =>
  let n := q.toNat
  let e := s.lqEnd s.crew.uid n
  if s.crew.lqs ≤ n ∨ e.st = .unbound ∨ e.dir ≠ send then .error (.trap s .queueUnbound 0 (BitVec.ofNat 64 (16 + n)))
  else .ok ((), s)

/-- LINK_DOWN: an endpoint in DOWN (R46). -/
def lqUp (q : Reg) : Act Unit := fun s =>
  if (s.lqEnd s.crew.uid q.toNat).st = .down then .error (.trap s .linkDown 0 (BitVec.ofNat 64 q.toNat)) else .ok ((), s)

/-- The operand-state causes of the link queues an instruction names, with their directions, in the order of R224. -/
def lqUses (qs : List (Reg × Bool)) : Act Unit := do
  qs.forM fun q => lqKnown q.1 q.2
  qs.forM fun q => lqUp q.1

/-- Whether an outer product in flight holds a queue's oldest entry, or one of another hart that has begun and stopped,
or waits to forward (R153). -/
def State.lqInUse (s : State) (q : Nat) : Bool :=
  (s.crewHarts s.crew).any fun p =>
    (p.2.pend.any fun o => o.holds.contains q)
    || (decide (p.1 ≠ s.cur) && decide (p.2.csr.mstart ≠ 0) && p.2.holdq.contains q)

/-- Wait for an entry in a receive queue that no operation holds, and answer the oldest (R46, R153). -/
def lqPeek (q : Reg) : Act TileMsg := fun s =>
  match (s.lqEnd s.crew.uid q.toNat).held with
  | m :: _ => if s.lqInUse q.toNat then .error (.wait s) else .ok (m, s)
  | [] => .error (.wait s)

/-- Consume the oldest entry of a crew's queue; while BOUND its credit returns to the peer (R46, R48). -/
def State.lqEat (s : State) (uid q : Nat) : State :=
  let e := s.lqEnd uid q
  match e.held with
  | [] => s
  | _ :: rest =>
    let s := s.putEnd uid q { e with held := rest }
    if e.st = .bound then s.lqSay uid q .credit else s

/-- Consume the oldest entry of a queue of the current crew. -/
def lqConsume (q : Reg) : Act Unit := fun s => .ok ((), s.lqEat s.crew.uid q.toNat)

/-- Wait for a credit: BOUND, the peer not away, a credit free (R46, R49). -/
def lqReady (q : Reg) : Act Unit := fun s =>
  let e := s.lqEnd s.crew.uid q.toNat
  if e.st = .bound ∧ e.away = false ∧ 0 < e.credit then .ok ((), s) else .error (.wait s)

/-- A convoy's VSEND takes a credit before its first element group, which the endpoint keeps for it (R372). -/
def lqTake (q : Reg) : Act Unit := do
  let s ← get
  let e := s.lqEnd s.crew.uid q.toNat
  if e.kept = some s.hart.idx then pure ()
  else do
    lqReady q
    set (s.putEnd s.crew.uid q.toNat { e with credit := e.credit - 1, kept := some s.hart.idx })

/-- The credit that an endpoint keeps for the current hart is there for its message. -/
def lqGive (q : Reg) : Act Unit := modify fun s =>
  let e := s.lqEnd s.crew.uid q.toNat
  if e.kept = some s.hart.idx then s.putEnd s.crew.uid q.toNat { e with credit := e.credit + 1, kept := none } else s

/-- Send a tile message with one credit (R46, R47). One that the router refuses is dropped and logged, reported
LINK_DOWN, and its credit stays (R33, R226). -/
def lqSendTile (q : Reg) (rows cols fmt : Nat) (data : List Byte) : Act Unit := fun s =>
  let n := q.toNat
  let e := s.lqEnd s.crew.uid n
  let tag := s.nextTag
  let m : TileMsg := { key := e.pkey, rows, cols, fmt, bytes := data.length, zeroOk := true, data, chip := s.chipId,
                       skey := e.key, tenant := s.crew.tenant, viaPort := decide (e.pchip ≠ s.chipId), tag
                       core := s.crew.core }
  if e.pchip ≠ s.chipId ∧ (s.srcRefuses e.pchip).isSome then
    let s := s.logDrop ((s.srcRefuses e.pchip).getD 6) s.crew.tenant s.chipId e.pchip 0
    .ok ((), s.reportImp s.cur .linkDown 0 (BitVec.ofNat 64 n))
  else
  let s := s.putEnd s.crew.uid n { e with credit := e.credit - 1 }
  let s := { s with nextTag := tag + 1 }
  if e.pchip = s.chipId then .ok ((), { s with wire := s.wire ++ [.tileMessage m] })
  else .ok ((), { s.emitNet (.tile e.pchip m) with
    lqTags := s.lqTags ++ [{ tag, crew := s.crew.uid, q := n, hart := s.hart.idx, away := false }] })

end Sys2Proof.Machine
end

