-- ==== Sys2Proof/Machine/Sched.lean ====
section
/-!
DEFINITION. Launches: packets, queues, completion counters, completion, placement and crew start, crew end, pre-emption and
return (03_host_launch R63 to R69, 04_scheduler R81 to R105).
-/
namespace Sys2Proof.Machine

open State

/-! ### The launch packet (R63) -/

def pw (ws : List Word) (i : Nat) : Word := ws.getD i 0

def pkPhase (ws : List Word) : Nat := fld (pw ws 0) 48 8
def pkKernel (ws : List Word) : Nat := fld (pw ws 0) 16 32
def pkSerial (ws : List Word) : Bool := bit (pw ws 0) 11
def pkPivg (ws : List Word) : Bool := bit (pw ws 0) 10
def pkSszero (ws : List Word) : Bool := bit (pw ws 0) 9
def pkCosched (ws : List Word) : Bool := bit (pw ws 0) 8
def pkPersist (ws : List Word) : Bool := bit (pw ws 0) 7
def pkClass (ws : List Word) : Nat := fld (pw ws 0) 4 3
def pkCount (ws : List Word) (k : Nat) : Nat := fld (pw ws 3) (16 * k) 14
/-- KIND: 0 TEMPORAL, 1 SPATIAL_CORE, 2 SPATIAL_DIE, 3 POOLED. -/
def pkKind (ws : List Word) (k : Nat) : Nat := fld (pw ws 3) (16 * k + 14) 2
def pkXch (ws : List Word) : Nat := fld (pw ws 4) 40 2
def pkLqs (ws : List Word) : Nat := fld (pw ws 4) 36 4
def pkWdog (ws : List Word) : Nat := fld (pw ws 4) 32 4
def pkSsmem (ws : List Word) : Nat := fld (pw ws 4) 16 16
def pkAccs (ws : List Word) : Nat := fld (pw ws 4) 12 4
def pkSewmax (ws : List Word) : Nat := fld (pw ws 4) 10 2
def pkNreg (ws : List Word) : Nat := 8 * (fld (pw ws 4) 8 2 + 1)
def pkLanes (ws : List Word) : Nat := 4 * 2 ^ fld (pw ws 4) 6 2
def pkHarts (ws : List Word) : Nat := fld (pw ws 4) 0 6 + 1
def pkDoneAdd (ws : List Word) : Nat := fld (pw ws 5) 52 12
def pkDoneCtr (ws : List Word) : Nat := fld (pw ws 5) 42 10
def pkWaitVal (ws : List Word) : Nat := fld (pw ws 5) 10 32
def pkWaitCtr (ws : List Word) : Nat := fld (pw ws 5) 0 10
def pkEcap (ws : List Word) : Nat := fld (pw ws 7) 44 16
def pkMsien (ws : List Word) : Bool := bit (pw ws 7) 43
def pkMsix (ws : List Word) : Nat := fld (pw ws 7) 32 11
def pkDoneVal (ws : List Word) : Nat := fld (pw ws 7) 0 32

/-- VLENB from a declaration (R140). -/
def vlenbOf (lanes hg nreg : Nat) : Nat := Nat.min 32768 (pow2AtMost (49152 * lanes / hg / (nreg + 8)))

/-- The product of the counts of levels whose kind satisfies a test. -/
def pkProd (ws : List Word) (f : Nat → Bool) : Nat :=
  ([0, 1, 2, 3].map fun k => if f (pkKind ws k) then pkCount ws k else 1).foldl (· * ·) 1

/-- All instances of the loop nest. -/
def pkInstances (ws : List Word) : Nat := pkProd ws fun _ => true

/-- The indices of crew number `n` (R84). -/
def pkIndices (ws : List Word) (n : Nat) : List Nat :=
  let c (k : Nat) : Nat := pkCount ws k
  [n / (c 1 * c 2 * c 3) % c 0, n / (c 2 * c 3) % c 1, n / c 3 % c 2, n % c 3]

/-- The mixed-radix index of an instance over the levels whose kind satisfies a test, the outer level most significant. -/
def pkIndexOf (ws : List Word) (f : Nat → Bool) (n : Nat) : Nat :=
  let ix := pkIndices ws n
  [0, 1, 2, 3].foldl (fun a k => if f (pkKind ws k) then a * pkCount ws k + ix.getD k 0 else a) 0

/-- An instance's spatial point, die index, temporal index and pooled index (R84 to R86). -/
def pkPoint (ws : List Word) (n : Nat) : Nat := pkIndexOf ws (fun k => decide (k = 1) || decide (k = 2)) n
def pkDie (ws : List Word) (n : Nat) : Nat := pkIndexOf ws (fun k => decide (k = 2)) n
def pkTemporal (ws : List Word) (n : Nat) : Nat := pkIndexOf ws (fun k => decide (k = 0)) n
def pkPool (ws : List Word) (n : Nat) : Nat := pkIndexOf ws (fun k => decide (k = 3)) n

/-- Shared store of a die outside the shadow reserve, in 4 KiB units (R91, R167). -/
def State.ssUnits (s : State) (die : Nat) : Nat := (96 - s.mirror die) * 256

/-- A merge of the hart is inside a pass (R251). -/
def Hart.merging (h : Hart) : Bool :=
  match h.merge with
  | some m => decide (m.phase = .running)
  | none => false

/-- A pass of the hart has met a trap that is not yet taken (R236). -/
def Hart.mergeStopped (h : Hart) : Bool :=
  match h.merge with
  | some m => decide (m.phase = .stopped)
  | none => false

namespace State

/-! ### Queues -/

/-- A launch that still holds its queue entry (R60, R82). -/
def holdsEntry (l : Launch) : Bool :=
  match l.st with
  | .queued | .wait | .ready | .placing => true
  | _ => false

def launchList (s : State) : List Launch := s.launches.map (·.2)

def queueUsed (s : State) (q : Nat) : Nat := (s.launchList.filter fun l => decide (l.queue = q) && holdsEntry l).length
def queueSize (q : Nat) : Nat := if q < 64 then 64 else 32

def modLaunch (s : State) (seq : Nat) (f : Launch → Launch) : State :=
  match FMap.find seq s.launches with
  | some l => { s with launches := FMap.insert seq (f l) s.launches }
  | none => s

/-- The launch at the front of its queue (R82). -/
def isHead (s : State) (l : Launch) : Bool :=
  holdsEntry l && !(s.launchList.any fun m => decide (m.queue = l.queue) && decide (m.seq < l.seq) && holdsEntry m)

/-! ### Validation (R64, R69) -/

/-- The cause of a packet's rejection, 0 for none. `port` says that ownership and enables hold, `fatal` aside. -/
def validate (s : State) (tenant queue : Nat) (ws : List Word) (port : Bool) : Nat :=
  let die := pkProd ws fun k => decide (k = 2)
  let left := if die = 2 then Nat.min (s.ssUnits 0) (s.ssUnits 1) else Nat.max (s.ssUnits 0) (s.ssUnits 1)
  let zero := fld (pw ws 0) 56 8 = 0 ∧ fld (pw ws 0) 12 4 = 0 ∧ fld (pw ws 1) 53 11 = 0 ∧ fld (pw ws 2) 53 11 = 0
    ∧ fld (pw ws 4) 42 22 = 0 ∧ fld (pw ws 6) 53 11 = 0 ∧ fld (pw ws 7) 60 4 = 0
  if !port || s.pkg.fatal then 0x02
  else if fld (pw ws 0) 0 4 ≠ 1 then 0x03
  else if ¬ zero then 0x04
  else if fld (pw ws 1) 0 2 ≠ 0 then 0x05
  else if 32 < pkHarts ws then 0x06
  else if vlenbOf (pkLanes ws) (pkHarts ws) (pkNreg ws) < 256 then 0x07
  else if 8 < pkAccs ws then 0x08
  else if s.tenQuota tenant < pkSsmem ws ∨ left < pkSsmem ws then 0x09
  else if 2 < die ∨ s.tenCores tenant < pkProd ws (fun k => decide (k = 1) || decide (k = 2)) then 0x0A
  else if s.ctrOwner (pkWaitCtr ws) ≠ tenant ∨ (pkDoneAdd ws ≠ 0 ∧ s.ctrOwner (pkDoneCtr ws) ≠ tenant) then 0x0B
  else if pkMsien ws ∧ (pkMsix ws < 4 ∨ 127 < pkMsix ws) then 0x0C
  else if pkClass ws = 0 ∧ !s.tenSysclass tenant then 0x0D
  else if (pw ws 6).toNat % 4 ≠ 0 then 0x0E
  else if queue < 64 ∧ queueSize queue ≤ s.queueUsed queue then 0x0F
  else 0

/-! ### Counters (R65, R66) -/

def ctr (s : State) (n : Nat) : BitVec 32 := FMap.getD 0 n s.ctrs

/-- Whether a counter reaches a value (R66). -/
def reaches (s : State) (n v : Nat) : Bool := decide (((s.ctr n).toNat + 2 ^ 32 - v % 2 ^ 32) % 2 ^ 32 < 2 ^ 31)

/-- Mark waits that are satisfied now; they stay so (R66). -/
def markWaits (s : State) : State :=
  { s with launches := s.launches.map fun p =>
      if s.reaches (pkWaitCtr p.2.words) (pkWaitVal p.2.words) then (p.1, { p.2 with waited := true }) else p }

/-- Whether a launch cannot be placed even on an idle device (R88). -/
def unplaceable (s : State) (l : Launch) : Bool :=
  let ws := l.words
  let points := pkProd ws fun k => decide (k = 1) || decide (k = 2)
  let perDie := points / 2
  let die2 := decide (pkProd ws (fun k => decide (k = 2)) = 2)
  let quota (d : Nat) : Nat := if pkSsmem ws = 0 then 10000 else Nat.min (s.ssUnits d) (s.tenQuota l.fn) / pkSsmem ws
  let cores (d : Nat) : Nat := Nat.min 80 (quota d)
  (die2 && decide (80 < perDie))
  || (pkCosched ws && (decide (s.tenCores l.fn < points)
        || (if die2 then decide (cores 0 < perDie) || decide (cores 1 < perDie)
            else decide (cores 0 + cores 1 < points))))

/-- A fault-queue record of a launch (R184). -/
def launchRecord (l : Launch) (cause va : Nat) : FqRec :=
  { w0 := BitVec.ofNat 64 (2 ^ 63 + cause * 2 ^ 48 + l.fn * 2 ^ 44 + l.asid * 2 ^ 32 + l.id % 2 ^ 32)
    w1 := BitVec.ofNat 64 (3 * 2 ^ 17), w2 := BitVec.ofNat 64 (va % 2 ^ 53), w3 := 0 }

/-- The launch is over: its energy record is kept and it leaves the lists (R82, R112). -/
def dropLaunch (s : State) (l : Launch) (aborted : Bool) : State :=
  let e : EnRec := { id := l.id, fn := l.fn, energy := l.energy, aborted }
  { s with launches := FMap.erase l.seq s.launches, gov := { s.gov with enl := (e :: s.gov.enl).take 1024 } }

/-- Step 4 of R68: add DONEADD to DONECTR; a fatal error ends completions (R238). -/
def doneAdd (s : State) (ws : List Word) : State :=
  if pkDoneAdd ws = 0 ∨ s.pkg.fatal then s
  else
    let n := pkDoneCtr ws
    ({ s with ctrs := FMap.setD 0 n (s.ctr n + BitVec.ofNat 32 (pkDoneAdd ws)) s.ctrs }).markWaits

/-- Step 5 of R68: the completion vector. -/
def doneMsix (s : State) (l : Launch) : State := if pkMsien l.words && !s.pkg.fatal then s.msix l.fn (pkMsix l.words) else s

/-- One pass over the queues: a head enters WAIT, then READY once its wait is satisfied; a READY launch that cannot be placed
is aborted (R82, R88). -/
def settleOnce (s : State) : State :=
  s.launches.foldl (fun s p =>
    match FMap.find p.1 s.launches with
    | none => s
    | some l =>
      if !s.isHead l then s
      else
        let earlier := s.launchList.any fun m => decide (m.queue = l.queue) && decide (m.seq < l.seq) && decide (m.st ≠ .done)
        let st1 := if l.st = .queued ∧ (!pkSerial l.words ∨ !earlier) then LState.wait else l.st
        let st2 := if st1 = .wait ∧ l.waited then LState.ready else st1
        if st2 = .ready ∧ l.st ≠ .ready ∧ s.unplaceable l ∧ !s.pkg.fatal then
          let s := s.pushFq l.fn false (launchRecord l 0x22 0)
          ((s.doneAdd l.words).doneMsix l).dropLaunch l true
        else if st2 = l.st then s
        else s.modLaunch l.seq fun l => { l with st := st2, waitedAt := 0 }) s

/-- Let the queues move until nothing more follows. -/
def settleN : Nat → State → State
  | 0, s => s
  | n + 1, s => let s' := s.settleOnce; if s'.launches = s.launches ∧ s'.ctrs = s.ctrs then s' else settleN n s'

def settle (s : State) : State := settleN (s.launches.length + 1) s

/-- Set a counter (R65). -/
def setCtr (s : State) (n : Nat) (v : BitVec 32) : State := (({ s with ctrs := FMap.setD 0 n v s.ctrs }).markWaits).settle

/-- Add to a counter (R65). -/
def addCtr (s : State) (n : Nat) (v : BitVec 32) : State := s.setCtr n (s.ctr n + v)

/-- Whether a BAR4 write of a function waits for a copy's fill, among those that came before the number `n`. -/
def bar4Waits (s : State) (fn n : Nat) : Bool :=
  s.held.any fun h => decide (h.1 < n) && match h.2 with
    | .event (.bar4Write f _ _) => decide (f = fn)
    | _ => false

/-- Accept a packet: a new launch at the back of its queue, with the next launch ID (R64). BAR4 writes of the function
that wait for fills stand before it (R200). -/
def enqueue (s : State) (tenant asid queue : Nat) (ws : List Word) : State :=
  let l : Launch := { seq := s.nextSeq, id := s.nextId, fn := tenant, asid, queue, words := ws, st := .queued, waited := false,
                      started := [], ended := [], homes := [], dieZero := none, energy := 0, noCap := false, hung := false,
                      held := false, cls := pkClass ws, waitedAt := 0, starving := false, claim := [], after := if queue < 64 then s.nextHeld else 0, doneTag := none }
  (({ s with launches := FMap.insert s.nextSeq l s.launches, nextSeq := s.nextSeq + 1,
             nextId := (s.nextId + 1) % 2 ^ 32 }).markWaits).settle

/-! ### Resources (R89) -/

/-- Whether a crew still owns its shared store: any crew that has not ended (R98). -/
def crewsOf (s : State) (f : Crew → Bool) : List Crew := s.allCrews.filter fun c => f c && decide (c.place ≠ .ended)

/-- A free lane group of a size: its base lane (R89). -/
def freeLanes (cs : List Crew) (lanes : Nat) : Option Nat :=
  ((List.range (32 / lanes)).map (· * lanes)).find? fun b =>
    cs.all fun c => decide (c.baseLane + c.lanes ≤ b) || decide (b + lanes ≤ c.baseLane)

/-- What a crew needs of a core (R89). -/
structure NeedOf where
  harts : Nat
  lanes : Nat
  accs  : Nat
  lqs   : Nat

/-- Whether the need fits beside the crews given. -/
def fitsBeside (cs : List Crew) (n : NeedOf) : Bool :=
  decide ((cs.map (·.hg)).foldl (· + ·) 0 + n.harts ≤ 32) && (freeLanes cs n.lanes).isSome
  && decide ((cs.map (·.accs)).foldl (· + ·) 0 + n.accs ≤ 16) && decide ((cs.map (·.lqs)).foldl (· + ·) 0 + n.lqs ≤ 16)

/-- The window offset of the lowest free stretch of a die's store, in bytes (R167). Which free stretch is taken is the
model's choice (log 5). -/
def ssAlloc (s : State) (die bytes : Nat) : Option Nat :=
  if bytes = 0 then some 0
  else
    let base := 0x1FFFF000000000 + die * 0x100000000
    let cs := (s.crewsOf fun c => decide (0 < c.ssSize) && decide (base ≤ c.ssBase) && decide (c.ssBase < base + 0x100000000))
    let spans := cs.map fun c => (c.ssBase - base, c.ssBase - base + c.ssSize)
    let cands := (0 :: spans.map (·.2)).filter fun b =>
      decide (b + bytes ≤ s.ssUnits die * 4096) && spans.all fun p => decide (p.2 ≤ b) || decide (b + bytes ≤ p.1)
    match cands with
    | [] => none
    | b :: bs => some (base + bs.foldl Nat.min b)

/-- Shared store a tenant holds on a die, in 4 KiB units. -/
def ssHeld (s : State) (tenant die : Nat) : Nat :=
  let base := 0x1FFFF000000000 + die * 0x100000000
  ((s.crewsOf fun c => decide (c.tenant = tenant) && decide (base ≤ c.ssBase) && decide (c.ssBase < base + 0x100000000)).map
    (·.ssSize / 4096)).foldl (· + ·) 0

/-- Cores a tenant holds. -/
def coresHeld (s : State) (tenant : Nat) : List Nat :=
  ((s.crewsOf fun c => decide (c.tenant = tenant) && (decide (c.place = .resident) || decide (c.place = .leaving))).map (·.core)).eraseDups

/-- Whether a tenant and a die leave shared store and a core for one more crew of a launch (R57, R89). -/
def fitsTenant (s : State) (l : Launch) (core : Nat) : Bool :=
  let ws := l.words
  !(decide (pkClass ws = 7) && decide (s.thermState (dieOf core) = 3))
  && (s.ssAlloc (dieOf core) (pkSsmem ws * 4096)).isSome
  && decide (s.ssHeld l.fn (dieOf core) + pkSsmem ws ≤ s.tenQuota l.fn)
  && ((s.coresHeld l.fn).contains core || decide ((s.coresHeld l.fn).length < s.tenCores l.fn))

/-- Class of a crew's launch. -/
def crewClass (s : State) (c : Crew) : Nat :=
  match FMap.find c.launch s.launches with
  | some l => pkClass l.words
  | none => 7

/-- Mean power of the entry of a kernel and phase in 0.5 W, 0 where none matches (R115, R120). -/
def meanPower (s : State) (kernel phase : Nat) : Nat :=
  match s.opValid.find? (fun e => decide (fld (s.opLo e) 0 32 = kernel) && decide (fld (s.opLo e) 32 8 = phase)) with
  | some e => fld (s.opHi e) 43 10
  | none => 0

/-- A tenant's budget is exhausted (R114). -/
def budgetSpent (s : State) (tenant : Nat) : Bool :=
  let b := s.reg (rTENBUD tenant)
  bit b 63 && decide (fld b 0 32 * 100000 ≤ (s.reg (rTENUSED tenant)).toNat)

/-- No crew of class 0 to 6 is resident on the device. -/
def noWorkResident (s : State) : Bool :=
  (s.crewsOf fun c => decide (s.crewClass c < 7) && (decide (c.place = .resident) || decide (c.place = .leaving))).isEmpty

/-- The governor admits a crew of a class and mean power (R120). -/
def powerAdmits (s : State) (cls mean : Nat) : Bool :=
  decide (cls = 0) || decide (mean = 0) || (decide (cls < 7) && s.noWorkResident)
  || decide (2 * fld (s.reg rPWRSTAT) 16 16 + mean ≤ 2 * fld (s.reg rPWRCFG) 0 16)

/-- The governor admits a crew of a launch (R120), and the tenant's budget is not exhausted (R114). -/
def admitted (s : State) (l : Launch) : Bool :=
  !s.budgetSpent l.fn && s.powerAdmits (pkClass l.words) (s.meanPower (pkKernel l.words) (pkPhase l.words))

/-- A READY or PLACING head that may be placed at all (R82, R91, R98, R101), once BAR4 writes before it are performed
(R200). A PLACING head is served as a READY one: DESIGN CHOICE (log 66). -/
def placeable (s : State) (l : Launch) : Bool :=
  bit (s.reg rSCHCFG) 63 && !s.pkg.fatal && (decide (l.st = .ready) || decide (l.st = .placing)) && !l.held
  && decide (pkInstances l.words ≠ 0) && s.admitted l && !s.bar4Waits l.fn l.after

/-- What a waiter needs of a core: a launch's next crew, or a returning crew. -/
def launchNeed (l : Launch) : NeedOf := ⟨pkHarts l.words, pkLanes l.words, pkAccs l.words, pkLqs l.words⟩
def crewNeed (c : Crew) : NeedOf := ⟨c.hg, c.lanes, c.accs, c.lqs⟩

/-- A waiter's standing where two want the same resources: effective class, then acceptance (R104). -/
def launchRank (l : Launch) : Nat × Nat := (l.cls, l.seq)
def crewRank (s : State) (c : Crew) : Nat × Nat := (s.crewClass c, c.launch)
def rankLt (a b : Nat × Nat) : Bool := decide (a.1 < b.1) || (decide (a.1 = b.1) && decide (a.2 < b.2))

/-- The waiters that pre-emptions on a core were made for, with their standing and needs (R98). -/
def claimants (s : State) (core : Nat) : List ((Nat × Nat) × NeedOf) :=
  ((s.launchList.filter fun l => l.claim.contains core && s.isHead l && s.placeable l).map fun l => (launchRank l, launchNeed l))
  ++ ((s.crewsOf fun c => decide (c.claim = some core) && decide (c.place = .saved) && !c.hung && !c.heldBy && !s.budgetSpent c.tenant).map
      fun c => (s.crewRank c, crewNeed c))

/-- Whether placing a need on a core leaves what pre-emptions there have freed to those they were made for; `mine` is
the standing of a waiter that is one of them, which yields only to better ones (R97, R98, R104). -/
def leavesClaims (s : State) (core : Nat) (mine : Option (Nat × Nat)) (n : NeedOf) : Bool :=
  let staying := (s.residents core).filter fun c => decide (c.place = .resident)
  match freeLanes (s.residents core) n.lanes with
  | none => false
  | some b =>
    let new : Crew := { Crew.reset with baseLane := b, lanes := n.lanes, hg := n.harts, accs := n.accs, lqs := n.lqs }
    (s.claimants core).all fun q =>
      (match mine with
        | some r => !rankLt q.1 r
        | none => false)
      || !fitsBeside staying q.2 || fitsBeside (new :: staying) q.2

/-- Whether a crew of a launch fits on a core now (R89), beside what is kept for others (R98). -/
def fits (s : State) (l : Launch) (core : Nat) : Bool :=
  fitsBeside (s.residents core) (launchNeed l) && s.fitsTenant l core
  && s.leavesClaims core (if l.claim.contains core then some (launchRank l) else none) (launchNeed l)

/-- Free lanes and free harts of a core. -/
def freeOf (s : State) (core : Nat) : Nat × Nat :=
  let cs := s.residents core
  (32 - (cs.map (·.lanes)).foldl (· + ·) 0, 32 - (cs.map (·.hg)).foldl (· + ·) 0)

/-- The best core of a rising list: fewest free lanes, then fewest free harts, then the lowest number (R90). -/
def bestCore (s : State) : List Nat → Option Nat
  | [] => none
  | c :: cs =>
    match bestCore s cs with
    | none => some c
    | some d => if (s.freeOf d).1 < (s.freeOf c).1 ∨ ((s.freeOf d).1 = (s.freeOf c).1 ∧ (s.freeOf d).2 < (s.freeOf c).2) then some d
                else some c

/-- The cores an instance may run on, among those that satisfy a test, in rising order: its point's home, for a pool
also the homes of the points of its die, or for a new point any core of the right die that is no other point's home
(R85, R86). -/
def coresThat (l : Launch) (n dieZero : Nat) (ok : Nat → Bool) : List Nat :=
  let ws := l.words
  let p := pkPoint ws n
  let die2 := decide (pkProd ws (fun k => decide (k = 2)) = 2)
  let z := l.dieZero.getD dieZero
  let okDie (core : Nat) : Bool := !die2 || decide (dieOf core = (z + pkDie ws n) % 2)
  match l.homes.find? (fun h => decide (h.1 = p)) with
  | some h =>
    let pooled := [0, 1, 2, 3].any fun k => decide (pkKind ws k = 3) && decide (1 < pkCount ws k)
    if !pooled ∨ pkCosched ws then [h.2].filter ok
    else (List.range 160).filter fun c => (l.homes.any fun h => decide (h.2 = c)) && okDie c && ok c
  | none => (List.range 160).filter fun c => okDie c && !(l.homes.any fun h => decide (h.2 = c)) && ok c

/-- The cores, among those that satisfy a test, where an instance fits now. -/
def coresFor (s : State) (ok : Nat → Bool) (l : Launch) (n : Nat) (dieZero : Nat) : List Nat :=
  coresThat l n dieZero fun c => ok c && s.fits l c

/-! ### Crew start (R93) -/

/-- A hart at crew start. -/
def newHart (s : State) (l : Launch) (idx : Nat) : Hart :=
  let ws := l.words
  let rtv := s.reg (rRTVEC l.fn)
  { Hart.reset with
    live := true, idx, pc := pw ws 1, x := (Vector.replicate 32 (0 : Word)).set 3 (pw ws 2)
    nreg := pkNreg ws, sewMax := pkSewmax ws, vlenb := vlenbOf (pkLanes ws) (pkHarts ws) (pkNreg ws)
    csr := { Csrs.reset with
      tvec := rtv &&& 0x1FFFFFFFFFFFFC
      hcap := BitVec.ofNat 64 (b2n (bit rtv 0) + 2 * b2n (pkPivg ws && s.tenPivgok l.fn)) } }

/-- Zero-fill a range of the shared store (R93, SSZERO). -/
def zeroRange (s : State) (pa n : Nat) : State :=
  { s with mem := s.mem.filter (fun p => !(decide (pa ≤ p.1) && decide (p.1 < pa + n)))
           pois := s.pois.filter (fun p => !(decide (pa ≤ p.1 * 64) && decide (p.1 * 64 < pa + n))) }

/-- Ballast of the governor's own on lanes that a crew takes is discarded (R121, R131). -/
def dropSynth (s : State) (core base lanes : Nat) : State :=
  { s with gov := { s.gov with ballast := s.gov.ballast.filter fun b => match b with
    | .synth k b n => !(decide (k = core) && decide (b < base + lanes) && decide (base < b + n))
    | .crew _ => true } }

/-- Place and start instance `n` of a launch on a core (R85, R89, R93, R115); its start is an acquire at SYS scope (R67). -/
def startCrew (s : State) (l : Launch) (n core : Nat) : State :=
  let ws := l.words
  let uid := s.nextUid
  let ss := (s.ssAlloc (dieOf core) (pkSsmem ws * 4096)).getD 0
  let c : Crew := { Crew.reset with
    live := true, uid, launch := l.seq, crewId := n, fn := l.fn, tenant := l.fn, asid := l.asid, core
    loopIdx := pkIndices ws n, ssBase := ss, ssSize := pkSsmem ws * 4096
    baseLane := (freeLanes (s.residents core) (pkLanes ws)).getD 0, lanes := pkLanes ws, hg := pkHarts ws
    accs := pkAccs ws, lqs := pkLqs ws, xch := pkXch ws, phase := pkPhase ws }
  let s := s.flush
  let s := s.spoilRuns fun d => decide (d.core = core)
  let s := s.refresh core
  let s := { s with
    nextUid := uid + 1, crews := FMap.insert uid c s.crews
    harts := (List.range (pkHarts ws)).foldl (fun m i => FMap.insert (slotOf uid i) (s.newHart l i) m) s.harts }
  let s := s.dropSynth core c.baseLane c.lanes
  let s := if pkSszero ws then s.zeroRange (0x7000000000 + (ss - 0x1FFFF000000000)) (pkSsmem ws * 4096) else s
  s.opLookup c (pkKernel ws)

/-- Record that an instance of a launch has been placed (R82, R85). -/
def notePlaced (s : State) (seq n core dieZero : Nat) : State :=
  s.modLaunch seq fun l =>
    let ws := l.words
    let homes := if l.homes.any (fun h => decide (h.1 = pkPoint ws n)) then l.homes else l.homes ++ [(pkPoint ws n, core)]
    let started := n :: l.started
    let die2 := decide (pkProd ws (fun k => decide (k = 2)) = 2)
    { l with
      homes, started, claim := l.claim.erase core, starving := false
      dieZero := if die2 then some (l.dieZero.getD dieZero) else l.dieZero
      st := if started.length = pkInstances ws then .running else .placing }

/-- Instances that may start now: earlier temporal tuples at the point have ended (R86). -/
def startable (l : Launch) (n : Nat) : Bool :=
  let ws := l.words
  !l.started.contains n
  && (List.range (pkInstances ws)).all fun m =>
      !(decide (pkPoint ws m = pkPoint ws n) && decide (pkTemporal ws m < pkTemporal ws n)) || l.ended.contains m

/-- The instances a launch could place next, with a core for each among those that satisfy a test (R86, R90). -/
def choices (s : State) (ok : Nat → Bool) (l : Launch) (dieZero : Nat) : List (Nat × Nat) :=
  (List.range (pkInstances l.words)).filterMap fun n =>
    if startable l n then (s.bestCore (s.coresFor ok l n dieZero)).map fun c => (n, c) else none

/-- Class-7 crews return only where ballast may be admitted: a setpoint, cap level 0, the die not critical (R117, R121,
R126). -/
def ballastOk (s : State) (core : Nat) : Bool :=
  decide (fld (s.reg rPWRCFG) 16 16 ≠ 0) && decide (s.capLevel = 0) && decide (s.thermState (dieOf core) ≠ 3)

/-- Whether a pre-empted crew may return to a core, but for the room there and the rest of its spatial set (R89, R101,
R114, R120). It may with SCHCFG.EN 0 too (R91; log 75). -/
def returnOk (s : State) (c : Crew) (core : Nat) : Bool :=
  let kernel := match FMap.find c.launch s.launches with
    | some l => pkKernel l.words
    | none => 0
  decide (c.place = .saved) && !c.hung && !c.heldBy && !s.budgetSpent c.tenant && decide (dieOf core = dieOf c.core) && decide (core < 160)
  && s.powerAdmits (s.crewClass c) (s.meanPower kernel c.phase) && (decide (s.crewClass c ≠ 7) || s.ballastOk core)
  && ((s.coresHeld c.tenant).contains core || decide ((s.coresHeld c.tenant).length < s.tenCores c.tenant))

/-- Whether it could return there now, but for the rest of its spatial set (R89, R98). -/
def returnable (s : State) (c : Crew) (core : Nat) : Bool :=
  s.returnOk c core && fitsBeside (s.residents core) (crewNeed c) && s.leavesClaims core (if c.claim = some core then some (s.crewRank c) else none) (crewNeed c)

/-- The crews of a crew's spatial set: with COSCHED, those of its launch that share its temporal and pooled indices (R87). -/
def setOf (s : State) (c : Crew) : List Crew :=
  match FMap.find c.launch s.launches with
  | none => [c]
  | some l =>
    if pkCosched l.words then
      s.allCrews.filter fun d => decide (d.launch = c.launch)
        && decide (pkTemporal l.words d.crewId = pkTemporal l.words c.crewId)
        && decide (pkPool l.words d.crewId = pkPool l.words c.crewId)
    else [c]

/-- A pre-empted crew returns to a core (R97, R101, R216). -/
def returnTo (s : State) (c : Crew) (core : Nat) : State :=
  let lane := (freeLanes (s.residents core) c.lanes).getD 0
  let s := s.spoilRuns fun d => decide (d.core = core)
  let s := s.modCrew c.uid fun c =>
    { c with place := .resident, core, baseLane := lane, stay := 0, away := 0, runOk := false, ctxAt := none, claim := none }
  ((s.refresh core).dropSynth core lane c.lanes).lqReturn c.uid

/-- The other crews of a spatial set return with one of it, each to its best core, or none does (R87). -/
def returnSet : List Crew → State → Option State
  | [], s => some s
  | c :: cs, s =>
    match s.bestCore ((List.range 160).filter (s.returnable c)) with
    | none => none
    | some core => returnSet cs (s.returnTo c core)

/-- A crew returns to a core with its whole spatial set, but for what of it is resident. -/
def returnAll (s : State) (c : Crew) (core : Nat) : Option State :=
  if s.returnable c core then
    returnSet ((s.setOf c).filter fun d => decide (d.uid ≠ c.uid) && decide (d.place ≠ .resident)) (s.returnTo c core)
  else none

/-- Whether a pre-empted crew may return to a core now. -/
def mayReturn (s : State) (c : Crew) (core : Nat) : Bool := s.returnable c core && (s.returnAll c core).isSome

/-- Whether some pre-empted crew may return somewhere, so that it is served before READY heads (R97 step 1). -/
def someReturns (s : State) : Bool :=
  s.allCrews.any fun c => decide (c.place = .saved) && (List.range 160).any (s.mayReturn c)

/-- The order of R97 steps 2 to 4 among READY heads that fit: by effective class, the tenant's deficit, acceptance. A
tenant of weight 0 comes after every other tenant of the class. -/
def before (s : State) (a b : Launch) : Bool :=
  let w (l : Launch) : Bool := decide (fld (s.reg (rSCHTW l.fn)) 0 8 = 0)
  let d (l : Launch) : Int := FMap.getD 0 l.fn s.gov.deficit
  if a.cls ≠ b.cls then decide (a.cls < b.cls)
  else if a.fn = b.fn then decide (a.seq < b.seq)
  else if w a ≠ w b then w b
  else if d a ≠ d b then decide (d b < d a)
  else decide (a.seq < b.seq)

/-! ### Placing -/

/-- Place one instance of a launch without COSCHED, if one may start: `pick` chooses among those that may (R86). -/
def placeOne (s : State) (ok : Nat → Bool) (l : Launch) (pick dieZero : Nat) : State :=
  let cs := s.choices ok l dieZero
  match cs[pick % cs.length]? with
  | none => s
  | some (n, core) => ((s.startCrew l n core).notePlaced l.seq n core dieZero).settle

/-- Place every crew of a spatial set in CREWID order, or none, each admitted by itself (R87, R90, R120). -/
def placeSet (s : State) (ok : Nat → Bool) (l : Launch) (dieZero : Nat) : List Nat → Option State
  | [] => some s
  | n :: ns =>
    match FMap.find l.seq s.launches with
    | none => none
    | some l' =>
      match (if s.admitted l' then s.bestCore (s.coresFor ok l' n dieZero) else none) with
      | none => none
      | some core => placeSet ((s.startCrew l' n core).notePlaced l.seq n core dieZero) ok l dieZero ns

/-- The instances that may start a spatial set of a launch with COSCHED (R87). -/
def setStarts (l : Launch) : List Nat :=
  (List.range (pkInstances l.words)).filter fun n => decide (pkPoint l.words n = 0) && startable l n

/-- The instances of the spatial set of an instance. -/
def setMembers (l : Launch) (n : Nat) : List Nat :=
  (List.range (pkInstances l.words)).filter fun m =>
    decide (pkTemporal l.words m = pkTemporal l.words n) && decide (pkPool l.words m = pkPool l.words n)

/-- Whether a crew, or with COSCHED a spatial set, of a launch would fit now on cores that satisfy a test. -/
def fitsNow (s : State) (ok : Nat → Bool) (l : Launch) : Bool :=
  [0, 1].any fun z =>
    if pkCosched l.words then
      (setStarts l).any fun n => (setMembers l n).all (startable l) && (s.placeSet ok l z (setMembers l n)).isSome
    else !(s.choices ok l z).isEmpty

/-- The cores open to a head: while a pre-empted crew may return, those where pre-emptions were made for the head (R97
step 1, R98). -/
def openTo (s : State) (l : Launch) : Nat → Bool :=
  let later := s.someReturns
  fun core => !later || l.claim.contains core

/-- A head of a tenant of weight 0 waits while another tenant, of a weight, has a head of the class that waits (R97; log
30). -/
def weightBars (s : State) (l : Launch) : Bool :=
  let w (t : Nat) : Nat := fld (s.reg (rSCHTW t)) 0 8
  decide (w l.fn = 0) && s.launchList.any fun m => decide (m.fn ≠ l.fn) && decide (w m.fn ≠ 0) && s.isHead m && s.placeable m && decide (m.cls = l.cls)

/-- Whether a launch is the one R97 serves now: no head that comes before it fits. -/
def served (s : State) (l : Launch) : Bool :=
  !s.weightBars l
  && !(s.launchList.any fun m => decide (m.seq ≠ l.seq) && s.isHead m && s.placeable m && decide (pkClass m.words < 7) && s.before m l
        && !s.weightBars m && s.fitsNow (s.openTo m) m)

/-- CREW_PLACEMENT (R85 to R93): the launch that R97 serves places a crew, or with COSCHED a spatial set. -/
def place_ (s : State) (seq pick dieZero : Nat) (ballast : Bool) : State :=
  match FMap.find seq s.launches with
  | none => s
  | some l =>
    let ws := l.words
    let ok := s.openTo l
    if !s.isHead l ∨ !s.placeable l ∨ (decide (pkClass ws = 7) ≠ ballast) ∨ (!ballast ∧ !s.served l) then s
    else if pkCosched ws then
      match (setStarts l)[pick % (setStarts l).length]? with
      | none => s
      | some n =>
        if (setMembers l n).all (startable l) then
          match s.placeSet ok l dieZero (setMembers l n) with
          | some s' => (s'.modLaunch seq fun l => { l with claim := [] }).settle
          | none => s
        else s
    else s.placeOne ok l pick dieZero

/-! ### Barriers (R334) -/

/-- Let every hart leave that waits at a barrier all participants have reached; a halted hart counts as arrived, and a crew
that has ended has no hart left to wait for. -/
def releaseBarriers (s : State) (uid : Nat) : State :=
  match s.getCrew uid with
  | none => s
  | some c =>
    let scopes : List (Bool × Nat × List (Nat × Hart)) :=
      (List.range 16).flatMap fun id => [(false, id, s.crewHarts c), (true, id, (s.setOf c).flatMap s.crewHarts)]
    scopes.foldl (fun (s : State) (b : Bool × Nat × List (Nat × Hart)) =>
      let at_ (h : Hart) : Bool := decide (h.barAt = some (b.1, b.2.1))
      if (b.2.2.any fun p => at_ p.2) && b.2.2.all fun p => at_ p.2 || p.2.halted then
        b.2.2.foldl (fun (s : State) p =>
          if at_ p.2 then s.modHart p.1 fun h => { h with barAt := none, barGo := true } else s) s
      else s) s

/-! ### The merge network (R257) -/

/-- Free a core's network for its oldest waiter. -/
def mnetFree (s : State) (core : Nat) : State :=
  match FMap.find core s.mnet with
  | none => s
  | some n =>
    match n.waiters with
    | w :: ws => { s with mnet := FMap.insert core { holder := some w, waiters := ws } s.mnet }
    | [] => { s with mnet := FMap.erase core s.mnet }

/-- A crew's harts neither hold the network nor wait for it. -/
def mnetForget (s : State) (core uid : Nat) : State :=
  match FMap.find core s.mnet with
  | none => s
  | some n =>
    let s := { s with mnet := FMap.insert core { n with waiters := n.waiters.filter fun w => decide (w / 32 ≠ uid) } s.mnet }
    match n.holder with
    | some h => if h / 32 = uid then s.mnetFree core else s
    | none => s

/-! ### Crew end (R102) -/

/-- Each hart of a crew releases: its queued stores are performed and its dirty lines written back (R198, R216). -/
def storesOut (s : State) (c : Crew) : State :=
  (List.range c.hg).foldl (fun s i =>
    let slot := slotOf c.uid i
    (asHart slot (fun t => t.performAll fun _ => true) s).writeBackOf c.core slot) s

/-- A crew leaves its core: what it has used since the last calibration is still to be charged (R109). -/
def leaveCore (s : State) (c : Crew) : State :=
  if c.place = .resident ∨ c.place = .leaving then
    { s with gov := { s.gov with left := { uid := c.uid, tenant := c.tenant, ballast := decide (s.crewClass c = 7) } :: s.gov.left } }
  else s

/-- What remains of a crew leaves the device: caches written back, endpoints unbound, registrations released, the network
freed, contents scrubbed. -/
def scrub (s : State) (uid : Nat) : State :=
  match s.getCrew uid with
  | none => s
  | some c =>
    let s := { s with cregs := s.cregs.filter fun r => decide (r.slot / 32 ≠ uid) }
    let s := (s.storesOut c).leaveCore c
    let s := (List.range c.lqs).foldl (fun s q => if (s.lqEnd uid q).en then s.lqUnbind uid q else s) s
    let s := s.mnetForget c.core uid
    let s := s.flush
    let mine := s.hart.live && decide (s.crew.uid = uid)
    { s with
      crews := FMap.erase uid s.crews, harts := s.harts.filter fun p => decide (p.1 / 32 ≠ uid)
      hart := if mine then Hart.reset else s.hart, crew := if mine then Crew.reset else s.crew
      cur := if mine then 0 else s.cur
      invals := s.invals.filter fun v => v.host || decide (v.slot / 32 ≠ uid)
      lqTags := s.lqTags.filter fun t => decide (t.crew ≠ uid), mcTags := s.mcTags.filter fun t => decide (t.slot / 32 ≠ uid)
      gov := { s.gov with ballast := s.gov.ballast.filter fun b => decide (b ≠ .crew uid) } }

/-- Whether a crew has ended: every hart halted, its channels idle or FAULTED, no stream write or merge left (R102). -/
def crewDone (s : State) (c : Crew) : Bool :=
  (s.crewHarts c).all fun p =>
    let h := p.2
    h.halted && !h.merging && h.pend.isEmpty && h.posted.isEmpty
    && h.cp.toList.all (fun k => decide (k.st ≠ 1))
    && h.ds.toList.all fun d => d.pend.isEmpty && decide (d.st ≠ .draining)

/-- A crew ends: its energy goes to its launch, its operating-point run ends, it is scrubbed; a launch whose every instance
has ended is COMPLETING (R82, R102, R112, R116). -/
def endCrew (s : State) (c : Crew) : State :=
  let s := s.tally c.uid
  let c := (s.getCrew c.uid).getD c
  let s := s.opEndRun c
  let set_ := s.setOf c
  let s := s.scrub c.uid
  let s := s.modLaunch c.launch fun l =>
    let ended := c.crewId :: l.ended
    { l with ended, energy := l.energy + c.energy.toNat
             st := if ended.length = pkInstances l.words then .completing else l.st }
  let s := set_.foldl (fun s d => if d.uid = c.uid then s else s.releaseBarriers d.uid) s
  s.settle

/-! ### Completion (R68) -/

/-- The end of a launch's completion: steps 4 and 5. -/
def finishLaunch (s : State) (l : Launch) : State := (((s.doneAdd l.words).doneMsix l).dropLaunch l false).settle

/-- A completion write that is refused or faults is dropped, with a COMPLETION record; steps 4 and 5 follow. -/
def failCompletion (s : State) (l : Launch) : State :=
  (s.pushFq l.fn false (launchRecord l 0x21 (pw l.words 6).toNat)).finishLaunch l

/-- The completion write leaves the device; the launch waits for its completion. -/
def askCompletion (s : State) (l : Launch) (o : Nat → Output) : State :=
  let tag := s.nextTag
  let s := s.emitNet (o tag)
  ({ s with nextTag := tag + 1 } : State).modLaunch l.seq fun l => { l with doneTag := some tag }

/-- Write DONEVAL to memory of this device, once no copy has still to fill it (R159). -/
def writeCompletion (s : State) (l : Launch) (pa : Nat) : State :=
  if !(s.unfilled pa 4).isEmpty then s else ((s.touch pa 4).writeHome pa 4 (pkDoneVal l.words)).finishLaunch l

/-- Steps 3 to 5 of R68 for a launch that is COMPLETING. The window of the shared store is no crew's here: a DONEADDR in
it is refused (R167). -/
def complete (s : State) (l : Launch) : State :=
  let ws := l.words
  let addr := (pw ws 6).toNat
  if l.doneTag.isSome then s
  else if addr = 0 then s.finishLaunch l
  else if inWindow addr then s.failCompletion l
  else
    match s.translate l.fn l.asid false .write addr with
    | .error k => if k = 0 then s else s.failCompletion l
    | .ok pa =>
      match s.place pa with
      | .mem pa => s.writeCompletion l pa
      | .aperture off =>
        let e := s.reg (rAPERTURE (off / 2 ^ 30))
        if bit e 63 ∧ fld e 59 4 = l.fn then
          s.askCompletion l fun tag => .hostWrite l.fn (s.hostBus off) (bytesLE 4 (pkDoneVal ws)) (some tag)
        else s.failCompletion l
      | .remote chip off =>
        match s.srcRefuses chip with
        | some c => (s.logDrop c l.fn s.chipId chip 0).failCompletion l
        | none =>
          if chip = s.chipId then
            match s.tgtRefuses l.fn off with
            | some c => (s.logDrop c l.fn s.chipId chip 0).failCompletion l
            | none => s.writeCompletion l off
          else
            s.askCompletion l fun tag => .request chip
              { kind := .write, src := s.chipId, tenant := l.fn, tag, off, width := 4, dat := pkDoneVal ws, cmp := 0 }
      | .mcast group off high =>
        if high ≠ 0 ∨ !s.faben then s.failCompletion l
        else
          (s.mcastRoute none { group, off, data := bytesLE 4 (pkDoneVal ws), src := s.chipId, tenant := l.fn, hops := 0 }).finishLaunch l
      | _ => s.failCompletion l

/-! ### Context (R92, R100) -/

/-- The CSRs of a hart in the order of `Csrs`. -/
def csrWords (c : Csrs) : List Word :=
  [c.vl, c.vtype, c.vstart, c.vrc, c.vrp, c.vredacc, c.vflags, c.frm, c.mshape, c.mpred, c.mstart, c.amomode, c.pivtau, c.pivstat,
   c.ownmap, c.hweight, c.instret, c.mgoutb, c.mgoutl, c.mgspb, c.mgspl, c.mgmode, c.mgstate, c.mgocnt, c.mgtag, c.mgstat, c.tvec,
   c.tpc, c.tcause, c.tval, c.tstat, c.tscratch, c.hcap]

/-- Numbers as 8-byte words. -/
def wordBytes (ns : List Nat) : List Byte := ns.flatMap (bytesLE 8)

/-- A stream port's configuration and position, what DSSTAT shows of it, and the elements that have not been written
(R99, R100, R151). -/
def streamImage (d : Stream) : List Byte :=
  let code : Nat := match d.st with
    | .unconfig => 0
    | .read => 1
    | .write => 2
    | .draining => 3
  wordBytes ([code, d.base, d.c0, d.c1, d.c2, modW d.s0 64, modW d.s1 64, modW d.s2 64, d.width, d.pos, b2n d.short, b2n d.fault]
    ++ d.pend.flatMap fun e => [e.va, e.pa, e.n, e.v])

/-- A copy channel's state and progress. -/
def chanImage (c : CopyChan) : List Byte :=
  wordBytes [c.st, c.cause, c.fva, c.src, c.dst, c.len, c.rows, modW c.pitch 64, b2n c.lu, c.done, c.regd]

/-- A hart's part of its crew's context, in the order of R100: program counter, x1 to x31 and CSRs, written extents of
vector registers, mask registers, written rows of tiles with the scale tables, streams and channels, merge network. The
order inside a part is the model's (log 25). -/
def hartImage (c : Crew) (h : Hart) : List Byte :=
  wordBytes ((h.pc :: h.x.toList.drop 1 ++ csrWords h.csr).map (·.toNat))
  ++ (List.range h.nreg).flatMap (fun r => (upFrom (r * h.vlenb) (FMap.getD 0 r h.wext)).map fun b => FMap.getD 0 b h.v)
  ++ (List.range 8).flatMap (fun r => (List.range h.vlenb).map fun b =>
      BitVec.ofNat 8 (((List.range 8).map fun i => b2n (FMap.getD false (r * 2 ^ 18 + b * 8 + i) h.m) * 2 ^ i).foldl (· + ·) 0))
  ++ (List.range h.tiles).flatMap (fun t => (List.range (FMap.getD 0 t h.trow * 64)).flatMap fun k =>
      bytesLE 4 (FMap.getD 0 (t * 4096 + k) h.acc).toNat)
  ++ (if h.scaled then (List.range 4096).flatMap fun k => [FMap.getD 0x7F k h.sa, FMap.getD 0x7F k h.sb] else [])
  ++ h.ds.toList.flatMap streamImage ++ (h.cp.toList.take (c.xch + 1)).flatMap chanImage
  ++ (h.staged.map (·.2) ++ h.drain.toList).flatMap fun g => wordBytes (g.width :: g.pairs.flatMap fun p => [p.1, p.2])

/-- A crew's queue registers: entries, who writes and reads them, and which of these are blocked. -/
def queueImage (q : QReg) : List Byte :=
  let who (o : Option Nat) : Nat := match o with
    | some i => i + 1
    | none => 0
  wordBytes (who q.writer :: who q.reader :: b2n q.wstop :: b2n q.rstop :: q.entries.map (·.toNat))

/-- A link endpoint: state, credits, slots. -/
def lqImage (e : LqEnd) : List Byte :=
  let code : Nat := match e.st with
    | .unbound => 0
    | .pending => 1
    | .bound => 2
    | .down => 3
  wordBytes [code, b2n e.en, b2n e.dir, e.pchip, e.key, e.pkey, e.credit, b2n e.away]
  ++ e.held.flatMap fun m => wordBytes [m.rows, m.cols, m.fmt, m.bytes] ++ m.data

/-- A crew's context (R100). -/
def ctxImage (s : State) (c : Crew) : List Byte :=
  (s.crewHarts c).flatMap (fun p => hartImage c p.2) ++ wordBytes [c.phase, c.chainperm, c.energy.toNat, c.cycle.toNat]
  ++ c.qs.toList.flatMap queueImage ++ (List.range c.lqs).flatMap fun q => lqImage (s.lqEnd c.uid q)

/-- The lowest free stretch of `n` bytes of a region of `size` bytes beside the stretches taken. -/
def ctxIn (lo size n : Nat) (used : List (Nat × Nat)) : Option Nat :=
  (((lo :: used.map (fun u => u.1 + u.2)).filter fun a =>
    decide (lo ≤ a) && decide (a + n ≤ lo + size) && used.all fun u => decide (u.1 + u.2 ≤ a) || decide (a + n ≤ u.1)).min?)

/-- Where `n` bytes of context of a die go: its shadow region, else the region of SCHOVF (R92, R100). Where in a region
is the model's choice, and SCHOVF's BASE and SIZE are taken as they stand (log 25). -/
def ctxFind (s : State) (die n : Nat) (used : List (Nat × Nat)) : Option Nat :=
  let top := 0x7006000000 + die * 0x100000000
  let size := s.mirror die * 2 ^ 20
  let ovf := s.reg rSCHOVF
  match ctxIn (top - size) size n used with
  | some a => some a
  | none => ctxIn (fld ovf 17 36 * 2 ^ 17) (fld ovf 56 8 * 2 ^ 26) n used

/-- The stretches that contexts of crews away take. -/
def ctxUsed (s : State) : List (Nat × Nat) := (s.crewsOf fun c => decide (c.place = .saved)).filterMap (·.ctxAt)

/-- The stretches taken once the crews of a list that find room are saved too. -/
def ctxAfter (s : State) : List Crew → List (Nat × Nat) → List (Nat × Nat)
  | [], used => used
  | c :: cs, used =>
    let n := (s.ctxImage c).length
    match s.ctxFind (dieOf c.core) n used with
    | some a => ctxAfter s cs ((a, n) :: used)
    | none => ctxAfter s cs used

/-- Whether the context store has room for all of a set of crews, beside what is saved and what was chosen as a victim
and is being saved; crews that their triggers name take what room is left, in whatever order they are saved (R98, R100).
-/
def ctxRoomFor (s : State) (cs : List Crew) : Bool :=
  let leaving := s.crewsOf fun d => decide (d.place = .leaving) && !d.hung && !d.heldBy && !(cs.any fun c => decide (c.uid = d.uid))
  let used := s.ctxAfter leaving s.ctxUsed
  decide ((s.ctxAfter cs used).length = used.length + cs.length)

def ctxRoom (s : State) (c : Crew) : Bool := s.ctxRoomFor [c]

/-- Bytes into memory, the last first. -/
def writeDown (m : FMap Byte) (pa : Nat) : List Byte → FMap Byte
  | [] => m
  | b :: bs => FMap.setD 0 pa b (writeDown m (pa + 1) bs)

/-- Write a crew's context to its region, and remember where it lies. -/
def writeContext (s : State) (c : Crew) : State :=
  let img := s.ctxImage c
  match s.ctxFind (dieOf c.core) img.length s.ctxUsed with
  | none => s
  | some a =>
    (({ s with mem := writeDown s.mem a img } : State).clearWhole a img.length).modCrew c.uid fun c => { c with ctxAt := some (a, img.length) }

/-! ### Pre-emption and return (R98 to R101) -/

/-- Begin to pre-empt a crew (R99, R49): its harts issue nothing more, its endpoints send AWAY. -/
def preemptCrew (s : State) (uid : Nat) : State :=
  match s.getCrew uid with
  | none => s
  | some c =>
    if c.place = .resident then
      let s := s.modCrew uid fun c => { c with place := .leaving, runOk := false }
      s.lqLeave uid
    else s

/-- Whether a leaving crew's harts are at points where they may be saved (R99, R216): outer products drained, no answer
awaited, no VLOCK begun, no merge inside a pass or with a trap to take. -/
def quiet (s : State) (c : Crew) : Bool :=
  (s.crewHarts c).all fun p => p.2.pend.isEmpty && p.2.asked.isEmpty && !p.2.mustFinish && p.2.lockRun.isNone && !p.2.merging && !p.2.mergeStopped

/-- The save of a crew is done (R49 step 3, R99, R100, R216): each hart releases, what it had read for instructions that
begin anew on return is discarded with its stream strips, its context written to its region, its place on the core
freed. A crew whose harts have all halted ends instead (R104). -/
def saveCrew (s : State) (uid : Nat) : State :=
  match s.getCrew uid with
  | none => s
  | some c =>
    if c.place ≠ .leaving ∨ !s.lqGone uid ∨ !s.quiet c ∨ (!s.ctxRoom c ∧ !s.crewDone c) ∨ (s.crewHarts c).any (fun p => p.2.posted.any fun q => !q.bad) then s
    else if s.crewDone c then s.endCrew c
    else
      let s := (((s.tally uid).storesOut c).leaveCore c).mnetForget c.core uid
      let s := (List.range c.hg).foldl (fun s i => s.modHart (slotOf uid i) fun h =>
        { h with ds := h.ds.map fun d => { d with buf := [] }, merge := h.merge.map fun m => { m with live := false }, deficit := 0
                 head := none, answers := [], olds := [], early := [] }) s
      let s := s.writeContext c
      let s := s.modCrew uid fun c => { c with place := .saved, away := 0, convoy := none }
      s.settle

/-- CREW_RESTORE: a crew returns to a core, with its whole spatial set. -/
def restoreCrew (s : State) (uid core : Nat) : State :=
  match s.getCrew uid with
  | none => s
  | some c => (s.returnAll c core).getD s

/-- A crew is pre-empted with its whole spatial set (R87). -/
def preemptSet (s : State) (c : Crew) : State := (s.setOf c).foldl (fun s d => s.preemptCrew d.uid) s

/-- Every sublist, shorter ones not first. -/
def sublists {α : Type} : List α → List (List α)
  | [] => [[]]
  | a :: l => let r := sublists l; r ++ r.map (a :: ·)

/-- Crews of one core that a waiter of an effective class may displace (R98), with those that already leave it (R104). -/
def victims (s : State) (cls : Nat) (starving : Bool) (core : Nat) : List Crew :=
  (s.residents core).filter fun c =>
    let k := s.crewClass c
    (starving && decide (1 ≤ k) && decide (fld (s.reg rAGETHR) 8 8 * 1000 ≤ c.stay))
    || (if cls = 0 then decide (1 ≤ k) else decide (cls + 2 ≤ k) || (decide (k = 7) && decide (cls < 7)))

/-- The order in which sets of victims are preferred: fewest, then highest class, then latest start. -/
def victimRank (s : State) (v : List Crew) : Nat × Nat × Nat :=
  (v.length, 8 * v.length - (v.map s.crewClass).foldl (· + ·) 0, (v.map (·.stay)).foldl Nat.max 0)
def victimLt (a b : Nat × Nat × Nat) : Bool :=
  decide (a.1 < b.1) || (decide (a.1 = b.1) && (decide (a.2.1 < b.2.1) || (decide (a.2.1 = b.2.1) && decide (a.2.2 < b.2.2))))

/-- The preferred set of victims on a core that makes room for a need; the context store has room for them and for the
rest of their spatial sets (R87, R98). -/
def victimSet (s : State) (need : NeedOf) (core : Nat) (vs : List Crew) : Option (List Crew) :=
  let ok (v : List Crew) : Bool :=
    !v.isEmpty && fitsBeside ((s.residents core).filter fun c => !(v.any fun d => decide (d.uid = c.uid))) need
    && s.ctxRoomFor ((v.flatMap s.setOf).eraseDups.filter fun c => decide (c.place = .resident) || decide (c.place = .leaving))
  (sublists vs).foldl (fun best v =>
    if ok v then
      match best with
      | none => some v
      | some b => if victimLt (s.victimRank v) (s.victimRank b) then some v else some b
    else best) none

/-- Whether room for a need is being made on a core that a pre-emption was made on: crews that leave it will free enough. -/
def making (s : State) (claim : List Nat) (need : NeedOf) (core : Nat) : Bool :=
  claim.contains core && !fitsBeside (s.residents core) need
  && fitsBeside ((s.residents core).filter fun c => decide (c.place = .resident)) need

/-- Pre-empt on a core on behalf of a waiter (R98), where no other core has a preferred set. -/
def preemptFor (s : State) (need : NeedOf) (core : Nat) (vs : Nat → List Crew) : Option State :=
  match s.victimSet need core (vs core) with
  | none => none
  | some v =>
    let better := (List.range 160).any fun k =>
      match s.victimSet need k (vs k) with
      | some w => victimLt (s.victimRank w) (s.victimRank v)
      | none => false
    if better then none else some (v.foldl (fun s c => s.preemptSet c) s)

/-- Pre-emption on behalf of a READY head that fits nowhere: what it frees goes to that launch first. -/
def preemptLaunch (s : State) (l : Launch) (core : Nat) (vs : Nat → List Crew) : State :=
  match s.preemptFor (launchNeed l) core vs with
  | some s' => s'.modLaunch l.seq fun l => { l with claim := if l.claim.contains core then l.claim else core :: l.claim }
  | none => s

end State

end Sys2Proof.Machine
end

