-- ==== Sys2Proof/Machine/Control.lean ====
section
/-!
DEFINITION. The host-visible registers as they act: mailbox, scheduler commands, invalidations, fault queues, bad-page list,
ports, and the read and write of any BAR0 or BAR2 register (R5, R55 to R62, R77, R101, R182 to R190 and the chapters' maps).
Offsets below 2^24 are BAR0; offset 2^24 + o is BAR2 offset o. The control window of R162 uses the physical function's layout.
-/
namespace Sys2Proof.Machine

open State

namespace State

/-- The host reaches a BAR: power-on is complete and the PCI Express link is up (R17, R20). -/
def hostUp (s : State) : Bool := s.pkg.up && s.pkg.linkUp

/-- MG_ALERT_N is asserted (R21). -/
def mgAlert (s : State) : Bool :=
  decide (s.mcstat 62 1 = 1) || decide (1 ≤ s.thermState 0) || decide (1 ≤ s.thermState 1) || s.safePoint 0 || s.safePoint 1

/-! ### The management mailbox (R77) -/

/-- Start a mailbox command, from the physical function or the sideband. -/
def mbStart (s : State) (side : Bool) (v : Word) : State :=
  match s.pkg.mb with
  | some _ => s
  | none =>
    let c : MbCmd := { side, op := fld v 56 8, arg := fld v 48 8, len := fld v 32 16, value := fld v 0 32 }
    ({ s with pkg := { s.pkg with mb := some c } }).setRegFld rMBSTAT 63 1 1

/-! ### Invalidations (R182, R329) -/

/-- Start the host's invalidation. -/
def tlbInvStart (s : State) (op tenant asid : Nat) : State :=
  if op = 0 ∨ s.invals.any (·.host) then s
  else
    let page := fld (s.reg rTLBINVVA) 17 36
    { s with invals := s.invals ++ [{ host := true, slot := 0, op, tenant, asid, page }] }

/-- Whether a cached translation is removed: op 1 the tenant, 2 one ASID, 3 one page and any G entry covering it. -/
def invHits (v : Inval) (e : TlbEntry) : Bool :=
  let g := decide (e.flags / 64 % 2 = 1)
  let covers := decide (e.page = v.page) || (decide (e.reach = 1) && decide (e.page / 32 = v.page / 32))
    || (decide (e.reach = 2) && decide (e.page / 4096 = v.page / 4096))
  decide (e.tenant = v.tenant)
  && (if v.op = 1 then true else if v.op = 2 then !g && decide (e.asid = v.asid) else covers && (g || decide (e.asid = v.asid)))

/-- Write every dirty line of every scalar data cache to its home. -/
def writeBackAll (s : State) : State := (s.dcache.map (·.1)).foldl (fun s k => s.writeBack (k % 256) (k / 256)) s

/-- Whether an invalidation may remove the translation of an address of a crew. -/
def invReaches (v : Inval) (c : Crew) (va : Nat) : Bool :=
  decide (c.tenant = v.tenant)
  && (decide (v.op = 1) || (decide (v.op = 2) && decide (c.asid = v.asid))
      || (decide (v.op = 3) && decide (va / 2 ^ 29 = v.page / 2 ^ 12)))

/-- Accesses that were translated with what an invalidation removes and are not performed: completion writes, elements
that a write stream holds, queued and posted stores, answers awaited by instructions and by channels, and the filling of
a page by a channel that runs (R182). -/
def invWaits (s : State) (v : Inval) : Bool :=
  (s.launches.any fun p => decide (p.2.fn = v.tenant) && p.2.doneTag.isSome)
  || s.allCrews.any fun c => (s.crewHarts c).any fun p =>
    let h := p.2
    (h.ds.toList.any fun d => d.pend.any fun e => invReaches v c e.va)
    || (h.posted.any fun q => !q.bad && invReaches v c q.va)
    || (decide (c.tenant = v.tenant) && (!h.asked.isEmpty || h.lockRun.isSome || !h.stq.isEmpty || h.cp.toList.any fun k => k.ask.isSome))
    || (decide (c.place = .resident) && h.cp.toList.any fun k =>
          decide (k.st = 1) && decide (k.done < k.regd) && invReaches v c (k.dst + k.done))

/-- Registrations of copies that have stopped are translated again when the copy goes on. -/
def invRegs (s : State) (v : Inval) : State :=
  { s with cregs := s.cregs.map fun r =>
      match s.getCrew (r.slot / 32), s.getHart r.slot with
      | some c, some h =>
        if hc : r.chan < 4 then (if invReaches v c (h.cp[r.chan].dst + h.cp[r.chan].done) then { r with stale := true } else r) else r
      | _, _ => r }

/-- The oldest invalidation completes: removed translations are nowhere held, and accesses made with them are performed. -/
def invDone (s : State) : State :=
  match s.invals with
  | [] => s
  | v :: vs =>
    if s.invWaits v then s
    else
      let s := { s with
        invals := vs, tlb := s.tlb.filter fun e => !invHits v e
        walks := s.walks.filter fun e => decide (e.tenant ≠ v.tenant) }
      let s := (s.writeBackAll).invRegs v
      if v.host then s else s.modHart v.slot fun h => { h with answers := FMap.insert 0 (.value 0) h.answers }

/-! ### Fault queues (R184, R185) -/

/-- Waiting records enter a queue that has space. -/
def fqDrain (s : State) (fn : Nat) : State :=
  match s.fqWait.find? (fun p => decide (p.1 = fn)) with
  | none => s
  | some p =>
    if (FMap.getD [] fn s.fq).length < 256 then
      ({ s with fqWait := s.fqWait.erase p, fq := FMap.insert fn (FMap.getD [] fn s.fq ++ [p.2]) s.fq }).msix fn 3
    else s

/-- A read of FQDATA0. -/
def fqRead (s : State) (fn : Nat) : Word × State :=
  let latch (r : FqRec) (s : State) : State :=
    ((s.setReg (fnKey fn (rFQDATA 1)) r.w1).setReg (fnKey fn (rFQDATA 2)) r.w2).setReg (fnKey fn (rFQDATA 3)) r.w3
  match FMap.getD [] fn s.fq with
  | [] => (0, latch { w0 := 0, w1 := 0, w2 := 0, w3 := 0 } s)
  | r :: rs =>
    let s := { s with fq := if rs.isEmpty then FMap.erase fn s.fq else FMap.insert fn rs s.fq }
    (r.w0, (latch r s).fqDrain fn)

/-- Every hart of a crew continues from where it stopped. -/
def unfault (s : State) (c : Crew) : State :=
  let s := s.modCrew c.uid fun c => { c with faulted := false }
  (List.range c.hg).foldl (fun s i => s.modHart (slotOf c.uid i) fun h => { h with stopped := false }) s

/-- A write of FQRESUME. A crew that is not FAULTED gives NOCREW, whoever writes (log 57). -/
def fqResume (s : State) (fn crew launch : Nat) : State :=
  let result (s : State) (r : Nat) : State := s.setRegFld (fnKey fn rFQSTAT) 40 8 r
  match (s.crewsOf fun c => c.faulted && decide (c.crewId % 2 ^ 32 = crew) && decide (s.launchId c.launch = launch)) with
  | [] => result s 1
  | c :: _ => if c.tenant ≠ fn then result s 2 else result (s.unfault c) 0

/-! ### Drop log and fault-address queues (R51, R189) -/

/-- A read of IXDROP. -/
def ixdrop (s : State) : Word × State :=
  match s.drops with
  | [] => (0, s)
  | w :: ws => (w ||| BitVec.ofNat 64 (s.dropLost % 256), { s with drops := ws, dropLost := 0 })

/-- A read of word 0 of a stack's fault-address queue. -/
def faqRead (s : State) (k : Nat) : Word × State :=
  match FMap.getD [] k s.faq with
  | [] => (0, s.setReg (rFAQ k + 8) 0)
  | r :: rs =>
    let lost := FMap.getD 0 k s.faqLost
    let w := BitVec.ofNat 64 (2 ^ 63 + r.type * 2 ^ 60 + Nat.min 255 r.count * 2 ^ 52 + Nat.min 255 lost * 2 ^ 44 + r.pa % 2 ^ 39)
    let s := { s with
      faq := if rs.isEmpty then FMap.erase k s.faq else FMap.insert k rs s.faq
      faqLost := FMap.erase k s.faqLost }
    (w, s.setReg (rFAQ k + 8) (BitVec.ofNat 64 (r.pch * 2 ^ 56 + r.time % 2 ^ 48)))

/-- Note an error on a line in its stack's queue (R189): a second one raises COUNT, one beyond 512 is lost. -/
def faqNote (s : State) (k type pa : Nat) : State :=
  let pch := Config.pseudoChannel (pa / 64) % 160
  let q := FMap.getD [] k s.faq
  if q.any (fun r => decide (r.pa = pa)) then
    { s with faq := FMap.insert k (q.map fun r => if r.pa = pa then { r with count := Nat.min 255 (r.count + 1) } else r) s.faq }
  else if q.length < 512 then
    { s with faq := FMap.insert k (q ++ [{ type, count := 1, pa, pch, time := s.time }]) s.faq }
  else { s with faqLost := FMap.insert k (Nat.min 255 (FMap.getD 0 k s.faqLost + 1)) s.faqLost }

/-- The address of a DRAM byte within its stack (R164). -/
def stackLocal (pa : Nat) : Nat := pa / 2 ^ 15 * 2 ^ 12 + pa % 2 ^ 12

/-- Where a shared-store byte lies on its die (R166): bank group, bank of the group, and line of the bank. -/
def storeIndex (o : Nat) : Nat := o / 2 ^ 18 * 64 + o / 2 ^ 6 % 64
def storeGroup (o : Nat) : Nat := o / 2 ^ 12 % 64
def storeBank (o : Nat) : Nat := storeIndex o % 12
def storeLine (o : Nat) : Nat := storeIndex o / 12

/-! ### The bad-page list (R190) -/

/-- A write of BPLADD. -/
def bplAdd (s : State) (frame : BitVec 22) : State :=
  if s.bplBusy.isSome then s
  else
    let e : BitVec 32 := frame.setWidth 32 ||| (if bit (s.reg rMEMSTAT) 55 then 0x400000 else 0)
    let result (s : State) (r : Nat) : State := s.setRegFld rBPLSTAT 60 3 r
    if 8192 ≤ s.bpl.length then result s 1
    else if s.bpl.contains e then result s 2
    else if s.dramBytes ≤ frame.toNat * 2 ^ 17 then result s 3
    else { s with bpl := s.bpl ++ [e], bplBusy := some e }

/-- The flash write of an entry ends. -/
def bplDone (s : State) (ok : Bool) : State :=
  match s.bplBusy with
  | none => s
  | some e =>
    let s := { s with bplBusy := none, bplTemp := if ok then s.bplTemp else e :: s.bplTemp }
    s.setRegFld rBPLSTAT 60 3 (if ok then 0 else 4)

/-! ### Locked ranges (R172) and gating of cache ways (R129) -/

/-- Lines that no range covers any more return to normal replacement. -/
def unlock (s : State) : State := { s with locked := s.locked.filter s.lockCovers }

/-- Poisoned DRAM lines that a newly gated way held are written to DRAM with the poison code and recorded (R129, R189); which
way holds a line is open (log 9). -/
def gateFlush (s : State) (k : Nat) : State :=
  (s.pois.filter fun p => decide (p.1 * 64 < s.dramBytes) && decide (s.stackOf (p.1 * 64) = k)).foldl (fun (s : State) p =>
    let (b, s) := s.takeFree
    if bit b 0 then s.faqNote k 5 (p.1 * 64) else s) s

/-- Gate the ways asked for and those of cap level 9 or above; a way with a locked line stays ungated (log 9). -/
def gateWays (s : State) (k : Nat) : State :=
  let r := s.reg (rSTKCTL k)
  let want := fld r 32 16 ||| (if 9 ≤ s.capLevel then 0xFF00 else 0)
  let lockedWay (w : Nat) : Bool := s.locked.any fun l => decide (s.stackOf (l * 64) = k) && decide (Config.cacheWay l % 16 = w)
  let ok (w : Nat) : Bool := !lockedWay w && !(decide (want = 0xFFFF) && decide (w = 0))
  let off := (List.range 16).foldl (fun a w => if want / 2 ^ w % 2 = 1 ∧ ok w then a + 2 ^ w else a) 0
  let was := fld r 16 16
  let s := s.setRegFld (rSTKCTL k) 16 16 off
  let s := if off &&& was = off then s else s.gateFlush k
  if off = want then s else s.setRegFld (rSTKCTL k) 48 1 1

/-- A request for ways of a stack. -/
def wayRequest (s : State) (k : Nat) (ways : BitVec 16) : State :=
  if k < 8 then (s.setRegFld (rSTKCTL k) 32 16 ways.toNat).gateWays k else s

/-! ### Link ports (R26, R52) -/

def setPortState (s : State) (n st : Nat) : State := s.setRegFld (rIXPSTAT n) 60 4 st

/-- A write of ADMINDOWN: 1 holds the port DISABLED, 1 then 0 starts a fresh training. -/
def adminDown (s : State) (n : Nat) (v : Bool) : State :=
  if 6 ≤ n then s
  else
    let was := bit (s.reg (rIXPSTAT n)) 2
    let s := s.setRegFld (rIXPSTAT n) 2 1 (b2n v)
    if v then (s.setPortState n 0).setRegFld (rIXPSTAT n) 58 2 0
    else if was then s.setPortState n 1
    else s

/-- CLRCNT clears the port's counters. -/
def clrCnt (s : State) (n : Nat) : State := if n < 6 then s.setReg (rIXPCNT n) 0 else s

/-- A write of IXPSTATn: ADMINDOWN, DOWNSEEN and CLRCNT. -/
def ixpWrite (s : State) (n : Nat) (v : Word) : State :=
  let s := s.adminDown n (bit v 2)
  let s := if bit v 1 then s.setRegFld (rIXPSTAT n) 1 1 0 else s
  if bit v 0 then s.clrCnt n else s

/-- A write of IXCFG (R27): position and shape are fixed while FABEN is 1; FABEN going to 0 takes endpoints with a peer on
another device DOWN (R46). -/
def ixcfgWrite (s : State) (v : Word) : State :=
  let on := s.faben
  let s := s.maskWrite rIXCFG (if on then 0x80000000FFFF0000 else 0x8007FFF0FFFF0FFF) 0 v
  if on && !bit v 63 then s.lqDownIf (fun _ => true) else s

/-! ### Scheduler commands (R101) -/

/-- The crews of a launch that have not ended. -/
def launchCrews (s : State) (seq : Nat) : List Crew := s.crewsOf fun c => decide (c.launch = seq)

/-- Stop a launch's crews by name (R98, R101, R113): the launch is held, its resident crews are pre-empted. -/
def holdLaunch (s : State) (l : Launch) : State :=
  let s := s.modLaunch l.seq fun l => { l with held := true }
  (s.launchCrews l.seq).foldl (fun (s : State) (c : Crew) => (s.modCrew c.uid fun c => { c with heldBy := true }).preemptCrew c.uid) s

/-- A crew that was to be saved and found no room runs on where it is (R98). -/
def runOn (s : State) (c : Crew) : State :=
  if c.place = .leaving ∧ !s.ctxRoom c then
    let s := (List.range 16).foldl (fun (s : State) q =>
      if (s.lqEnd c.uid q).leaving then s.putEnd c.uid q { s.lqEnd c.uid q with leaving := false } else s) s
    (s.modCrew c.uid fun c => { c with place := .resident }).lqReturn c.uid
  else s

/-- RESUME: HUNG and HELD are cleared and watchdog windows restart (R101, R113); a crew that could not be saved runs on. -/
def resumeLaunch (s : State) (l : Launch) : State :=
  let s := s.modLaunch l.seq fun l => { l with held := false, hung := false }
  (s.launchCrews l.seq).foldl (fun (s : State) (c : Crew) =>
    (s.modCrew c.uid fun c => { c with heldBy := false, hung := false, window := 0 }).runOn c) s

/-- ABORT's immediate part: the launch's queued entry and unstarted instances are discarded and its resident and saved crews
scrubbed; crews being saved are scrubbed when the save completes (R101, R104). -/
def abortLaunch (s : State) (l : Launch) : State :=
  let s := (s.launchCrews l.seq).foldl (fun (s : State) c => s.tally c.uid) s
  let cs := s.launchCrews l.seq
  let s := s.modLaunch l.seq fun l =>
    { l with st := .done, held := true, energy := l.energy + (cs.map (·.energy.toNat)).foldl (· + ·) 0 }
  let s := cs.foldl (fun s c => if c.place = .leaving then s else s.scrub c.uid) s
  s.settle

/-- A write of SCHCMD. -/
def schCmd (s : State) (fn : Nat) (v : Word) : State :=
  let k := fnKey fn rSCHRES
  if bit (s.reg k) 63 then s
  else
    let op := fld v 60 4
    let id := fld v 0 32
    let reply (s : State) (busy : Bool) (r : Nat) : State := s.setReg k (BitVec.ofNat 64 (b2n busy * 2 ^ 63 + r * 2 ^ 48 + id))
    if op = 0 ∨ 3 < op ∨ fld v 32 27 ≠ 0 then reply s false 4
    else
      match s.launchList.find? (fun l => decide (l.id = id) && decide (l.st ≠ .done)) with
      | none => reply s false 1
      | some l =>
        if l.fn ≠ fn then reply s false 2
        else if op = 1 ∧ !l.hung ∧ !l.held then reply s false 3
        else
          let s := reply s true 0
          let s : State := { s with cmds := s.cmds ++ [{ fn, op, seq := l.seq, done := bit v 59 }] }
          if op = 1 then s.resumeLaunch l
          else if op = 2 then s.abortLaunch l
          else s.holdLaunch l

/-- A command has finished acting: for PREEMPT when no crew of the launch is still leaving, for ABORT when none is left; then
an ABORT with DONE performs steps 4 and 5 of R68. -/
def schCmdEnd (s : State) (fn : Nat) : State :=
  match s.cmds.find? (fun c => decide (c.fn = fn)) with
  | none => s
  | some c =>
    let cs := s.launchCrews c.seq
    let ended := if c.op = 1 then true else if c.op = 2 then cs.isEmpty else cs.all fun (d : Crew) => decide (d.place ≠ .leaving) || !s.ctxRoom d
    if !ended then s
    else
      let s : State := { s with cmds := s.cmds.erase c }
      let s := s.setRegFld (fnKey fn rSCHRES) 63 1 0
      if c.op = 2 then
        match FMap.find c.seq s.launches with
        | none => s
        | some l =>
          let s := if c.done then (s.doneAdd l.words).doneMsix l else s
          (s.dropLaunch l true).settle
      else s

/-! ### Launch-port and queue status (R60, R69) -/

/-- Record a rejection of a port. -/
def portReject (s : State) (p cause : Nat) : State :=
  let k := lpKey p 0x100
  let n := lpKey p 0x108
  let c := s.reg (lpKey p 0x110)
  let s := (s.setRegFld k 63 1 1).setRegFld k 48 8 cause
  let s := s.setRegFld n 0 32 (Nat.min (2 ^ 32 - 1) (fld (s.reg n) 0 32 + 1))
  if bit c 23 ∧ 4 ≤ fld c 16 7 then s.msix (s.portOwner p) (fld c 16 7) else s

/-- LPSTAT or DQSTAT as read: the stored fields with FREE computed. -/
def queueStat (s : State) (k q : Nat) : Word := setFld (s.reg k) 40 8 (queueSize q - s.queueUsed q)

/-- Energy of a launch by ID, as ENLR returns it (R112). -/
def enlr (s : State) (fn : Nat) : Word :=
  let q := s.reg (fnKey fn rENLQ)
  if fld q 32 32 ≠ 0 then 0
  else
    match s.gov.enl.find? (fun e => decide (e.id = fld q 0 32) && decide (e.fn = fn)) with
    | some e => BitVec.ofNat 64 (2 ^ 63 + b2n e.aborted * 2 ^ 62 + e.energy % 2 ^ 48)
    | none => 0

/-! ### Reading a register -/

/-- The identity register (R56). -/
def ident : Word :=
  BitVec.ofNat 64 (0x1F3D * 2 ^ 48 + 0x0940 * 2 ^ 32 + Config.stepping.toNat * 2 ^ 24 + Config.leakageBin.toNat % 16 * 2 ^ 20)

/-- Registers of a function that every function sees. -/
def seenByAll (off : Nat) : Bool :=
  [rMCSTAT, rPWRSTAT, rDEVENERGY, rMEMSTAT].contains off || inArr off (rTSENS 0) 8 72

/-- Registers only the physical function sees, whose stored value is what a read returns. -/
def seenByPf (off : Nat) : Bool :=
  [rMBSTAT, rSCHCFG, rAGETHR, rSCHOVF, rPWRCFG, rBALENERGY, rTLBINVVA, rBPLIDX, rIXCFG, rDUMPSTAT, rDQOWN, rCTROWN].contains off
  || inArr off rMBDATA 8 512 || inArr off (rTENCFG 0) 8 16 || inArr off rPORTOWN 8 4 || inArr off (rAPERTURE 0) 8 64
  || inArr off (rSCHTW 0) 8 16 || inArr off (rTENBUD 0) 8 16 || inArr off (rSTKCTL 0) 8 8 || inArr off (rOPT 0) 8 2048
  || inArr off (rTENPT 0) 8 16 || inArr off (rMSCLK 0) 8 16 || inArr off (rRTVEC 0) 8 16 || inArr off (rIXPSTAT 0) 0x20 6
  || inArr off (rIXPCNT 0) 0x20 6 || inArr off (rGROUP 0) 8 65536 || inArr off (rFAQ 0 + 8) 16 8

/-- PWRSTAT as read: SYNTH and BALCREWS are counted (R130). -/
def pwrstat (s : State) : Word :=
  let synth := s.gov.ballast.any fun b => match b with | .synth .. => true | .crew _ => false
  let crews := (s.crewsOf fun c => decide (s.crewClass c = 7) && (decide (c.place = .resident) || decide (c.place = .leaving))).length
  setFld (setFld (s.reg rPWRSTAT) 40 1 (b2n synth)) 32 8 (Nat.min 255 crews)

/-- A read of an energy register: what has been used since the last calibration enters it, an open amount (R109, log 16). -/
def energyRead (s : State) (k : Nat) : Word × State :=
  let (v, s) := s.takeFree
  let n := fld v 0 20
  let s := s.setReg k (s.reg k + BitVec.ofNat 64 n)
  (s.reg k, { s with gov := { s.gov with est := FMap.setD 0 k (FMap.getD 0 k s.gov.est + n) s.gov.est } })

/-- A read of a BAR0 register by a function. -/
def bar0Read (s : State) (fn off : Nat) : Word × State :=
  let pf := decide (fn = 0)
  if off = rIDENT then (ident, s)
  else if off = rFNID then (BitVec.ofNat 64 fn, s)
  else if off = rPWRSTAT then (s.pwrstat, s)
  else if off = rDEVENERGY then s.energyRead off
  else if off = rMEMSTAT then (setFld (s.reg off) 54 1 (b2n s.lockOvf), s)
  else if seenByAll off then (s.reg off, s)
  else if inArr off rCTR 8 1024 then
    let n := (off - rCTR) / 8
    (if s.ctrOwner n = fn then (s.ctr n).setWidth 64 else 0, s)
  else if inArr off (rDQSTAT 0) 8 16 then
    let q := (off - rDQSTAT 0) / 8
    (if s.dqOwner q = fn then s.queueStat off (64 + q) else 0, s)
  else if off = rW4CFG ∨ off = rW4ERR ∨ off = rSCHRES then (s.reg (fnKey fn off), s)
  else if off = rENLR then (s.enlr fn, s)
  else if inArr off (rTENUSED 0) 8 16 then (if pf || decide (off = rTENUSED fn) then s.energyRead off else (0, s))
  else if off = rFQDATA 0 then s.fqRead fn
  else if inArr off (rFQDATA 1) 8 3 then (s.reg (fnKey fn off), s)
  else if off = rFQSTAT then (setFld (s.reg (fnKey fn off)) 0 9 (FMap.getD [] fn s.fq).length, s)
  else if !pf then (0, s)
  else if off = rBALENERGY then s.energyRead off
  else if seenByPf off then (s.reg off, s)
  else if off = rTLBINV then (BitVec.ofNat 64 (b2n (s.invals.any (·.host))), s)
  else if off = rBPLSTAT then
    (setFld (setFld (s.reg off) 63 1 (b2n s.bplBusy.isSome)) 0 14 s.bpl.length, s)
  else if off = rBPLENT then
    ((s.bpl.getD (fld (s.reg rBPLIDX) 0 13) 0).setWidth 64, s)
  else if off = rIXDROP then s.ixdrop
  else if inArr off (rFAQ 0) 16 8 then s.faqRead ((off - rFAQ 0) / 16)
  else (0, s)

/-- A read of a BAR2 register: LPSTAT, LPCNT and LPCFG of an owned port (R60). -/
def bar2Read (s : State) (fn off : Nat) : Word :=
  let p := off / 4096
  let r := off % 4096
  if s.portOwner p ≠ fn then 0
  else if r = 0x100 then s.queueStat (lpKey p r) p
  else if r = 0x108 ∨ r = 0x110 then s.reg (lpKey p r)
  else 0

/-- A read of a register, 8 bytes at an 8-byte offset. -/
def barRead (s : State) (fn off : Nat) : Word × State :=
  if off % 8 ≠ 0 then (0, s)
  else if off < 2 ^ 24 then s.bar0Read fn off
  else if off < 2 ^ 24 + 2 ^ 18 then (s.bar2Read fn (off - 2 ^ 24), s)
  else (0, s)

/-! ### Writing a register -/

/-- Whether a crew is resident or saved, which freezes the shadow reserves (R91). -/
def anyCrew (s : State) : Bool := !(s.crewsOf fun _ => true).isEmpty

/-- A write of SCHCFG (R91). -/
def schcfgWrite (s : State) (v : Word) : State :=
  let s := s.setRegFld rSCHCFG 63 1 (b2n (bit v 63))
  if s.anyCrew then s
  else (s.setRegFld rSCHCFG 8 6 (Nat.min 48 (fld v 8 6))).setRegFld rSCHCFG 0 6 (Nat.min 48 (fld v 0 6))

/-- A write of PWRCFG (R117). -/
def pwrcfgWrite (s : State) (v : Word) : State :=
  let s := s.maskWrite rPWRCFG 0x6FFFF0000 0 v
  s.setRegFld rPWRCFG 0 16 (Nat.max 400 (Nat.min 1650 (fld v 0 16)))

/-- A write of TENBUDt (R114). -/
def tenbudWrite (s : State) (off : Nat) (v : Word) : State :=
  let s := s.maskWrite off 0x8000FFFFFFFFFFFF 0 v
  if fld v 32 16 = 0 then s.setRegFld off 32 16 1 else s

/-- Registers of the physical function with behaviour of their own. -/
def pfWrite (s : State) (off : Nat) (v : Word) : State :=
  if off = rMBCMD then s.mbStart false v
  else if off = rSCHCFG then s.schcfgWrite v
  else if off = rPWRCFG then s.pwrcfgWrite v
  else if inArr off (rTENBUD 0) 8 16 then s.tenbudWrite off v
  else if inArr off (rSTKCTL 0) 8 8 then
    (s.maskWrite off 0 0x1000000000000 v).wayRequest ((off - rSTKCTL 0) / 8) (BitVec.ofNat 16 (fld v 32 16))
  else if inArr off (rOPT 0) 16 1024 then s.setReg off v
  else if inArr off (rOPT 0 + 8) 16 1024 then s.maskWrite off 0xC01FFFFFFF9FFFFF 0 v
  else if inArr off (rMSCLK 0) 8 16 then
    (s.maskWrite off 0x8000FF7FFFFE0000 0 v).unlock
  else if off = rTLBINV then s.tlbInvStart (fld v 62 2) (fld v 58 4) (fld v 46 12)
  else if off = rBPLADD then s.bplAdd (BitVec.ofNat 22 (fld v 0 22))
  else if off = rIXCFG then s.ixcfgWrite v
  else if inArr off (rIXPSTAT 0) 0x20 6 then s.ixpWrite ((off - rIXPSTAT 0) / 0x20) v
  else
    match regRows.find? (fun r => inArr off r.base r.stride r.count && decide (r.own = 0)) with
    | some r => s.maskWrite off r.rw r.w1c v
    | none => s

/-- A write of a BAR0 register by a function. -/
def bar0Write (s : State) (fn off : Nat) (v : Word) : State :=
  if inArr off rCTR 8 1024 then
    let n := (off - rCTR) / 8
    if s.ctrOwner n = fn then s.setCtr n (v.setWidth 32) else s
  else if inArr off rCTRADD 8 1024 then
    let n := (off - rCTRADD) / 8
    if s.ctrOwner n = fn then s.addCtr n (v.setWidth 32) else s
  else if inArr off (rDQSTAT 0) 8 16 then
    if s.dqOwner ((off - rDQSTAT 0) / 8) = fn then s.maskWrite off 0 (fieldMask 63 1) v else s
  else if off = rW4CFG then s.maskWrite (fnKey fn off) (if fn = 0 then 0x801FFFFFFFFE0FFF else 0x001FFFFFFFFE0FFF) 0 v
  else if off = rW4ERR then if bit v 63 then s.setReg (fnKey fn off) 0 else s
  else if off = rSCHCMD then s.schCmd fn v
  else if off = rENLQ then s.setReg (fnKey fn off) v
  else if off = rFQSTAT then s.maskWrite (fnKey fn off) 0 (fieldMask 32 8) v
  else if off = rFQRESUME then s.fqResume fn (fld v 32 32) (fld v 0 32)
  else if fn = 0 then s.pfWrite off v
  else s

/-- A write of a BAR2 register that is no launch packet; one that touches the packet window is discarded and counted
PARTIAL (R60). -/
def bar2Write (s : State) (fn off : Nat) (v : Word) : State :=
  let p := off / 4096
  let r := off % 4096
  if r < 0x40 then s.portReject p 0x01
  else if s.portOwner p ≠ fn then s
  else if r = 0x100 then s.maskWrite (lpKey p r) 0 (fieldMask 63 1) v
  else if r = 0x110 then s.maskWrite (lpKey p r) 0x80FF0FFF 0 v
  else s

/-- A write of eight bytes: of a register at an 8-byte offset; at another it can only touch a packet window (R60). -/
def barWrite (s : State) (fn off : Nat) (v : Word) : State :=
  if off % 8 ≠ 0 then (if 2 ^ 24 ≤ off ∧ off < 2 ^ 24 + 2 ^ 18 ∧ off % 4096 < 0x40 then s.bar2Write fn (off - 2 ^ 24) v else s)
  else if off < 2 ^ 24 then s.bar0Write fn off v
  else if off < 2 ^ 24 + 2 ^ 18 then s.bar2Write fn (off - 2 ^ 24) v
  else s

/-! ### The management sideband (R21) -/

/-- The BAR0 offset of the register at a sideband index. -/
def sideReg (i : Nat) : Option Nat :=
  if i = 0 then some rIDENT
  else if i = 1 then some rMCSTAT
  else if i = 2 then some rPWRSTAT
  else if i = 3 then some rDUMPSTAT
  else if 0x10 ≤ i ∧ i ≤ 0x57 then some (rTSENS (i - 0x10))
  else if i = 0x100 then some rMBCMD
  else if i = 0x101 then some rMBSTAT
  else if 0x1000 ≤ i ∧ i ≤ 0x11FF then some (rMBDATA + 8 * (i - 0x1000))
  else none

/-- A register as the sideband reads it; an index with no register reads zero. -/
def sideRead (s : State) (i : Nat) : Word :=
  match sideReg i with
  | some off => (s.bar0Read 0 off).1
  | none => 0

/-- A write of a register by index over the sideband: MBCMD and MBDATA alone, while VAUX is up. -/
def sideWrite (s : State) (i : Nat) (v : Word) : State :=
  if !s.pkg.vaux then s
  else
    match sideReg i with
    | none => s
    | some off => if off = rMBCMD then s.mbStart true v else if inArr off rMBDATA 8 512 then s.setReg off v else s

/-- The address at which the management controller answers: the dynamic one once it is assigned, else 0x3A. -/
def i3cAddress (s : State) : BitVec 7 := s.pkg.i3c.getD 0x3A

/-- A transaction: the two bytes of an index, and after them eight bytes to write or a read of eight. -/
def sideTransact (s : State) (addr : BitVec 7) (bytes : List Byte) (read : Bool) : State :=
  if !s.pkg.vaux || decide (addr ≠ s.i3cAddress) then s
  else
    let i := ofBytesLE (bytes.take 2)
    if bytes.length = 2 ∧ read then s.emit (.side (bytesLE 8 (s.sideRead i).toNat))
    else if bytes.length = 10 ∧ !read then s.sideWrite i (BitVec.ofNat 64 (ofBytesLE (bytes.drop 2)))
    else s

/-- An octet on MG_UART_TX: a start bit, eight data bits from the least significant, no parity, one stop bit (R21). -/
def uartFrame (b : Byte) : List Bool := false :: (List.range 8).map (fun i => b.toNat.testBit i) ++ [true]

/-- Firmware writes text of its event log, which the manual leaves to it (log 78). -/
def uartText (s : State) (text : List Byte) : State := if s.pkg.vaux then s.emit (.uart (text.flatMap uartFrame)) else s

end State

end Sys2Proof.Machine
end

