-- ==== Sys2Proof/Machine/Float.lean ====
section
/-!
DEFINITION. Floating-point formats, rounding and the operations on bits (11_numbers R259 to R279). Every operation is computed on
exact values m × 2^e and rounded once. A result is a pair of bits and flags as VFLAGS numbers them (R264).
-/
namespace Sys2Proof.Machine

/-- A floating-point format (R259). -/
structure Fmt where
  w    : Nat
  p    : Nat
  bias : Nat
  e4m3 : Bool
  deriving DecidableEq, Repr

def fp64 : Fmt := ⟨64, 52, 1023, false⟩
def fp32 : Fmt := ⟨32, 23, 127, false⟩
def fp16 : Fmt := ⟨16, 10, 15, false⟩
def bf16 : Fmt := ⟨16, 7, 127, false⟩
def e5m2 : Fmt := ⟨8, 2, 15, false⟩
def e4m3 : Fmt := ⟨8, 3, 7, true⟩

/-- Flags of R264. -/
def fNX : Nat := 1
def fUF : Nat := 2
def fOF : Nat := 4
def fDZ : Nat := 8
def fNV : Nat := 16
def fIOV : Nat := 32
def fSAT : Nat := 64
def fNANK : Nat := 128

/-- A result: its bits and the flags it raises. -/
abbrev FRes := Nat × Nat

namespace Fmt

def ebits (f : Fmt) : Nat := f.w - 1 - f.p
def sign (f : Fmt) (x : Nat) : Bool := decide (x / 2 ^ (f.w - 1) % 2 = 1)
def expo (f : Fmt) (x : Nat) : Nat := x / 2 ^ f.p % 2 ^ f.ebits
def frac (f : Fmt) (x : Nat) : Nat := x % 2 ^ f.p
def allOnes (f : Fmt) : Nat := 2 ^ f.ebits - 1
/-- Sign bit in place. -/
def sgn (f : Fmt) (neg : Bool) : Nat := if neg then 2 ^ (f.w - 1) else 0

def isNaN (f : Fmt) (x : Nat) : Bool :=
  decide (f.expo x = f.allOnes) && (if f.e4m3 then decide (f.frac x = 2 ^ f.p - 1) else decide (f.frac x ≠ 0))
def isInf (f : Fmt) (x : Nat) : Bool := !f.e4m3 && decide (f.expo x = f.allOnes) && decide (f.frac x = 0)
/-- Signalling: fraction MSB 0; the E4M3 NaN never signals. -/
def isSNaN (f : Fmt) (x : Nat) : Bool := f.isNaN x && !f.e4m3 && decide (f.frac x < 2 ^ (f.p - 1))
def isZero (f : Fmt) (x : Nat) : Bool := decide (f.expo x = 0) && decide (f.frac x = 0)
/-- A NaN quietened (R266). -/
def quiet (f : Fmt) (x : Nat) : Nat := if f.e4m3 then x else x ||| 2 ^ (f.p - 1)

/-- The default NaN (R265). -/
def defNaN (f : Fmt) : Nat := if f.e4m3 then 0x7F else f.allOnes * 2 ^ f.p + 2 ^ (f.p - 1)
/-- The pivot NaN of FP32 and FP64 (R265). -/
def pivNaN (f : Fmt) : Nat := f.defNaN + 0xA11
def inf (f : Fmt) (neg : Bool) : Nat := f.sgn neg + f.allOnes * 2 ^ f.p
/-- Largest finite magnitude, as bits. -/
def maxMag (f : Fmt) : Nat := if f.e4m3 then 0x7E else f.allOnes * 2 ^ f.p - 1
def maxFin (f : Fmt) (neg : Bool) : Nat := f.sgn neg + f.maxMag
def zero (f : Fmt) (neg : Bool) : Nat := f.sgn neg

/-- Significand and exponent of a finite value: |x| = m × 2^e. -/
def mag (f : Fmt) (x : Nat) : Nat × Int :=
  if f.expo x = 0 then (f.frac x, 1 - (f.bias : Int) - f.p)
  else (2 ^ f.p + f.frac x, (f.expo x : Int) - f.bias - f.p)

/-- A finite value as an exact signed m × 2^e. -/
def val (f : Fmt) (x : Nat) : Int × Int :=
  let (m, e) := f.mag x
  (if f.sign x then -(m : Int) else m, e)

end Fmt

/-! ### Exact values m × 2^e -/

/-- An exact dyadic number. -/
abbrev Dy := Int × Int

/-- n × 2^k for k ≥ 0. -/
def shlN (n : Int) (k : Int) : Int := n * ((2 ^ k.toNat : Nat) : Int)

def dyAdd (a b : Dy) : Dy :=
  let e := min a.2 b.2
  (shlN a.1 (a.2 - e) + shlN b.1 (b.2 - e), e)
def dyNeg (a : Dy) : Dy := (-a.1, a.2)
def dyMul (a b : Dy) : Dy := (a.1 * b.1, a.2 + b.2)
/-- a < b. -/
def dyLt (a b : Dy) : Bool :=
  let e := min a.2 b.2
  decide (shlN a.1 (a.2 - e) < shlN b.1 (b.2 - e))
def dyEq (a b : Dy) : Bool := !dyLt a b && !dyLt b a

/-! ### Rounding (R262) -/

/-- Whether a magnitude with quotient `r`, remainder class `c` (0 exact, 1 below half, 2 half, 3 above) rounds up under
a mode: 0 RNE, 1 RMM, 2 RTZ, 3 RUP, 4 RDN. -/
def roundsUp (rm : Nat) (neg : Bool) (r c : Nat) : Bool :=
  match rm with
  | 0 => decide (c = 3) || (decide (c = 2) && decide (r % 2 = 1))
  | 1 => decide (2 ≤ c)
  | 2 => false
  | 3 => decide (c ≠ 0) && !neg
  | _ => decide (c ≠ 0) && neg

/-- A magnitude (m, plus a little when `st`) × 2^e in units of 2^q: quotient and remainder class. -/
def inUnits (m : Nat) (e : Int) (st : Bool) (q : Int) : Nat × Nat :=
  let s := q - e
  if s ≤ 0 then (m * 2 ^ (-s).toNat, if st then 1 else 0)
  else
    let k := s.toNat
    let r := m / 2 ^ k
    let d := m % 2 ^ k
    let h := 2 ^ (k - 1)
    (r, if d = 0 then (if st then 1 else 0) else if d < h then 1 else if d = h then (if st then 3 else 2) else 3)

/-- What an overflow gives (R262, R269): under `sat`, the largest finite value with SAT. -/
def overflow (f : Fmt) (rm : Nat) (neg sat : Bool) : FRes :=
  if sat then (f.maxFin neg, fOF + fNX + fSAT)
  else
    let toMax := match rm with
      | 2 => true
      | 3 => neg
      | 4 => !neg
      | _ => false
    (if toMax then f.maxFin neg else if f.e4m3 then f.sgn neg + 0x7F else f.inf neg, fOF + fNX)

/-- Round the magnitude (m, plus a little when `st`) × 2^e, m > 0, to a format. -/
def roundMag (f : Fmt) (rm : Nat) (neg : Bool) (m : Nat) (e : Int) (st sat : Bool) : FRes :=
  let top := (Nat.log2 m : Int) + e
  let emin : Int := 1 - f.bias
  let qmin : Int := emin - f.p
  let q0 := top - f.p
  let q := max q0 qmin
  let (r, c) := inUnits m e st q
  let r := if roundsUp rm neg r c then r + 1 else r
  let bits := (q - qmin).toNat * 2 ^ f.p + r
  if f.maxMag < bits then overflow f rm neg sat
  else
    let (r0, c0) := inUnits m e st q0
    let up0 := if roundsUp rm neg r0 c0 then r0 + 1 else r0
    let tiny := decide (top < emin) && !(decide (top = emin - 1) && decide (up0 = 2 ^ (f.p + 1)))
    (f.sgn neg + bits, if c = 0 then 0 else if tiny then fUF + fNX else fNX)

/-- Round an exact value; `zneg` is the sign of an exact zero. -/
def roundDy (f : Fmt) (rm : Nat) (d : Dy) (zneg : Bool) : FRes :=
  if d.1 = 0 then (f.zero zneg, 0) else roundMag f rm (decide (d.1 < 0)) d.1.natAbs d.2 false false

/-! ### NaNs (R266) -/

/-- NV when any operand signals. -/
def snanFlags (f : Fmt) (xs : List Nat) : Nat := if xs.any f.isSNaN then fNV else 0

/-- The result when some operand is NaN: the first one, quietened. -/
def nanOf (f : Fmt) (xs : List Nat) : Option FRes := (xs.find? f.isNaN).map fun x => (f.quiet x, snanFlags f xs)

/-- An invalid operation. -/
def invalid (f : Fmt) : FRes := (f.defNaN, fNV)

/-! ### Arithmetic -/

/-- Sign of an exact zero sum: of zeros of one sign, that sign; otherwise − under RDN only. -/
def zeroSign (rm : Nat) (a b : Bool) : Bool := if a == b then a else decide (rm = 4)

/-- a + b, or a − b. -/
def fpAddSub (f : Fmt) (rm : Nat) (sub : Bool) (a b : Nat) : FRes :=
  match nanOf f [a, b] with
  | some r => r
  | none =>
    let sb := f.sign b != sub
    if f.isInf a then if f.isInf b && f.sign a != sb then invalid f else (a, 0)
    else if f.isInf b then (f.inf sb, 0)
    else
      let vb := if sub then dyNeg (f.val b) else f.val b
      let z := if f.isZero a && f.isZero b then zeroSign rm (f.sign a) sb else decide (rm = 4)
      roundDy f rm (dyAdd (f.val a) vb) z

def fpAdd (f : Fmt) (rm a b : Nat) : FRes := fpAddSub f rm false a b
def fpSub (f : Fmt) (rm a b : Nat) : FRes := fpAddSub f rm true a b

/-- a × b. -/
def fpMul (f : Fmt) (rm a b : Nat) : FRes :=
  match nanOf f [a, b] with
  | some r => r
  | none =>
    let neg := f.sign a != f.sign b
    if f.isInf a || f.isInf b then if f.isZero a || f.isZero b then invalid f else (f.inf neg, 0)
    else roundDy f rm (dyMul (f.val a) (f.val b)) neg

/-- A quotient of magnitudes, rounded. -/
def divMag (f : Fmt) (rm : Nat) (neg sat : Bool) (a b : Nat × Int) : FRes :=
  let k := 2 * f.p + 8
  let n := a.1 * 2 ^ k
  roundMag f rm neg (n / b.1) (a.2 - b.2 - k) (decide (n % b.1 ≠ 0)) sat

/-- a / b. -/
def fpDiv (f : Fmt) (rm a b : Nat) : FRes :=
  match nanOf f [a, b] with
  | some r => r
  | none =>
    let neg := f.sign a != f.sign b
    if f.isInf a then if f.isInf b then invalid f else (f.inf neg, 0)
    else if f.isInf b then (f.zero neg, 0)
    else if f.isZero b then if f.isZero a then invalid f else (f.inf neg, fDZ)
    else if f.isZero a then (f.zero neg, 0)
    else divMag f rm neg false (f.mag a) (f.mag b)

/-- floor(sqrt n), bit by bit from bit `k − 1` of the root down. -/
def isqrtGo (n : Nat) : Nat → Nat → Nat
  | 0, r => r
  | k + 1, r => let t := r + 2 ^ k; isqrtGo n k (if t * t ≤ n then t else r)

def isqrt (n : Nat) : Nat := isqrtGo n (Nat.log2 n / 2 + 1) 0

/-- The square root. -/
def fpSqrt (f : Fmt) (rm a : Nat) : FRes :=
  match nanOf f [a] with
  | some r => r
  | none =>
    if f.isZero a then (a, 0)
    else if f.sign a then invalid f
    else if f.isInf a then (a, 0)
    else
      let (m, e) := f.mag a
      let k := 2 * f.p + 10 + ((e + 2 * f.p + 10) % 2).toNat
      let n := m * 2 ^ k
      let r := isqrt n
      roundMag f rm false r ((e - k) / 2) (decide (r * r ≠ n)) false

/-- (±(a × b)) ± c, rounded once. -/
def fpFma (f : Fmt) (rm : Nat) (np nc : Bool) (a b c : Nat) : FRes :=
  let bad := (f.isInf a && f.isZero b) || (f.isZero a && f.isInf b)
  match nanOf f [a, b, c] with
  | some r => if bad then (r.1, r.2 ||| fNV) else r
  | none =>
    let sp := (f.sign a != f.sign b) != np
    let sc := f.sign c != nc
    if bad then invalid f
    else if f.isInf a || f.isInf b then if f.isInf c && sc != sp then invalid f else (f.inf sp, 0)
    else if f.isInf c then (f.inf sc, 0)
    else
      let p0 := dyMul (f.val a) (f.val b)
      let p := if np then dyNeg p0 else p0
      let c' := if nc then dyNeg (f.val c) else f.val c
      let z := if p.1 = 0 && c'.1 = 0 then zeroSign rm sp sc else decide (rm = 4)
      roundDy f rm (dyAdd p c') z

/-! ### Comparison, minimum, maximum -/

/-- a < b for operands that are not NaN. -/
def fpLtVal (f : Fmt) (a b : Nat) : Bool :=
  if f.isInf a then f.sign a && !(f.isInf b && f.sign b)
  else if f.isInf b then !f.sign b
  else dyLt (f.val a) (f.val b)

def fpEqVal (f : Fmt) (a b : Nat) : Bool := !fpLtVal f a b && !fpLtVal f b a

/-- Compares: 0 equal, 1 not equal, 2 less, 3 less or equal, 4 greater, 5 greater or equal; and flags (R266). -/
def fpCompare (f : Fmt) (cond a b : Nat) : Bool × Nat :=
  let nan := f.isNaN a || f.isNaN b
  let fl := if cond ≤ 1 then snanFlags f [a, b] else if nan then fNV else 0
  if nan then (decide (cond = 1), fl)
  else
    (match cond with
      | 0 => fpEqVal f a b
      | 1 => !fpEqVal f a b
      | 2 => fpLtVal f a b
      | 3 => !fpLtVal f b a
      | 4 => fpLtVal f b a
      | _ => !fpLtVal f a b, fl)

/-- Minimum or maximum; −0 is below +0. -/
def fpMinMax (f : Fmt) (max_ : Bool) (a b : Nat) : FRes :=
  match nanOf f [a, b] with
  | some r => r
  | none =>
    let lt := fpLtVal f a b || (f.isZero a && f.isZero b && f.sign a && !f.sign b)
    (if lt != max_ then a else b, 0)

/-! ### Conversions (R269) -/

/-- Between formats. `sat` is SATF8, of effect for E4M3 and E5M2 only. -/
def fpCvt (src dst : Fmt) (rm : Nat) (sat : Bool) (x : Nat) : FRes :=
  let sat := sat && decide (dst.w = 8)
  let neg := src.sign x
  if src.isNaN x then
    let fl := if src.isSNaN x then fNV else 0
    if dst.e4m3 then (dst.sgn neg + 0x7F, fl)
    else if src.e4m3 then (dst.sgn neg + dst.allOnes * 2 ^ dst.p + (2 ^ src.p - 1) * 2 ^ dst.p / 2 ^ src.p, fl)
    else
      let pl := if src.p ≤ dst.p then src.frac x * 2 ^ (dst.p - src.p) else src.frac x / 2 ^ (src.p - dst.p)
      (dst.quiet (dst.sgn neg + dst.allOnes * 2 ^ dst.p + pl), fl)
  else if src.isInf x then
    if sat then (dst.maxFin neg, fSAT)
    else if dst.e4m3 then (dst.sgn neg + 0x7F, fNV)
    else (dst.inf neg, 0)
  else if src.isZero x then (dst.zero neg, 0)
  else let (m, e) := src.mag x; roundMag dst rm neg m e false sat

/-- To an integer of `w` bits: the pattern and flags. -/
def fpToInt (f : Fmt) (rm : Nat) (signed : Bool) (w x : Nat) : FRes :=
  let hi : Int := if signed then 2 ^ (w - 1) - 1 else 2 ^ w - 1
  let lo : Int := if signed then -(2 ^ (w - 1)) else 0
  if f.isNaN x then (modW hi w, fNV)
  else if f.isInf x then (modW (if f.sign x then lo else hi) w, fNV)
  else
    let (m, e) := f.mag x
    let neg := f.sign x
    let (r, c) := inUnits m e false 0
    let r := if roundsUp rm neg r c then r + 1 else r
    let v : Int := if neg then -(r : Int) else r
    if v < lo then (modW lo w, fNV)
    else if hi < v then (modW hi w, fNV)
    else (modW v w, if c = 0 then 0 else fNX)

/-- From an integer. -/
def intToFp (f : Fmt) (rm : Nat) (sat : Bool) (v : Int) : FRes :=
  if v = 0 then (0, 0) else roundMag f rm (decide (v < 0)) v.natAbs 0 false (sat && decide (f.w = 8))

/-! ### Estimates (R273) -/

/-- The fraction's top `n` bits of a normalised significand, and the exponent e with |x| in [2^e, 2^(e+1)). -/
def topFrac (m : Nat) (e : Int) (n : Nat) : Nat × Int :=
  let k := Nat.log2 m
  ((m * 2 ^ n / 2 ^ k) % 2 ^ n, (k : Int) + e)

/-- Round to nearest even of n / d. -/
def roundNE (n d : Nat) : Nat :=
  let q := n / d
  let r := n % d
  if 2 * r > d ∨ (2 * r = d ∧ q % 2 = 1) then q + 1 else q

/-- The magnitude of VFREC's estimate, q × 2^(−13) × 2^(−e−1). -/
def recEst (m : Nat) (e : Int) : Nat × Int :=
  let (fr, ex) := topFrac m e 12
  (roundNE (2 ^ 27) (2 * (2 ^ 12 + fr) + 1), -13 - ex - 1)

/-- The magnitude of VFRSQ's estimate. -/
def rsqEst (m : Nat) (e : Int) : Nat × Int :=
  let (fr, ex) := topFrac m e 11
  let d := ex % 2
  let n := 2 ^ 12 + 2 * fr + 1
  let big := 2 ^ (40 - d.toNat)
  let q := isqrt (big / n)
  let q := if (2 * q + 1) * (2 * q + 1) * n < 4 * big then q + 1 else q
  (q, -13 - (ex - d) / 2 - 1)

/-- The format an estimate is formed in: SEW 16 is widened to FP32. -/
def estFmt (f : Fmt) : Fmt := if f.w = 16 then fp32 else f

/-- An estimate rounded RNE, first in the format it is formed in, without flags. -/
def estRound (f : Fmt) (neg : Bool) (m : Nat × Int) : Nat :=
  let r := (roundMag (estFmt f) 0 neg m.1 m.2 false false).1
  if f.w = 16 then (fpCvt fp32 f 0 false r).1 else r

/-- VFREC. -/
def fpRec (f : Fmt) (x : Nat) : FRes :=
  match nanOf f [x] with
  | some r => r
  | none =>
    let neg := f.sign x
    if f.isZero x then (f.inf neg, fDZ)
    else if f.isInf x then (f.zero neg, 0)
    else
      let (m, e) := f.mag x
      let (mm, me) := f.mag f.maxMag
      if f.expo x = 0 ∧ dyLt ((mm : Int) * m, me + e) (1, 0) then (f.inf neg, fOF + fNX)
      else (estRound f neg (recEst m e), 0)

/-- VFRSQ. -/
def fpRsq (f : Fmt) (x : Nat) : FRes :=
  match nanOf f [x] with
  | some r => r
  | none =>
    if f.isZero x then (f.inf (f.sign x), fDZ)
    else if f.sign x then invalid f
    else if f.isInf x then (f.zero false, 0)
    else let (m, e) := f.mag x; (estRound f false (rsqEst m e), 0)

/-- x × (c − k × a × y), exact and rounded once, where y is x or x² and c, k are 2, 1 or 1.5, 0.5 (R274). -/
def refine (f : Fmt) (rm : Nat) (sq : Bool) (a x : Nat) : FRes :=
  if f.isNaN x then (f.quiet x, if f.isSNaN x then fNV else 0)
  else if f.isZero x || f.isInf x then (x, 0)
  else if f.isNaN a then (f.quiet a, if f.isSNaN a then fNV else 0)
  else
    let vx := f.val x
    if f.isInf a then
      let neg := if sq then f.sign a else f.sign a != f.sign x
      (f.inf (f.sign x != !neg), 0)
    else
      let c : Dy := if sq then (3, -1) else (2, 0)
      let y := if sq then dyMul vx vx else vx
      let k := dyMul (f.val a) y
      let k := if sq then (k.1, k.2 - 1) else k
      let t := dyAdd c (dyNeg k)
      roundDy f rm (dyMul vx t) (f.sign x != decide (rm = 4))

def fpRecRef (f : Fmt) (rm a x : Nat) : FRes := refine f rm false a x
def fpRsqRef (f : Fmt) (rm a x : Nat) : FRes := refine f rm true a x

/-! ### 2^x and log2 x (R275) -/

/-- 2^(fr / 2^k) × 2^160 for a fraction below 1, truncated: a product of roots 2^(2^−i). -/
def pow2Frac (fr : Nat) : Nat → Nat → Nat → Nat
  | 0, _, acc => acc
  | k + 1, root, acc =>
    let root := isqrt (root * 2 ^ 160)
    pow2Frac fr k root (if fr / 2 ^ k % 2 = 1 then acc * root / 2 ^ 160 else acc)

/-- log2 of y / 2^200 in [1, 2), times 2^n: one bit of it at a time, by squaring. -/
def log2Frac : Nat → Nat → Nat → Nat
  | 0, _, acc => acc
  | n + 1, y, acc =>
    let y := y * y / 2 ^ 200
    if 2 ^ 201 ≤ y then log2Frac n (y / 2) (2 * acc + 1) else log2Frac n y (2 * acc)

/-- One of the representable values within 2 ulp of a value whose truncation to the format is `lo`: which one is the part's
(log 6). -/
def nearBits (f : Fmt) (lo pick : Nat) : Nat := Nat.min f.maxMag (lo + pick % 4 - 1)

/-- Truncation of a magnitude to a format, as bits without the sign. -/
def truncBits (f : Fmt) (m : Nat) (e : Int) : Nat := (roundMag f 2 false m e true false).1

/-- VFEXP2, computed in the format. -/
def exp2At (f : Fmt) (x : Nat) : FRes :=
  match nanOf f [x] with
  | some r => r
  | none =>
    if f.isInf x then (if f.sign x then (0, 0) else (x, 0))
    else
      let (v, e) := f.val x
      let emin : Int := 1 - f.bias - f.p
      -- floor and fraction of x; magnitudes beyond every exponent are cut off
      let big := decide (4096 ≤ v.natAbs * 2 ^ (Int.toNat e))
      if 0 ≤ e ∧ big ∧ v ≠ 0 then (if v < 0 then (0, fUF + fNX) else overflow f 0 false false)
      else
        let k := Int.toNat (-e)
        let n : Int := if e < 0 then v / ((2 ^ k : Nat) : Int) else shlN v e
        let fr : Nat := if e < 0 then (v % ((2 ^ k : Nat) : Int)).toNat else 0
        if fr = 0 ∧ emin ≤ n ∧ n ≤ f.bias then ((roundMag f 0 false 1 n false false).1, 0)
        else if (f.bias : Int) < n then overflow f 0 false false
        else if n < emin - 1 then (0, fUF + fNX)
        else
          -- x is a fraction of at most 160 bits here: smaller ones leave 2^x next to 1
          let (fr, k) := if 160 < k then (fr / 2 ^ (k - 160), 160) else (fr, k)
          let m := pow2Frac fr k (2 * 2 ^ 160) (2 ^ 160)
          let r := nearBits f (truncBits f m (n - 160)) (Config.exp2Pick f.w (BitVec.ofNat 64 x))
          (r, if r < 2 ^ f.p then fUF + fNX else fNX)

/-- VFLOG2, computed in the format. -/
def log2At (f : Fmt) (x : Nat) : FRes :=
  match nanOf f [x] with
  | some r => r
  | none =>
    if f.isZero x then (f.inf true, fDZ)
    else if f.sign x then invalid f
    else if f.isInf x then (x, 0)
    else
      let (m, e) := f.mag x
      let k := Nat.log2 m
      let ex : Int := (k : Int) + e
      if m = 2 ^ k then intToFp f 0 false ex
      else
        let l := log2Frac 190 (m * 2 ^ 200 / 2 ^ k) 0
        let v : Int := ex * ((2 ^ 190 : Nat) : Int) + l
        let pick := Config.log2Pick f.w (BitVec.ofNat 64 x)
        (f.sgn (decide (v < 0)) + nearBits f (truncBits f v.natAbs (-190)) pick, fNX)

/-- At 16 bits, the FP32 result rounded once, RNE, to the format (R357); UF goes by the rounded result. -/
def viaFp32 (g : Fmt → Nat → FRes) (f : Fmt) (x : Nat) : FRes :=
  match nanOf f [x] with
  | some r => r
  | none =>
    if f.w = 16 then
      let (v, fl) := g fp32 (fpCvt f fp32 0 false x).1
      let (r, fr) := fpCvt fp32 f 0 false v
      let fl := if fl = fUF + fNX then fNX else fl
      (r, fl ||| fr ||| (if fl = fNX ∧ r % 2 ^ 15 < 2 ^ f.p then fUF else 0))
    else g f x

/-- VFEXP2 (R275, R357). -/
def fpExp2 : Fmt → Nat → FRes := viaFp32 exp2At
/-- VFLOG2 (R275, R357). -/
def fpLog2 : Fmt → Nat → FRes := viaFp32 log2At

end Sys2Proof.Machine
end

