-- ==== Sys2Proof/Machine/Home.lean ====
section
/-!
DEFINITION. Updates at the memory homes: AMOs, VAMO, VSCATADD and remote atomics (07_memory R170, 13 R322, 14 R369).
-/
namespace Sys2Proof.Machine

open State

/-- The FP format of an update of `w` bytes. -/
def homeFmt (w : Nat) : Fmt := if w = 8 then fp64 else if w = 4 then fp32 else if w = 2 then fp16 else e4m3

/-- The new contents of a location of `w` bytes, and the flags of an FP update: RNE, the old value as operand a (R322). -/
def atomNew (op : AtomOp) (w old v cmp : Nat) : Nat × Nat :=
  let n := 8 * w
  let m := 2 ^ n
  match op with
  | .add => ((old + v) % m, 0)
  | .and => (old &&& v % m, 0)
  | .or => (old ||| v % m, 0)
  | .xor => (old ^^^ v % m, 0)
  | .min => (if sextI v n < sextI old n then v % m else old, 0)
  | .max => (if sextI old n < sextI v n then v % m else old, 0)
  | .minu => (Nat.min old (v % m), 0)
  | .maxu => (Nat.max old (v % m), 0)
  | .swap => (v % m, 0)
  | .cas => (if old = cmp % m then v % m else old, 0)
  | .fadd => fpAdd (homeFmt w) 0 old (v % m)
  | .fmin => fpMinMax (homeFmt w) false old (v % m)
  | .fmax => fpMinMax (homeFmt w) true old (v % m)

/-- An update at a local home: the old value, its flags and the state after it; none where the line is poisoned, and then
nothing changes (R187). -/
def State.homeUpdate (s : State) (pa w : Nat) (op : AtomOp) (v cmp : Nat) : Option (Nat × Nat × State) :=
  if s.poisonedAny pa w then none
  else
    let old := s.readHome pa w
    let (new, fl) := atomNew op w old v cmp
    some (old, fl, s.writeHome pa w new)

/-- An update by the current hart at a home on this device, after its older stores of the slice, its core's copies of
the line written back and dropped (R197, R205): the old value and flags; none where the line is poisoned (R187). -/
def updateLocal (pa w : Nat) (op : AtomOp) (v cmp : Nat) : Act (Option (Nat × Nat)) := do
  copyGate pa w
  modify fun s => (((s.performBefore pa w).dropOwn pa w).forget pa w).touch pa w
  let s ← get
  match s.homeUpdate pa w op v cmp with
  | none => pure none
  | some (old, fl, s') => do
    set (s.noteOld s' pa w)
    pure (some (old, fl))

/-- An atomic update by the current hart at a reached place: the old value and flags (R31, R33, R187, R322). -/
def atomAt (va : Word) (key w : Nat) (op : AtomOp) (v cmp : Nat) (p : Place) : Act (Nat × Nat) := do
  let atHome (pa : Nat) : Act (Nat × Nat) := do
    match ← updateLocal pa w op v cmp with
    | none => raise .poison 0 va
    | some r => pure r
  match p with
  | .mem pa => atHome pa
  | .remote chip off => do
    let s ← get
    match s.srcRefuses chip with
    | some c => refuseHere false c chip va
    | none =>
      if chip = s.chipId then
        match s.tgtRefuses s.crew.tenant off with
        | some c => refuseHere false c chip va
        | none => atHome off
      else
        match ← answerOf (updateKey key) with
        | some (.value old) => pure (old, (atomNew op w old v cmp).2)
        | some .refused => raise .storeFault 0 va
        | some .poisoned => raise .poison 0 va
        | none => do
          ask (updateKey key) fun tag => .request chip
            { kind := .atomic op, src := s.chipId, tenant := s.crew.tenant, tag, off, width := w, dat := v, cmp
              core := s.crew.core }
  | _ => raise .storeFault 0 va

/-- The place an aligned update of `w` bytes reaches (R223, R313). -/
def atomPlace (va : Word) (w : Nat) : Act Place := do
  check (decide (va.toNat % w = 0)) .misalignData 0 va
  match ← reachAll .atomic .write va w with
  | (_, _, p) :: _ => pure p
  | [] => raise .storeFault 0 va

/-- Whether a place is on the fabric: then an ordered update has SYS scope, else DEV (R200). -/
def Place.scope : Place → Nat
  | .remote _ _ => 3
  | _ => 2

end Sys2Proof.Machine
end

