-- ==== Sys2Proof/Machine/Csr.lean ====
section
/-!
DEFINITION. Control and status registers: which addresses exist, what a read returns and what a write stores (12_encoding R295
to R297 and the maps it names).
-/
namespace Sys2Proof.Machine

open State

namespace State

/-- Bytes of an element of VTYPE (R296). -/
def ebytes (s : State) : Nat := 2 ^ (fld s.hart.csr.vtype 4 3)
/-- Registers of a group (R296). -/
def lmul (s : State) : Nat := 2 ^ (fld s.hart.csr.vtype 8 2)
/-- MVL at a VTYPE (R140). -/
def mvlAt (s : State) (vtype : Word) : Nat := s.hart.vlenb / 2 ^ (fld vtype 4 3) * 2 ^ (fld vtype 8 2)
def mvl (s : State) : Nat := s.mvlAt s.hart.csr.vtype
def vl (s : State) : Nat := s.hart.csr.vl.toNat
def vrc (s : State) : Nat := s.hart.csr.vrc.toNat
def vstart (s : State) : Nat := s.hart.csr.vstart.toNat
/-- n = VL × VRC (R143). -/
def nElems (s : State) : Nat := s.vl * s.vrc
def frm (s : State) : Nat := s.hart.csr.frm.toNat
/-- VL is set on the scalar side. -/
def setVl (s : State) (n : Nat) : State := (s.onCsr fun c => { c with vl := BitVec.ofNat 64 n }).onHart fun h => { h with vlDs := false }
/-- VL is set on the vector side: a later use on the scalar side waits (R137, R343). -/
def setVlVec (s : State) (n : Nat) : State := (s.onCsr fun c => { c with vl := BitVec.ofNat 64 n }).onHart fun h => { h with vlDs := true }

/-! ### Reading (R295) -/

/-- Every listed address. -/
def csrListed (a : Nat) : Bool :=
  decide (a ≤ 7) || (decide (0x10 ≤ a) && decide (a ≤ 0x17)) || (decide (0x100 ≤ a) && decide (a ≤ 0x109))
  || (decide (0x110 ≤ a) && decide (a ≤ 0x116)) || (decide (0x200 ≤ a) && decide (a ≤ 0x208))
  || (decide (0x210 ≤ a) && decide (a ≤ 0x217)) || decide (a = 0x220) || decide (a = 0x230)
  || (decide (0x300 ≤ a) && decide (a ≤ 0x305)) || decide (a = 0x310) || (decide (0x400 ≤ a) && decide (a ≤ 0x40F))

/-- Addresses of system mode only (R217). -/
def csrSystem (a : Nat) : Bool := decide (0x300 ≤ a)

/-- Reads that wait for the vector side (R137). -/
def csrResync (a : Nat) : Bool :=
  [0x002, 0x005, 0x006, 0x010, 0x011, 0x012, 0x205, 0x206, 0x208, 0x220, 0x230].contains a

/-- As `csrResync`, with VL where the vector side set it (R137, R343). -/
def csrWaits (s : State) (a : Nat) : Bool := csrResync a || (decide (a = 0) && s.hart.vlDs)

/-- DSSTAT (R151). -/
def dsstat (s : State) : Word :=
  BitVec.ofNat 64 ((List.range 8).foldl (fun a n =>
    match s.hart.ds[n]? with
    | some d =>
      let st := match d.st with | .unconfig => 0 | .read => 1 | .write => 2 | .draining => 3
      a + (st + 4 * b2n d.short + 8 * b2n d.fault) * 16 ^ n
    | none => a) 0)

/-- QSTAT (R152). -/
def qstat (s : State) : Word :=
  BitVec.ofNat 64 ((List.range 8).foldl (fun a n =>
    match s.crew.qs[n]? with
    | some q => a + (q.entries.length + 32 * b2n q.writer.isSome + 64 * b2n q.reader.isSome) * 256 ^ n
    | none => a) 0)

/-- XWMn and XSTATn (R160). -/
def xwm (s : State) (n : Nat) : Word :=
  match s.hart.cp[n]? with
  | some c => BitVec.ofNat 64 ((c.dst + c.done) % 2 ^ 53)
  | none => 0
def xstat (s : State) (n : Nat) : Word :=
  match s.hart.cp[n]? with
  | some c => BitVec.ofNat 64 (c.st * 2 ^ 62 + c.cause * 2 ^ 58 + c.fva % 2 ^ 53)
  | none => 0

/-- The value of a listed CSR whose reading changes nothing. -/
def csrValue (s : State) (a : Nat) : Word :=
  let c := s.hart.csr
  let k := s.crew
  match a with
  | 0x000 => c.vl | 0x001 => c.vtype | 0x002 => c.vstart | 0x003 => c.vrc | 0x004 => c.vrp | 0x005 => c.vredacc
  | 0x006 => c.vflags | 0x007 => c.frm | 0x010 => c.mshape | 0x011 => c.mpred | 0x012 => c.mstart | 0x013 => c.amomode
  | 0x014 => c.pivtau | 0x015 => c.pivstat | 0x016 => c.ownmap | 0x017 => c.hweight
  | 0x100 => BitVec.ofNat 64 s.hart.idx
  | 0x101 => BitVec.ofNat 64 (k.crewId % 2 ^ 32)
  | 0x102 => BitVec.ofNat 64 k.core
  | 0x103 => BitVec.ofNat 64 (dieOf k.core)
  | 0x104 => BitVec.ofNat 64 s.chipId
  | 0x105 => k.cycle | 0x106 => c.instret | 0x107 => k.energy
  | 0x108 => BitVec.ofNat 64 k.phase
  | 0x109 => BitVec.ofNat 64 (s.chainPerm k)
  | 0x110 => BitVec.ofNat 64 (k.loopIdx.getD 0 0)
  | 0x111 => BitVec.ofNat 64 (k.loopIdx.getD 1 0)
  | 0x112 => BitVec.ofNat 64 (k.loopIdx.getD 2 0)
  | 0x113 => BitVec.ofNat 64 (k.loopIdx.getD 3 0)
  | 0x114 => BitVec.ofNat 64 (s.launchId k.launch)
  | 0x115 => BitVec.ofNat 64 k.ssBase
  | 0x116 => BitVec.ofNat 64 k.ssSize
  | 0x200 => c.mgoutb | 0x201 => c.mgoutl | 0x202 => c.mgspb | 0x203 => c.mgspl | 0x204 => c.mgmode | 0x205 => c.mgstate
  | 0x206 => c.mgocnt | 0x207 => c.mgtag | 0x208 => c.mgstat
  | 0x210 => s.xwm 0 | 0x211 => s.xwm 1 | 0x212 => s.xwm 2 | 0x213 => s.xwm 3
  | 0x214 => s.xstat 0 | 0x215 => s.xstat 1 | 0x216 => s.xstat 2 | 0x217 => s.xstat 3
  | 0x220 => s.dsstat | 0x230 => s.qstat
  | 0x300 => c.tvec | 0x301 => c.tpc | 0x302 => c.tcause | 0x303 => c.tval | 0x304 => c.tstat | 0x305 => c.tscratch
  | 0x310 => c.hcap
  | _ => if 0x400 ≤ a ∧ a ≤ 0x40F then (s.lqEnd k.uid (a - 0x400)).read else 0

/-- Before ENERGY or CYCLE is read, what has been added since the model last counted enters it: an open amount, which
the next count takes into account (R81, R109; log 16). -/
def csrCount (s : State) (a : Nat) : State :=
  if a = 0x105 then
    let (v, s) := s.takeFree
    s.onCrew fun c => { c with cycle := c.cycle + BitVec.ofNat 64 (v.toNat % 2048), cyc := c.cyc + v.toNat % 2048 }
  else if a = 0x107 then
    let (v, s) := s.takeFree
    s.onCrew fun c => { c with energy := c.energy + BitVec.ofNat 64 (v.toNat % 65536), est := c.est + v.toNat % 65536 }
  else s

/-! ### Writing (R5, R295) -/

/-- Keep only the bits of a mask. -/
def masked (m : Nat) (v : Word) : Word := v &&& BitVec.ofNat 64 m

/-- A write of MPRED (R156). -/
def mpredOf (c : Csrs) (v : Word) : Word :=
  BitVec.ofNat 64 (Nat.min (fld v 8 7) (fld c.mshape 8 8) * 256 + Nat.min (fld v 0 7) (fld c.mshape 0 8))

/-- A write to a CSR whose write has no check; RO registers keep their value. `sys` is system mode. -/
def csrStore (s : State) (a : Nat) (v : Word) : State :=
  match a with
  | 0x000 => if s.sysMode then s.setVl (Nat.min (fld v 0 32) s.mvl) else s
  | 0x001 => if s.sysMode then s.onCsr fun c => { c with vtype := masked 0x37F v } else s
  | 0x002 => s.onCsr fun c => { c with vstart := masked 0xFFFFFFFF v }
  | 0x003 => s.onCsr fun c => { c with vrc := if fld v 0 16 = 0 then 1 else masked 0xFFFF v }
  | 0x004 => s.onCsr fun c => { c with vrp := v }
  | 0x005 => s.onCsr fun c => { c with vredacc := v }
  | 0x006 => s.onCsr fun c => { c with vflags := masked 0xFF v }
  | 0x007 => s.onCsr fun c => { c with frm := if fld v 0 3 < 5 then masked 7 v else c.frm }
  | 0x011 => s.onCsr fun c => { c with mpred := mpredOf c v }
  | 0x012 => s.onCsr fun c => { c with mstart := masked 0x7FF v }
  | 0x013 => s.onCsr fun c => { c with amomode := masked 1 v }
  | 0x014 => s.onCsr fun c => { c with pivtau := v }
  | 0x015 => s.onCsr fun c => { c with pivstat := masked 0xFFFFFFFF00000001 v }
  | 0x016 => s.onCsr fun c => { c with ownmap := masked 0x83FFFFFFFFFFF7FF v }
  | 0x017 => s.onCsr fun c => { c with hweight := if fld v 0 8 = 0 then 1 else masked 0xFF v }
  | 0x200 => s.onCsr fun c => { c with mgoutb := masked 0x1FFFFFFFFFFFC0 v }
  | 0x201 => s.onCsr fun c => { c with mgoutl := masked 0xFFFFFFC0 v }
  | 0x202 => s.onCsr fun c => { c with mgspb := masked 0x1FFFFFFFFFFFC0 v }
  | 0x203 => s.onCsr fun c => { c with mgspl := BitVec.ofNat 64 (Nat.min (masked 0xFFFFFFC0 v).toNat (2 ^ 30)) }
  | 0x204 => s.onCsr fun c => { c with mgmode := if fld v 0 6 = 0 then masked 0x1F00 v ||| 1 else masked 0x1F3F v }
  | 0x205 => s.onCsr fun c => { c with mgstate := masked 0xC7FFFFFF3FFFFFFF v }
  | 0x207 => s.onCsr fun c => { c with mgtag := v }
  | 0x300 => s.onCsr fun c => { c with tvec := masked 0x1FFFFFFFFFFFFC v }
  | 0x301 => s.onCsr fun c => { c with tpc := masked 0x1FFFFFFFFFFFFF v }
  | 0x302 => s.onCsr fun c => { c with tcause := masked 0x8000000000000FFF v }
  | 0x303 => s.onCsr fun c => { c with tval := v }
  | 0x304 => s.onCsr fun c => { c with tstat := setFld (setFld c.tstat 8 8 (fld v 8 8)) 1 1 (fld v 1 1) }
  | 0x305 => s.onCsr fun c => { c with tscratch := v }
  | 0x310 => s.onCsr fun c => { c with hcap := masked 3 v }
  | _ => if 0x400 ≤ a ∧ a ≤ 0x40F then s.lqWrite s.crew.uid (a - 0x400) v else s

end State

/-- Checks on naming a CSR (R217, R224, R295). -/
def csrCheck (a : Nat) : Act Unit := fun s =>
  if !csrListed a then .error (.trap s .illegal 0 s.parcel)
  else if csrSystem a && !s.sysMode then .error (.trap s .priv 0 s.parcel)
  else if 0x400 ≤ a ∧ s.crew.lqs ≤ a - 0x400 then .error (.trap s .illegal 1 s.parcel)
  else .ok ((), s)

/-- A vtype is one that VSETL accepts (R141, R291). -/
def vtypeCheck (v : Word) : Act Unit := fun s =>
  if 4 ≤ fld v 4 3 ∨ bit v 7 then .error (.trap s .illegal 0 s.parcel)
  else if s.hart.sewMax < fld v 4 3 then .error (.trap s .illegal 1 s.parcel)
  else .ok ((), s)

/-- A held instruction, or a resynchronisation point, waits until no older instruction is executing (R135, R137). -/
def held : Act Unit := fun s => if s.hart.pend.isEmpty then .ok ((), s) else .error (.wait s)

/-- Read a CSR (R137, R324). -/
def csrGet (a : Nat) : Act Word := fun s =>
  if s.csrWaits a && !s.hart.pend.isEmpty then .error (.wait s)
  else
    let s := s.csrCount a
    .ok (s.csrValue a, s)

/-- Write a CSR (R324). -/
def csrPut (a : Nat) (v : Word) : Act Unit := do
  let s ← get
  if a = 0x001 ∧ s.sysMode then vtypeCheck v
  modify fun s => s.csrStore a v

end Sys2Proof.Machine
end

