-- ==== Sys2Proof/Machine/Flags.lean ====
section
/-!
DEFINITION. Integer arithmetic with the flags it raises (11_numbers R264, R268), shared by the scalar and vector forms. Values
are patterns of `w` bits.
-/
namespace Sys2Proof.Machine

/-- Signed quotient and remainder under R268. -/
def divS (w a b : Nat) : Nat :=
  let x := sextI a w
  let y := sextI b w
  if b % 2 ^ w = 0 then 2 ^ w - 1 else modW (Int.tdiv x y) w
def remS (w a b : Nat) : Nat :=
  let x := sextI a w
  let y := sextI b w
  if b % 2 ^ w = 0 then a % 2 ^ w else modW (Int.tmod x y) w

/-- Unsigned quotient and remainder under R268. -/
def divU (w a b : Nat) : Nat := if b % 2 ^ w = 0 then 2 ^ w - 1 else (a % 2 ^ w) / (b % 2 ^ w)
def remU (w a b : Nat) : Nat := if b % 2 ^ w = 0 then a % 2 ^ w else (a % 2 ^ w) % (b % 2 ^ w)

/-- An integer clamped to the range of a result type, with SAT when it did not fit. -/
def clampInt (w : Nat) (signed : Bool) (v : Int) : Nat × Nat :=
  let hi : Int := if signed then 2 ^ (w - 1) - 1 else 2 ^ w - 1
  let lo : Int := if signed then -(2 ^ (w - 1)) else 0
  if v < lo then (modW lo w, fSAT) else if hi < v then (modW hi w, fSAT) else (modW v w, 0)

/-- A pattern read as signed or unsigned. -/
def readInt (w : Nat) (signed : Bool) (a : Nat) : Int := if signed then sextI a w else ((a % 2 ^ w : Nat) : Int)

/-- An arithmetic right shift of a pattern. -/
def sraN (w a k : Nat) : Nat := modW (sextI a w / ((2 ^ k : Nat) : Int)) w

/-- FCLASS and VFCLASS: one bit set (R317). -/
def fpClassify (f : Fmt) (x : Nat) : Nat :=
  let n := f.sign x
  if f.isNaN x then (if f.isSNaN x then 2 ^ 9 else 2 ^ 8)
  else if f.isInf x then (if n then 2 ^ 7 else 2 ^ 6)
  else if f.isZero x then (if n then 2 else 1)
  else if f.expo x = 0 then (if n then 8 else 4)
  else if n then 32 else 16

end Sys2Proof.Machine
end

