-- ==== Sys2Proof/Machine/ScalarInt.lean ====
section
/-!
DEFINITION. Scalar integer instructions, branches, jumps and upper immediates (13_scalar_system R308 to R312, R314, R315).
-/
namespace Sys2Proof.Machine

open State

/-- What an instruction answers. -/
abbrev Res := Host.Outcome State Fault Refusal

/-- Write a result to rd and retire. -/
def regOp (rd : Reg) (v : Word) (s : State) : Res := .next ((s.setX rd v).advance 4)

/-- A Boolean as a register value. -/
def b2w (b : Bool) : Word := if b then 1 else 0

/-- A number as a register value. -/
def nw (n : Nat) : Word := BitVec.ofNat 64 n

/-! ### OP (R308) -/

def execAdd (rd rs1 rs2 : Reg) (s : State) : Res := regOp rd (s.x rs1 + s.x rs2) s
def execSub (rd rs1 rs2 : Reg) (s : State) : Res := regOp rd (s.x rs1 - s.x rs2) s
def execAnd (rd rs1 rs2 : Reg) (s : State) : Res := regOp rd (s.x rs1 &&& s.x rs2) s
def execOr (rd rs1 rs2 : Reg) (s : State) : Res := regOp rd (s.x rs1 ||| s.x rs2) s
def execXor (rd rs1 rs2 : Reg) (s : State) : Res := regOp rd (s.x rs1 ^^^ s.x rs2) s
def execSll (rd rs1 rs2 : Reg) (s : State) : Res := regOp rd (s.x rs1 <<< fld (s.x rs2) 0 6) s
def execSrl (rd rs1 rs2 : Reg) (s : State) : Res := regOp rd (s.x rs1 >>> fld (s.x rs2) 0 6) s
def execSra (rd rs1 rs2 : Reg) (s : State) : Res := regOp rd ((s.x rs1).sshiftRight (fld (s.x rs2) 0 6)) s
def execSlt (rd rs1 rs2 : Reg) (s : State) : Res := regOp rd (b2w ((s.x rs1).slt (s.x rs2))) s
def execSltu (rd rs1 rs2 : Reg) (s : State) : Res := regOp rd (b2w ((s.x rs1).ult (s.x rs2))) s
def execMin (rd rs1 rs2 : Reg) (s : State) : Res := regOp rd (if (s.x rs2).slt (s.x rs1) then s.x rs2 else s.x rs1) s
def execMax (rd rs1 rs2 : Reg) (s : State) : Res := regOp rd (if (s.x rs1).slt (s.x rs2) then s.x rs2 else s.x rs1) s
def execMinu (rd rs1 rs2 : Reg) (s : State) : Res := regOp rd (if (s.x rs2).ult (s.x rs1) then s.x rs2 else s.x rs1) s
def execMaxu (rd rs1 rs2 : Reg) (s : State) : Res := regOp rd (if (s.x rs1).ult (s.x rs2) then s.x rs2 else s.x rs1) s
def execMul (rd rs1 rs2 : Reg) (s : State) : Res := regOp rd (s.x rs1 * s.x rs2) s
def execMulh (rd rs1 rs2 : Reg) (s : State) : Res :=
  regOp rd (BitVec.ofInt 64 ((s.x rs1).toInt * (s.x rs2).toInt / 2 ^ 64)) s
def execMulhu (rd rs1 rs2 : Reg) (s : State) : Res := regOp rd (nw ((s.x rs1).toNat * (s.x rs2).toNat / 2 ^ 64)) s
def execDiv (rd rs1 rs2 : Reg) (s : State) : Res := regOp rd (nw (divS 64 (s.x rs1).toNat (s.x rs2).toNat)) s
def execDivu (rd rs1 rs2 : Reg) (s : State) : Res := regOp rd (nw (divU 64 (s.x rs1).toNat (s.x rs2).toNat)) s
def execRem (rd rs1 rs2 : Reg) (s : State) : Res := regOp rd (nw (remS 64 (s.x rs1).toNat (s.x rs2).toNat)) s
def execRemu (rd rs1 rs2 : Reg) (s : State) : Res := regOp rd (nw (remU 64 (s.x rs1).toNat (s.x rs2).toNat)) s

/-! ### OPW (R309) -/

/-- The low word of a register. -/
def lo32 (w : Word) : BitVec 32 := w.setWidth 32

/-- Write a sign-extended word result. -/
def wordOp (rd : Reg) (v : BitVec 32) (s : State) : Res := regOp rd (v.signExtend 64) s

def execAddw (rd rs1 rs2 : Reg) (s : State) : Res := wordOp rd (lo32 (s.x rs1) + lo32 (s.x rs2)) s
def execSubw (rd rs1 rs2 : Reg) (s : State) : Res := wordOp rd (lo32 (s.x rs1) - lo32 (s.x rs2)) s
def execSllw (rd rs1 rs2 : Reg) (s : State) : Res := wordOp rd (lo32 (s.x rs1) <<< fld (s.x rs2) 0 5) s
def execSrlw (rd rs1 rs2 : Reg) (s : State) : Res := wordOp rd (lo32 (s.x rs1) >>> fld (s.x rs2) 0 5) s
def execSraw (rd rs1 rs2 : Reg) (s : State) : Res := wordOp rd ((lo32 (s.x rs1)).sshiftRight (fld (s.x rs2) 0 5)) s
def execMulw (rd rs1 rs2 : Reg) (s : State) : Res := wordOp rd (lo32 (s.x rs1) * lo32 (s.x rs2)) s

/-! ### OPI (R310) -/

/-- SignExtend(imm12, 12). -/
def imm12 (i : BitVec 12) : Word := i.signExtend 64

def execAddi (rd rs1 : Reg) (imm : BitVec 12) (s : State) : Res := regOp rd (s.x rs1 + imm12 imm) s
def execAndi (rd rs1 : Reg) (imm : BitVec 12) (s : State) : Res := regOp rd (s.x rs1 &&& imm12 imm) s
def execOri (rd rs1 : Reg) (imm : BitVec 12) (s : State) : Res := regOp rd (s.x rs1 ||| imm12 imm) s
def execXori (rd rs1 : Reg) (imm : BitVec 12) (s : State) : Res := regOp rd (s.x rs1 ^^^ imm12 imm) s
def execSlti (rd rs1 : Reg) (imm : BitVec 12) (s : State) : Res := regOp rd (b2w ((s.x rs1).slt (imm12 imm))) s
def execSltiu (rd rs1 : Reg) (imm : BitVec 12) (s : State) : Res := regOp rd (b2w ((s.x rs1).ult (imm12 imm))) s
def execSlli (rd rs1 : Reg) (sh : BitVec 6) (s : State) : Res := regOp rd (s.x rs1 <<< sh.toNat) s
def execSrli (rd rs1 : Reg) (sh : BitVec 6) (s : State) : Res := regOp rd (s.x rs1 >>> sh.toNat) s
def execSrai (rd rs1 : Reg) (sh : BitVec 6) (s : State) : Res := regOp rd ((s.x rs1).sshiftRight sh.toNat) s

/-! ### BITM (R311) -/

/-- Leading zeros of a value of `n` bits. -/
def clzN : Nat → Nat → Nat
  | 0, _ => 0
  | n + 1, v => if v / 2 ^ n % 2 = 1 then 0 else 1 + clzN n v

/-- Trailing zeros of the low `n` bits. -/
def ctzN : Nat → Nat → Nat
  | 0, _ => 0
  | n + 1, v => if v % 2 = 1 then 0 else 1 + ctzN n (v / 2)

/-- One bits among the low `n` bits. -/
def popN : Nat → Nat → Nat
  | 0, _ => 0
  | n + 1, v => v % 2 + popN n (v / 2)

def execClz (rd rs1 : Reg) (s : State) : Res := regOp rd (nw (clzN 64 (s.x rs1).toNat)) s
def execCtz (rd rs1 : Reg) (s : State) : Res := regOp rd (nw (ctzN 64 (s.x rs1).toNat)) s
def execPopc (rd rs1 : Reg) (s : State) : Res := regOp rd (nw (popN 64 (s.x rs1).toNat)) s
def execBswap (rd rs1 : Reg) (s : State) : Res :=
  regOp rd (nw (ofBytesLE (bytesLE 8 (s.x rs1).toNat).reverse)) s

/-- A bit field within the register, or ILLEGAL with SUB 1. -/
def bitField (rd : Reg) (pos width1 : BitVec 6) (v : Word) (s : State) : Res :=
  if 64 < pos.toNat + (width1.toNat + 1) then trapHere .illegal 1 s.parcel s else regOp rd v s

def execBfx (rd rs1 : Reg) (pos width1 : BitVec 6) (s : State) : Res :=
  bitField rd pos width1 (nw (fld (s.x rs1) pos.toNat (width1.toNat + 1))) s
def execBfi (rd rs1 : Reg) (pos width1 : BitVec 6) (s : State) : Res :=
  bitField rd pos width1 (setFld (s.x rd) pos.toNat (width1.toNat + 1) (s.x rs1).toNat) s

/-! ### Upper immediates (R312) -/

def execLih (rd : Reg) (imm : BitVec 20) (s : State) : Res := regOp rd (imm.signExtend 64 <<< 12) s
def execAddpc (rd : Reg) (imm : BitVec 20) (s : State) : Res := regOp rd (s.pc + (imm.signExtend 64 <<< 12)) s

/-! ### Branches and jumps (R314, R315) -/

/-- Branch by a word offset when a condition holds. -/
def branch (c : Bool) (imm : BitVec 12) (s : State) : Res :=
  .next (if c then s.jumpTo (s.pc + (imm12 imm <<< 2)) else s.advance 4)

def execBeq (rs1 rs2 : Reg) (imm : BitVec 12) (s : State) : Res := branch (s.x rs1 == s.x rs2) imm s
def execBne (rs1 rs2 : Reg) (imm : BitVec 12) (s : State) : Res := branch (s.x rs1 != s.x rs2) imm s
def execBlt (rs1 rs2 : Reg) (imm : BitVec 12) (s : State) : Res := branch ((s.x rs1).slt (s.x rs2)) imm s
def execBge (rs1 rs2 : Reg) (imm : BitVec 12) (s : State) : Res := branch (!(s.x rs1).slt (s.x rs2)) imm s
def execBltu (rs1 rs2 : Reg) (imm : BitVec 12) (s : State) : Res := branch ((s.x rs1).ult (s.x rs2)) imm s
def execBgeu (rs1 rs2 : Reg) (imm : BitVec 12) (s : State) : Res := branch (!(s.x rs1).ult (s.x rs2)) imm s

def execJl (rd : Reg) (imm : BitVec 20) (s : State) : Res :=
  .next ((s.setX rd (s.pc + 4)).jumpTo (s.pc + (imm.signExtend 64 <<< 2)))

def execJlr (rd rs1 : Reg) (imm : BitVec 12) (s : State) : Res :=
  let t := s.x rs1 + imm12 imm
  if t.toNat % 4 ≠ 0 then trapHere .misalignFetch 0 t s
  else .next ((s.setX rd (s.pc + 4)).jumpTo t)

end Sys2Proof.Machine
end

