-- ==== Sys2Proof/Machine/ScalarMem.lean ====
section
/-!
DEFINITION. Scalar loads and stores, and the scalar atomics (13_scalar_system R313, R321 to R323).
-/
namespace Sys2Proof.Machine

open State

/-- Whether every piece of an access is DRAM or shared store. -/
def allMem (ps : List (Nat × Nat × Place)) : Bool :=
  ps.all fun p => match p.2.2 with | .mem _ => true | _ => false

/-- The value a scalar load of `n` bytes reads (R313). -/
def scalarRead (va : Word) (n : Nat) : Act Nat := do
  let ps ← reachAll .scalarLd .read va n
  if !allMem ps then held
  match ps with
  | [(_, _, .control off)] =>
    let (v, s) := (← get).barRead 0 off
    set s
    pure v.toNat
  | _ => readPieces true va 0 ps

/-- A scalar store of the low `n` bytes of a value (R313). -/
def scalarWrite (va : Word) (n v : Nat) : Act Unit := do
  held
  let ps ← reachAll .scalarSt .write va n
  match ps with
  | [(_, _, .control off)] => modify fun s => (s.performBefore (0x7F00000000 + off) 8).barWrite 0 off (nw v)
  | _ => do
    gateAll ps
    writePieces true va v ps

/-- A load: read `n` bytes, extend, write rd. -/
def load (rd rs1 : Reg) (imm : BitVec 12) (n : Nat) (signed : Bool) (s : State) : Res :=
  runAct 4 (do
    let v ← scalarRead (s.x rs1 + imm12 imm) n
    modify fun s => s.setX rd (if signed then sextW v (8 * n) else nw v)) s

/-- A store of rs2's low `n` bytes. -/
def store (rs2 rs1 : Reg) (imm : BitVec 12) (n : Nat) (s : State) : Res :=
  runAct 4 (scalarWrite (s.x rs1 + imm12 imm) n ((s.x rs2).toNat % 2 ^ (8 * n))) s

def execLdd (rd rs1 : Reg) (imm : BitVec 12) (s : State) : Res := load rd rs1 imm 8 false s
def execLdw (rd rs1 : Reg) (imm : BitVec 12) (s : State) : Res := load rd rs1 imm 4 true s
def execLdwz (rd rs1 : Reg) (imm : BitVec 12) (s : State) : Res := load rd rs1 imm 4 false s
def execLdh (rd rs1 : Reg) (imm : BitVec 12) (s : State) : Res := load rd rs1 imm 2 true s
def execLdhz (rd rs1 : Reg) (imm : BitVec 12) (s : State) : Res := load rd rs1 imm 2 false s
def execLdb (rd rs1 : Reg) (imm : BitVec 12) (s : State) : Res := load rd rs1 imm 1 true s
def execLdbz (rd rs1 : Reg) (imm : BitVec 12) (s : State) : Res := load rd rs1 imm 1 false s

def execStd (rs2 rs1 : Reg) (imm : BitVec 12) (s : State) : Res := store rs2 rs1 imm 8 s
def execStw (rs2 rs1 : Reg) (imm : BitVec 12) (s : State) : Res := store rs2 rs1 imm 4 s
def execSth (rs2 rs1 : Reg) (imm : BitVec 12) (s : State) : Res := store rs2 rs1 imm 2 s
def execStb (rs2 rs1 : Reg) (imm : BitVec 12) (s : State) : Res := store rs2 rs1 imm 1 s

/-! ### Atomics -/

/-- A scalar AMO (R322): ordering 1 .ACQ, 2 .REL, 3 .AR. -/
def amo (op : AtomOp) (d : Bool) (ord : BitVec 2) (rd rs1 rs2 : Reg) (s : State) : Res :=
  let w := if d then 8 else 4
  let va := s.x rs1
  let v := (s.x rs2).toNat % 2 ^ (8 * w)
  let cmp := (s.x rd).toNat % 2 ^ (8 * w)
  runAct 4 (do
    held
    let p ← atomPlace va w
    if 2 ≤ ord.toNat then release p.scope
    let (old, fl) ← atomAt va 0 w op v cmp p
    if ord.toNat % 2 = 1 then acquire p.scope
    modify fun s => (s.addFlags fl).setX rd (if op = .fadd then nw old else sextW old (8 * w))) s

def execAmoadd (d : Bool) (ord : BitVec 2) (rd rs1 rs2 : Reg) (s : State) : Res := amo .add d ord rd rs1 rs2 s
def execAmoand (d : Bool) (ord : BitVec 2) (rd rs1 rs2 : Reg) (s : State) : Res := amo .and d ord rd rs1 rs2 s
def execAmoor (d : Bool) (ord : BitVec 2) (rd rs1 rs2 : Reg) (s : State) : Res := amo .or d ord rd rs1 rs2 s
def execAmoxor (d : Bool) (ord : BitVec 2) (rd rs1 rs2 : Reg) (s : State) : Res := amo .xor d ord rd rs1 rs2 s
def execAmomin (d : Bool) (ord : BitVec 2) (rd rs1 rs2 : Reg) (s : State) : Res := amo .min d ord rd rs1 rs2 s
def execAmomax (d : Bool) (ord : BitVec 2) (rd rs1 rs2 : Reg) (s : State) : Res := amo .max d ord rd rs1 rs2 s
def execAmoswap (d : Bool) (ord : BitVec 2) (rd rs1 rs2 : Reg) (s : State) : Res := amo .swap d ord rd rs1 rs2 s
def execAmocas (d : Bool) (ord : BitVec 2) (rd rs1 rs2 : Reg) (s : State) : Res := amo .cas d ord rd rs1 rs2 s
def execAmofadd (d : Bool) (ord : BitVec 2) (rd rs1 rs2 : Reg) (s : State) : Res := amo .fadd d ord rd rs1 rs2 s

end Sys2Proof.Machine
end

