-- ==== Sys2Proof/Machine/Operands.lean ====
section
/-!
DEFINITION. Operand forms of the vector instructions (06_core R142, R143, R150; 12 R289, R293, R294, R306; 14 R338 to R343):
elements, mask bits, stream elements, register limits, and the loop over elements that every element-wise form shares.
-/
namespace Sys2Proof.Machine

open State

namespace State

/-! ### Registers -/

/-- Key of byte 0 of element `i` at width `w` of group `g` (R294). -/
def vKey (s : State) (g w i : Nat) : Nat := g * s.hart.vlenb + i * w

/-- ElemRead (R305). -/
def elem (s : State) (g w i : Nat) : Nat := ofBytesLE ((upFrom (s.vKey g w i) w).map fun k => FMap.getD 0 k s.hart.v)

/-- Whether an element is poisoned (R187). -/
def elemPois (s : State) (g w i : Nat) : Bool := (upFrom (s.vKey g w i) w).any fun k => FMap.getD false k s.hart.vpois

/-- Clear the poison of `n` bytes. -/
def clearPois (m : FMap Bool) (k : Nat) : Nat → FMap Bool
  | 0 => m
  | n + 1 => clearPois (FMap.setD false k false m) (k + 1) n

/-- ElemWrite (R305): the bytes, their poison cleared, and the written extent of the register (R100). -/
def setElem (s : State) (g w i v : Nat) : State :=
  let k := s.vKey g w i
  let r := k / s.hart.vlenb
  let top := k % s.hart.vlenb + w
  { s with hart := { s.hart with
      v := writeMem s.hart.v k (bytesLE w v)
      vpois := clearPois s.hart.vpois k w
      wext := FMap.setD 0 r (Nat.max (FMap.getD 0 r s.hart.wext) top) s.hart.wext } }

/-- Zero elements `a` to `b − 1` of a group. -/
def zeroElems (s : State) (g w a b : Nat) : State :=
  if b ≤ a then s
  else
    let lo := s.vKey g w a
    let hi := s.vKey g w b
    let out := fun k => decide (k < lo) || decide (hi ≤ k)
    let regs := upFrom (lo / s.hart.vlenb) ((hi - 1) / s.hart.vlenb - lo / s.hart.vlenb + 1)
    let ext (m : FMap Nat) (r : Nat) : FMap Nat :=
      FMap.setD 0 r (Nat.max (FMap.getD 0 r m) (Nat.min s.hart.vlenb (hi - r * s.hart.vlenb))) m
    { s with hart := { s.hart with
        v := FMap.keep out s.hart.v, vpois := FMap.keep out s.hart.vpois, wext := regs.foldl ext s.hart.wext } }

def maskKey (r i : Nat) : Nat := r * 2 ^ 18 + i

/-- MaskBit (R294, R305). -/
def maskBit (s : State) (r i : Nat) : Bool := FMap.getD false (maskKey r i) s.hart.m

def setMaskBit (s : State) (r i : Nat) (b : Bool) : State :=
  { s with hart := { s.hart with m := FMap.setD false (maskKey r i) b s.hart.m } }

/-- Active(i) of R305. -/
def active (s : State) (m : VMask) (i : Nat) : Bool :=
  match m with
  | .unmasked => true
  | .masked r => s.maskBit r.toNat i

/-- The fields of VTYPE that VectorBody and the formats read (R296). -/
def tailz (s : State) : Bool := bit s.hart.csr.vtype 1
def maskz (s : State) : Bool := bit s.hart.csr.vtype 2
def altFmt (s : State) : Bool := bit s.hart.csr.vtype 0
def satF8 (s : State) : Bool := bit s.hart.csr.vtype 3

/-- The format of R261 for an element width in bytes. -/
def fmtOf (w : Nat) (alt : Bool) : Fmt :=
  if w = 8 then fp64 else if w = 4 then fp32 else if w = 2 then (if alt then bf16 else fp16) else if alt then e5m2 else e4m3
def vfmt (s : State) : Fmt := fmtOf s.ebytes s.altFmt

/-- Tail of a vector destination from element `a` on (R306). -/
def tailV (s : State) (g w a : Nat) : State := if s.tailz then s.zeroElems g w a s.mvl else s

/-- Tail bits of a mask destination (R294). -/
def tailM (s : State) (r a : Nat) : State :=
  if s.tailz then
    { s with hart := { s.hart with
        m := FMap.keep (fun k => decide (k < maskKey r a) || decide (maskKey r (8 * s.hart.vlenb) ≤ k)) s.hart.m } }
  else s

/-- Elements of an element group at a width (R139). -/
def groupE (s : State) (w : Nat) : Nat := s.crew.lanes * 32 / w

/-! ### Register limits (R141, R293, R342) -/

/-- GroupRegs of R342. -/
def groupRegs (s : State) (w : Nat) : Nat := Nat.max 1 (s.lmul * w / s.ebytes)

/-- Whether a group may be named. -/
def groupOk (s : State) (p : Nat × Nat) : Bool :=
  let k := s.groupRegs p.2
  decide (k ≤ 8) && decide (p.1 % k = 0) && decide (p.1 + k ≤ s.hart.nreg)

/-- Whether two groups share a register. -/
def groupsMeet (s : State) (p q : Nat × Nat) : Bool :=
  decide (p.1 < q.1 + s.groupRegs q.2) && decide (q.1 < p.1 + s.groupRegs p.2)

/-- Every group may be named, and groups of different widths share none (R342). -/
def groupsOk (s : State) (gs : List (Nat × Nat)) : Bool :=
  gs.all s.groupOk && gs.all fun p => gs.all fun q => decide (p.2 = q.2) || !s.groupsMeet p q

end State

end Sys2Proof.Machine
namespace Sys2Proof

/-- The governing mask, as a mask register that is read. -/
def VMask.reads : VMask → List Nat
  | .unmasked => []
  | .masked r => [r.toNat]

/-- The group a first source names. -/
def Src1.group (w : Nat) : Src1 → List (Nat × Nat)
  | .v r => [(r.toNat, w)]
  | _ => []

/-- The stream port a first source names. -/
def Src1.port : Src1 → Option (BitVec 3)
  | .ds p => some p
  | _ => none

def VOrX.group (w : Nat) : VOrX → List (Nat × Nat)
  | .v r => [(r.toNat, w)]
  | .x _ => []

end Sys2Proof
namespace Sys2Proof.Machine
open State

/-! ### Streams (R149, R150) -/

/-- Elements of the pattern. -/
def Stream.total (d : Stream) : Nat := d.c0 * d.c1 * d.c2
def Stream.left (d : Stream) : Nat := d.total - d.pos

/-- Address of element `i` (R149). -/
def Stream.addr (d : Stream) (i : Nat) : Word :=
  let i0 := i % d.c0
  let i1 := i / d.c0 % d.c1
  let i2 := i / (d.c0 * d.c1)
  BitVec.ofInt 64 ((d.base : Int) + i0 * d.s0 + i1 * d.s1 + i2 * d.s2)

namespace State

def stream (s : State) (p : BitVec 3) : Stream := s.hart.ds[p.toNat]
def setStream (s : State) (p : BitVec 3) (d : Stream) : State := s.onHart fun h => { h with ds := h.ds.set p.toNat d }

/-- The port's elements of one execution are consumed. -/
def consume (s : State) (p : Option (BitVec 3)) (n : Nat) : State :=
  match p with
  | none => s
  | some p =>
    let d := s.stream p
    s.setStream p { d with pos := d.pos + n, buf := FMap.keep (fun k => decide (d.pos + n ≤ k)) d.buf, fault := false }

/-- A read stream's width agrees with SEW (R340). -/
def streamWidth (s : State) (p : Option (BitVec 3)) : Bool :=
  match p with
  | none => true
  | some p => decide ((s.stream p).st = .unconfig) || decide ((s.stream p).width = s.ebytes)

end State

/-- The operand-state causes of a read port (R150). -/
def streamUse (p : Option (BitVec 3)) : Act Unit := fun s =>
  match p with
  | none => .ok ((), s)
  | some p =>
    let d := s.stream p
    if d.st ≠ .read then .error (.trap s .streamUnconfig 0 (nw p.toNat))
    else if d.left < s.nElems then .error (.trap s .streamUnderrun 0 (nw (d.left * 256 + p.toNat)))
    else .ok ((), s)

/-- Element `i` of those the port delivers to this execution: fetched already, or read now (R150). -/
def streamElem (p : BitVec 3) (i : Nat) : Act Nat := do
  let d := (← get).stream p
  match FMap.find (d.pos + i) d.buf with
  | some v => pure v
  | none =>
    let va := d.addr (d.pos + i)
    let ps ← reachAll .vecLd .read va d.width
    readPieces false va (2 ^ 32 + 2 * i) ps

/-! ### Reading operands -/

/-- An element as an operand: POISON when it is poisoned (R187). -/
def readV (g : Reg) (w i : Nat) : Act Nat := fun s =>
  if s.elemPois g.toNat w i then .error (.trap s .poison 1 0) else .ok (s.elem g.toNat w i, s)

/-- An element of a non-restartable form: TVAL holds the index (R229). -/
def readW (g : Reg) (w i : Nat) : Act Nat := fun s =>
  if s.elemPois g.toNat w i then .error (.trap s .poison 1 (nw i)) else .ok (s.elem g.toNat w i, s)

/-- S1Val(i) at element width `w` bytes (R340). -/
def s1Val (s1 : Src1) (w i : Nat) : Act Nat :=
  match s1 with
  | .v r => readV r w i
  | .x r => do pure (((← get).x r).toNat % 2 ^ (8 * w))
  | .imm v => pure (modW (sextI v.toNat 16) (8 * w))
  | .ds p => streamElem p i

/-- An integer operand that is an x register or an unsigned immediate (R339), whole. -/
def xiVal (s : State) : XOrImm → Nat
  | .x r => (s.x r).toNat
  | .imm i => i.toNat

/-! ### The shared body -/

/-- How a form uses VSTART and n: element by element; whole, and then VSTART must be 0 (R230); whole, whatever VSTART is
(R372); not at all (15_matrix_merge_copy). -/
inductive VKind where
  | elem | whole | queue | free
  deriving DecidableEq, Repr

/-- A vector instruction: the registers it names with their widths, its limits (SUB 1), state conditions (SUB 2) and
operand-state causes, and what it does once they have passed. `body` answers whether the instruction completed. In a
convoy a member's `before` comes before the first element, and its `settle` and then its `finish` when every member has
committed every element (R372); outside one they have no part but `finish`, which follows the body. `mem` gives a load's
or a store's element addresses, with whether it stores and its element width (R146). `cross` marks a resynchronisation
point (R137), `appends` a store to a write stream. -/
structure VOp where
  reads   : List (Nat × Nat)
  writes  : List (Nat × Nat) := []
  mreads  : List Nat := []
  mwrites : List Nat := []
  kind    : VKind := .elem
  limits  : Bool := true
  states  : Bool := true
  port    : Option (BitVec 3) := none
  operand : Act Unit := pure ()
  body    : Act Bool
  before  : Act Unit := pure ()
  settle  : Act Unit := pure ()
  finish  : Act Unit := pure ()
  mem     : Option (Bool × Nat × (Nat → Act Word)) := none
  cross   : Bool := false
  appends : Bool := false

/-- Operand and register limits (R292 step 6). -/
def VOp.checkLimits (o : VOp) : Act Unit := do
  let s ← get
  Machine.check (s.groupsOk (o.reads ++ o.writes) && (o.mreads ++ o.mwrites).all (fun r => decide (r < 8)) && o.limits
    && (decide (o.kind = .free) || decide (s.nElems ≤ s.mvl))) .illegal 1 s.parcel

/-- State conditions (R292 step 7); `exempt` is a convoy's last member (R230). -/
def VOp.checkStates (exempt : Bool) (o : VOp) : Act Unit := do
  let s ← get
  Machine.check ((exempt || decide (o.kind ≠ .whole) || decide (s.vstart = 0)) && s.streamWidth o.port && o.states) .illegal 2 s.parcel

/-- Operand-state causes (R224 step 5). -/
def VOp.checkOperands (o : VOp) : Act Unit := do
  streamUse o.port
  o.operand

/-- A resynchronisation point waits for older work, and so do addresses that need a VL which the vector side set (R137). -/
def VOp.resync (o : VOp) : Act Unit := do
  if o.cross || (o.mem.isSome && (← get).hart.vlDs) then held

/-- The checks of R292 steps 6 and 7 and of R224 step 5. -/
def VOp.check (o : VOp) : Act Unit := do
  o.checkLimits
  o.checkStates false
  o.checkOperands

/-- The frame of R306 and R343: nothing but VSTART = 0 when there is nothing to process. -/
def VOp.run (o : VOp) : Act Bool := do
  let s ← get
  if (s.nElems = 0 ∧ o.kind ≠ .free) ∨ (o.kind = .elem ∧ s.nElems ≤ s.vstart) then do
    set (s.setVstart 0)
    pure true
  else if ← o.body then do
    o.finish
    pure true
  else pure false

/-- While it waits, a vector instruction has done nothing: what it did is done again, with the answers that have come
(log 2). A merge network that it has taken stays taken (R257). -/
def Exit.steady (s : State) : Exit → Exit
  | .wait s' => .wait { s with mnet := s'.mnet, hart := { s.hart with cp := s'.hart.cp } }
  | .ask s' k o => .ask { s with mnet := s'.mnet } k o
  | e => e

/-- Run a vector instruction. One that stops at an element-group boundary stays at its address (R99); one that traps
waits for everything older (R136). -/
def runV (o : VOp) (s : State) : Res :=
  match (o.resync >>= fun _ => o.check >>= fun _ => o.run) s with
  | .ok (true, s') => .next (s'.advance 8)
  | .ok (false, s') => .next s'
  | .error e => .next ((e.steady s).inOrder s).state

/-- Where this execution ends: n, the pre-emption point that is asked for, or in a convoy its bound (R99, R147). -/
def State.stopAt (s : State) (e n a : Nat) : Nat :=
  match s.hart.limit with
  | none => n
  | some b =>
    if s.hart.conv.isSome then Nat.min b n
    else if a < b ∧ b < n ∧ b % e = 0 then b else n

/-- Elements `i` to `i + k − 1` in ascending order. A fault sets VSTART to its element (R228). `trim` ends the loop at
an element instead of a trap (R168, R349), and then answers that element. -/
def elemLoop (trim : Nat → Exit → Bool) (f : Nat → Act Unit) : Nat → Nat → Act (Option Nat)
  | 0, _ => pure none
  | k + 1, i => fun s =>
    match f i s with
    | .ok (_, s') => elemLoop trim f k (i + 1) s'
    | .error e => if trim i e then .ok (some i, s) else .error (e.mapState (·.setVstart i))

/-- One element of VectorBody (R306): `on` where it is active, `off` where it is not; a stream delivers its element
either way. -/
def elemStep (m : VMask) (s1 : Src1) (on : Nat → Act Unit) (off : Nat → State → State) (i : Nat) : Act Unit := do
  if (← get).active m i then on i
  else do
    if let .ds p := s1 then
      let _ ← streamElem p i
    modify (off i)

/-- The elements of a stream operand below `a` are delivered and discarded; a fault on one is the instruction's (R150,
R340; log 40). -/
def discard (s1 : Src1) (a : Nat) : Act Unit :=
  match s1 with
  | .ds p => do
    let _ ← elemLoop (fun _ _ => false) (fun i => do let _ ← streamElem p i) a 0
  | _ => pure ()

/-- VectorBody (R306) over an element width `w`, the widest the instruction touches; `tail` acts from an element on. -/
def elemRun (w : Nat) (m : VMask) (s1 : Src1) (trim : Nat → Exit → Bool) (on : Nat → Act Unit) (off : Nat → State → State)
    (tail : Nat → State → State) : Act Bool := do
  let s ← get
  let n := s.nElems
  let a := s.vstart
  let z := s.stopAt (s.groupE w) n a
  discard s1 (Nat.min a n)
  match ← elemLoop trim (elemStep m s1 on off) (z - a) a with
  | some i => do
    modify fun s => ((tail i s).setVl i).setVstart 0
    pure true
  | none =>
    if z < n then do
      modify fun s => (if s.hart.conv.isSome then s.consume s1.port n else s).setVstart z
      pure false
    else do
      modify fun s => ((tail n s).consume s1.port n).setVstart 0
      pure true

/-- No trimming. -/
def noTrim (_ : Nat) (_ : Exit) : Bool := false

/-- VectorBody with a vector destination at width `wd`: `op` gives an element's value and flags, `work` its units of work. -/
def elemOp (vd : Reg) (wd w : Nat) (m : VMask) (s1 : Src1) (work : Nat) (op : Nat → Act FRes) : Act Bool :=
  elemRun w m s1 noTrim
    (fun i => do
      let (v, fl) ← op i
      modify fun s => ((s.addFlags fl).setElem vd.toNat wd i v).addWork work)
    (fun i s => if s.maskz then s.setElem vd.toNat wd i 0 else s)
    (fun a s => s.tailV vd.toNat wd a)

/-- VectorBody with a mask destination (R294, R354). -/
def maskOp (md : Reg) (w : Nat) (m : VMask) (s1 : Src1) (op : Nat → Act (Bool × Nat)) : Act Bool :=
  elemRun w m s1 noTrim
    (fun i => do
      let (b, fl) ← op i
      modify fun s => ((s.addFlags fl).setMaskBit md.toNat i b).addWork 1)
    (fun i s => if s.maskz then s.setMaskBit md.toNat i false else s)
    (fun a s => s.tailM md.toNat a)

/-! ### Reading whole operands -/

/-- The active elements below `n` of a group, with their indices, in ascending order (non-restartable forms). -/
def activeElems (g : Reg) (w : Nat) (m : VMask) : Nat → Nat → Act (List (Nat × Nat))
  | 0, _ => pure []
  | k + 1, i => do
    if (← get).active m i then
      let v ← readW g w i
      let r ← activeElems g w m k (i + 1)
      pure ((i, v) :: r)
    else activeElems g w m k (i + 1)

/-- Write values to elements from `i` on. -/
def State.setElems (s : State) (g w : Nat) : Nat → List Nat → State
  | _, [] => s
  | i, v :: vs => State.setElems (s.setElem g w i v) g w (i + 1) vs

end Sys2Proof.Machine
end

