-- ==== Sys2Proof/Machine/VecCfg.lean ====
section
/-!
DEFINITION. Vector configuration and stream ports (14_vector R344 to R347; 06_core R149 to R151), and the step that retires a
write stream.
-/
namespace Sys2Proof.Machine

open State

/-- StreamGrant of R151, and whether the grant is short. The harts of a lane group share its two engines (R133). -/
def streamGrant (s : State) (p : BitVec 3) (avl mvl : Nat) : Nat × Bool :=
  let d := s.stream p
  let engine := p.toNat / 4
  let active (h : Hart) : Nat := (List.range 4).countP fun j =>
    match h.ds[engine * 4 + j]? with
    | some e => decide (e.st = .read)
    | none => false
  let readers := ((s.crewHarts s.crew).map fun h => active h.2).sum
  if d.st = .read ∧ 1 < readers ∧ d.buf.length < Nat.min avl (Nat.min d.left mvl) then (Nat.max 1 d.buf.length, true)
  else (d.left, false)

def execVsetl (rd rs1 : Reg) (vt : BitVec 10) (ds : Option (BitVec 3)) (s : State) : Res :=
  runAct 8 (do
    let v : Word := vt.setWidth 64
    if ds.isSome then held
    vtypeCheck v
    if let some p := ds then
      check (decide ((s.stream p).st ≠ .unconfig)) .streamUnconfig 0 (nw p.toNat)
    let avl := (s.x rs1).toNat
    let mvl := s.mvlAt v
    let vl := Nat.min avl (capVl s.capLevel mvl)
    let (vl, s1) : Nat × State := match ds with
      | none => (vl, (s.onCsr fun c => { c with vtype := v }).setVl vl)
      | some p =>
        let (g, short) := streamGrant s p avl mvl
        let s := s.setStream p { s.stream p with short }
        (Nat.min vl g, (s.onCsr fun c => { c with vtype := v }).setVlVec (Nat.min vl g))
    set ((s1.setVstart 0).setX rd (nw vl))) s

/-- Where the width asked for is above the declared one, VDECL answers 0 as R345 says, though R141 names the case among
those that raise ILLEGAL: DEDUCED (log 69). -/
def execVdecl (rd : Reg) (nreg sew : BitVec 2) (s : State) : Res :=
  runAct 8 (do
    held
    let nr := 8 * (nreg.toNat + 1)
    let vlenb := vlenbOf s.crew.lanes s.crew.hg nr
    if s.hart.nreg < nr ∨ s.hart.sewMax < sew.toNat ∨ vlenb < 256 then modify fun s => s.setX rd 0
    else
      modify fun s =>
        let s : State := { s with hart := { s.hart with
          nreg := nr, sewMax := sew.toNat, vlenb, v := [], vpois := [], m := [], wext := [], vlDs := false
          csr := { s.hart.csr with vtype := nw (sew.toNat * 16), vl := 0, vstart := 0 } } }
        s.setX rd (nw vlenb)) s

/-- Whether a write of the port has left the device and has not been performed (R209). -/
def Hart.streamOut (h : Hart) (p : BitVec 3) : Bool := h.posted.any fun q => decide (q.by_ = .stream p.toNat) && !q.bad

/-- A write binding is told to retire; the instruction waits until it has (R150, R209, R347). A read binding is discarded. -/
def retireStream (p : BitVec 3) : Act Unit := fun s =>
  let d := s.stream p
  match d.st with
  | .unconfig => .ok ((), s)
  | .read => .ok ((), s.setStream p Stream.reset)
  | .write => if d.pend.isEmpty && !s.hart.streamOut p then .ok ((), s.setStream p Stream.reset) else .error (.wait (s.setStream p { d with st := .draining }))
  | .draining => .error (.wait s)

def execDscfg (port : BitVec 3) (xbase xcounts xstrides : Reg) (width : BitVec 2) (out : Bool) (s : State) : Res :=
  runAct 8 (do
    let cnt := s.x xcounts
    let str := s.x xstrides
    check (decide (fld cnt 48 16 = 0) && decide (fld str 60 4 = 0)) .illegal 1 s.parcel
    held
    retireStream port
    modify fun s => s.setStream port
      { Stream.reset with
        st := if out then .write else .read
        base := (s.x xbase).toNat, c0 := fld cnt 0 16, c1 := fld cnt 16 16, c2 := fld cnt 32 16
        s0 := sextI (fld str 0 20) 20, s1 := sextI (fld str 20 20) 20, s2 := sextI (fld str 40 20) 20
        width := 2 ^ width.toNat }) s

def execDsclr (port : BitVec 3) (s : State) : Res :=
  runAct 8 (do
    held
    retireStream port) s

/-- What a write stream has posted since its hart had `k` stores outstanding is the stream's, and of the instruction
that appended the element (R33, R209, R226). -/
def streamPosts (p : BitVec 3) (k : Nat) (ins : Word) (s : State) : State :=
  s.onHart fun h => { h with posted := h.posted.take k ++ (h.posted.drop k).map fun q => { q with by_ := .stream p.toNat, ins } }

/-- A write stream's elements that are still to be written; refusals of instructions with none left are reported (R226). -/
def putPend (p : BitVec 3) (left : List SElem) (s : State) : State :=
  (s.setStream p { s.stream p with pend := left }).settlePosted s.cur

/-- The stream has written bytes of this device: a poisoned line of which it has written all 64 is whole again (R187;
log 19). -/
def streamMend (p : BitVec 3) (pa n : Nat) (s : State) : State :=
  (linesOf pa n).foldl (fun s l =>
    if FMap.getD false l s.pois then
      let d := s.stream p
      let bits := (upFrom pa n).foldl (fun b a => if a / 64 = l then b ||| 2 ^ (a % 64) else b) (FMap.getD 0 l d.mend)
      if bits = 2 ^ 64 - 1 then (s.setStream p { d with mend := FMap.erase l d.mend }).setPois l false
      else s.setStream p { d with mend := FMap.insert l bits d.mend }
    else s) s

/-- Write one appended element. -/
def writeElem (p : BitVec 3) (e : SElem) : Act Unit := do
  let s ← get
  let k := s.hart.posted.length
  let late := s.hart.late
  set (s.onHart fun h => { h with late := 0 })
  writePiece false (nw e.va) e.n e.v (s.place e.pa)
  modify fun s => streamPosts p k e.ins (s.onHart fun h => { h with late })
  if let some pa := s.homeOf (s.place e.pa) then modify (streamMend p pa e.n)

/-- Write appended elements in pattern order until one must wait for a copy's fill (R149, R209). -/
def writeOut (p : BitVec 3) : List SElem → State → List SElem × State
  | [], s => ([], s)
  | e :: es, s =>
    match writeElem p e s with
    | .ok (_, s') => writeOut p es s'
    | .error _ => (e :: es, s)

/-- A write stream's appended elements are all written and its binding retires (R347). -/
def evStreamRetire (s : State) (slot : Nat) (port : BitVec 3) : State :=
  match s.focus slot with
  | none => s
  | some f =>
    let d := f.stream port
    if d.st ≠ .draining ∨ f.crew.place ≠ .resident then s
    else
      let (left, f) := writeOut port d.pend f
      let f := putPend port left f
      if left.isEmpty && !f.hart.streamOut port then f.setStream port Stream.reset else f

def execStreamRetire (s : State) : Res :=
  match s.input with
  | some (.streamRetire slot port) => .next (evStreamRetire s slot port)
  | _ => .next s

end Sys2Proof.Machine
end

