-- ==== Sys2Proof/Machine/VecMem.lean ====
section
/-!
DEFINITION. Vector loads and stores (14_vector R348 to R351; 07_memory R168, R187).
-/
namespace Sys2Proof.Machine

open State

/-! ### Element addresses (R348) -/

/-- x base plus a signed 16-bit byte offset. -/
def baseAddr (s : State) (xb : Reg) (e : BitVec 16) : Word := s.x xb + e.signExtend 64

/-- VLD, VST. -/
def addrUnit (s : State) (xb : Reg) (e : BitVec 16) (i : Nat) : Act Word := pure (baseAddr s xb e + nw (i * s.ebytes))

/-- VLDS, VSTS: a signed byte stride. -/
def addrStride (s : State) (xb xs : Reg) (e : BitVec 16) (i : Nat) : Act Word := pure (baseAddr s xb e + nw i * s.x xs)

/-- VLDX, VSTX: unsigned byte offsets of `iw` bytes from a register group. -/
def addrIndex (s : State) (xb vi : Reg) (iw i : Nat) : Act Word := do
  let o ← readV vi iw i
  pure (s.x xb + nw o)

/-- VLDT, VSTT: rows of VL elements, VRP bytes apart; with .T the memory holds the transpose. -/
def addrTile (s : State) (xb : Reg) (e : BitVec 16) (t : Bool) (i : Nat) : Act Word :=
  let r := i / s.vl
  let c := i % s.vl
  if t then pure (baseAddr s xb e + nw c * s.hart.csr.vrp + nw (r * s.ebytes))
  else pure (baseAddr s xb e + nw r * s.hart.csr.vrp + nw (c * s.ebytes))

/-- Index width in bytes by its code. -/
def idxBytes (iw : BitVec 2) : Nat := 2 ^ iw.toNat

/-! ### Loads (R349) -/

/-- Faults of an element of a load that trim VL: outside the shared-store allocation (R168), and under .FF every
LOAD_FAULT and RETIRED_PAGE (R349). -/
def loadTrims (s : State) (ff : Bool) (i : Nat) (e : Exit) : Bool :=
  decide (s.vstart < i) && s.hart.conv.isNone &&
  match e with
  | .trap _ .loadFault sub _ => ff || (decide (sub = 4) && decide (s.vrc = 1))
  | .host _ kind _ _ => ff && decide (kind ≤ 4)
  | _ => false

/-- A vector load. `addr` gives an element's VA. -/
def loadOp (vd : Reg) (idx : List (Nat × Nat)) (ff limits : Bool) (m : VMask) (addr : Nat → Act Word) (s : State) : VOp :=
  let eb := s.ebytes
  { reads := idx, writes := [(vd.toNat, eb)], mreads := m.reads, limits, states := !ff || decide (s.vrc = 1)
    mem := some (false, eb, addr)
    body := elemRun (idx.foldl (fun w p => Nat.max w p.2) eb) m (.x 0) (loadTrims s ff)
      (fun i => do
        let va ← addr i
        let ps ← reachAll .vecLd .read va eb
        let v ← readPieces false va (2 * i) ps
        modify fun s => s.setElem vd.toNat eb i v)
      (fun i s => if s.maskz then s.setElem vd.toNat eb i 0 else s)
      (fun a s => s.tailV vd.toNat eb a) }

def vldOp (vd xb : Reg) (e : BitVec 16) (ff : Bool) (m : VMask) (s : State) : VOp := loadOp vd [] ff true m (addrUnit s xb e) s
def vldsOp (vd xb xs : Reg) (e : BitVec 16) (ff : Bool) (m : VMask) (s : State) : VOp :=
  loadOp vd [] ff true m (addrStride s xb xs e) s
def vldxOp (vd xb vi : Reg) (iw : BitVec 2) (ff : Bool) (m : VMask) (s : State) : VOp :=
  loadOp vd [(vi.toNat, idxBytes iw)] ff true m (addrIndex s xb vi (idxBytes iw)) s
def vldtOp (vd xb : Reg) (e : BitVec 16) (t : Bool) (m : VMask) (s : State) : VOp :=
  loadOp vd [] false (!t || decide (s.ebytes ≤ 2)) m (addrTile s xb e t) s

def execVld (vd xb : Reg) (e : BitVec 16) (_lu ff : Bool) (m : VMask) (s : State) : Res := runV (vldOp vd xb e ff m s) s
def execVlds (vd xb xs : Reg) (e : BitVec 16) (_lu ff : Bool) (m : VMask) (s : State) : Res := runV (vldsOp vd xb xs e ff m s) s
def execVldx (vd xb vi : Reg) (iw : BitVec 2) (_lu ff : Bool) (m : VMask) (s : State) : Res := runV (vldxOp vd xb vi iw ff m s) s
def execVldt (vd xb : Reg) (e : BitVec 16) (_lu t : Bool) (m : VMask) (s : State) : Res := runV (vldtOp vd xb e t m s) s

/-! ### Stores (R350, R351) -/

/-- The bytes elements `a` to `i` of a store write in memory of this device, as (PA, bytes). -/
def storedAt (m : VMask) (addr : Nat → Act Word) (eb a i : Nat) (s : State) : List (Nat × Nat) :=
  (upFrom a (i + 1 - a)).flatMap fun j =>
    if s.active m j then
      match (do let va ← addr j; reachAll .vecSt .write va eb : Act (List (Nat × Nat × Place))) s with
      | .ok (ps, _) => ps.filterMap fun p => (s.homeOf p.2.2).map fun pa => (pa, p.2.1)
      | .error _ => []
    else []

/-- A poisoned line every byte of which a vector store has written is whole again (R187; log 19). -/
def healLines (m : VMask) (addr : Nat → Act Word) (eb a i : Nat) (ps : List (Nat × Nat × Place)) (s : State) : State :=
  ps.foldl (fun s p =>
    match s.homeOf p.2.2 with
    | some pa =>
      (linesOf pa p.2.1).foldl (fun s l =>
        if FMap.getD false l s.pois then
          let w := storedAt m addr eb a i s
          if (upFrom (l * 64) 64).all (fun b => w.any fun q => decide (q.1 ≤ b) && decide (b < q.1 + q.2)) then s.setPois l false else s
        else s) s
    | none => s) s

/-- A vector store to memory. -/
def storeOp (vs : Reg) (idx : List (Nat × Nat)) (m : VMask) (addr : Nat → Act Word) (s : State) : VOp :=
  let eb := s.ebytes
  { reads := (vs.toNat, eb) :: idx, mreads := m.reads
    mem := some (true, eb, addr)
    body := elemRun (idx.foldl (fun w p => Nat.max w p.2) eb) m (.x 0) noTrim
      (fun i => do
        let va ← addr i
        let ps ← reachAll .vecSt .write va eb
        let v ← readV vs eb i
        gateAll ps
        writePieces false va v ps
        modify (healLines m addr eb s.vstart i ps))
      (fun _ s => s) (fun _ s => s) }

/-- Append `n` elements from `i` on to a write stream (R150, R351): each is translated, and a poisoned one is refused. -/
def appendElems (vs : Reg) (p : BitVec 3) (eb : Nat) : Nat → Nat → Act (List SElem)
  | 0, _ => pure []
  | k + 1, i => fun s =>
    let d := s.stream p
    let va := d.addr (d.pos + i)
    let one : Act (List SElem) := do
      let ps ← reachAll .vecSt .write va eb
      let v ← readV vs eb i
      pure (ps.filterMap fun q =>
        match s.reach .write ((va.toNat + q.1) % 2 ^ 64) q.2.1 with
        | .ok pa => some { va := va.toNat, pa, n := q.2.1, v := v / 2 ^ (8 * q.1) % 2 ^ (8 * q.2.1), ins := s.hart.csr.instret }
        | .error _ => none)
    match one s with
    | .error e => .error (e.mapState (·.setVstart i))
    | .ok (es, s') =>
      match appendElems vs p eb k (i + 1) s' with
      | .ok (r, s'') => .ok (es ++ r, s'')
      | .error e => .error e

/-- VST to a write stream (R351). -/
def vstStreamOp (vs : Reg) (p : BitVec 3) (s : State) : VOp :=
  let eb := s.ebytes
  let n := s.nElems
  let d := s.stream p
  { reads := [(vs.toNat, eb)], appends := true
    states := decide (d.st = .unconfig) || decide (d.width = eb)
    operand := fun s =>
      if d.st ≠ .write then .error (.trap s .streamUnconfig 0 (nw p.toNat))
      else if d.left < n then .error (.trap s .streamUnderrun 0 (nw (d.left * 256 + p.toNat)))
      else .ok ((), s)
    body := do
      let s ← get
      let a := s.vstart
      let z := s.stopAt (s.groupE eb) n a
      if z < n ∧ s.hart.conv.isNone then do
        set (s.setVstart z)
        pure false
      else do
        let es ← appendElems vs p eb z 0
        if z < n then pure false
        else do
          modify fun s => (s.setStream p { s.stream p with pos := d.pos + n, pend := (s.stream p).pend ++ es }).setVstart 0
          pure true }

def vstOp (vs : Reg) (dst : StDst) (m : VMask) (s : State) : VOp :=
  match dst with
  | .mem xb e => storeOp vs [] m (addrUnit s xb e) s
  | .ds p => vstStreamOp vs p s
def vstsOp (vs xb xs : Reg) (e : BitVec 16) (m : VMask) (s : State) : VOp := storeOp vs [] m (addrStride s xb xs e) s
def vstxOp (vs xb vi : Reg) (iw : BitVec 2) (m : VMask) (s : State) : VOp :=
  storeOp vs [(vi.toNat, idxBytes iw)] m (addrIndex s xb vi (idxBytes iw)) s
def vsttOp (vs xb : Reg) (e : BitVec 16) (m : VMask) (s : State) : VOp := storeOp vs [] m (addrTile s xb e false) s

def execVst (vs : Reg) (dst : StDst) (m : VMask) (s : State) : Res := runV (vstOp vs dst m s) s
def execVsts (vs xb xs : Reg) (e : BitVec 16) (m : VMask) (s : State) : Res := runV (vstsOp vs xb xs e m s) s
def execVstx (vs xb vi : Reg) (iw : BitVec 2) (m : VMask) (s : State) : Res := runV (vstxOp vs xb vi iw m s) s
def execVstt (vs xb : Reg) (e : BitVec 16) (m : VMask) (s : State) : Res := runV (vsttOp vs xb e m s) s

end Sys2Proof.Machine
end

