-- ==== Sys2Proof/Machine/VecInt.lean ====
section
/-!
DEFINITION. Vector integer operations (14_vector R352 to R354).
-/
namespace Sys2Proof.Machine

open State

/-- An element-wise form of two SEW operands, b the first source (R352); `limits` are its own. -/
def binOp (vd vs2 : Reg) (s1 : Src1) (m : VMask) (limits : Bool) (f : Nat → Nat → FRes) (s : State) : VOp :=
  let eb := s.ebytes
  { reads := (vs2.toNat, eb) :: s1.group eb, writes := [(vd.toNat, eb)], mreads := m.reads, limits, port := s1.port
    body := elemOp vd eb eb m s1 1 fun i => do
      let a ← readV vs2 eb i
      let b ← s1Val s1 eb i
      pure (f a b) }

/-- An integer form without flags, on patterns of w bits. -/
def intOp (vd vs2 : Reg) (s1 : Src1) (m : VMask) (f : Nat → Nat → Nat → Nat) (s : State) : VOp :=
  let w := 8 * s.ebytes
  binOp vd vs2 s1 m true (fun a b => (f w a b % 2 ^ w, 0)) s

def vaddOp (vd vs2 : Reg) (s1 : Src1) (m : VMask) (s : State) : VOp := intOp vd vs2 s1 m (fun _ a b => a + b) s
def vsubOp (vd vs2 : Reg) (s1 : Src1) (m : VMask) (s : State) : VOp := intOp vd vs2 s1 m (fun w a b => a + 2 ^ w - b) s
def vrsubOp (vd vs2 : Reg) (s1 : Src1) (m : VMask) (s : State) : VOp := intOp vd vs2 s1 m (fun w a b => b + 2 ^ w - a) s
def vmulOp (vd vs2 : Reg) (s1 : Src1) (m : VMask) (s : State) : VOp := intOp vd vs2 s1 m (fun _ a b => a * b) s
def vmulhOp (u : Bool) (vd vs2 : Reg) (s1 : Src1) (m : VMask) (s : State) : VOp :=
  intOp vd vs2 s1 m (fun w a b => modW (readInt w (!u) a * readInt w (!u) b / ((2 ^ w : Nat) : Int)) w) s
def vdivOp (u : Bool) (vd vs2 : Reg) (s1 : Src1) (m : VMask) (s : State) : VOp :=
  intOp vd vs2 s1 m (fun w a b => if u then divU w a b else divS w a b) s
def vremOp (u : Bool) (vd vs2 : Reg) (s1 : Src1) (m : VMask) (s : State) : VOp :=
  intOp vd vs2 s1 m (fun w a b => if u then remU w a b else remS w a b) s
def vminOp (u : Bool) (vd vs2 : Reg) (s1 : Src1) (m : VMask) (s : State) : VOp :=
  intOp vd vs2 s1 m (fun w a b => if readInt w (!u) b < readInt w (!u) a then b else a) s
def vmaxOp (u : Bool) (vd vs2 : Reg) (s1 : Src1) (m : VMask) (s : State) : VOp :=
  intOp vd vs2 s1 m (fun w a b => if readInt w (!u) a < readInt w (!u) b then b else a) s
def vandOp (vd vs2 : Reg) (s1 : Src1) (m : VMask) (s : State) : VOp := intOp vd vs2 s1 m (fun _ a b => a &&& b) s
def vorOp (vd vs2 : Reg) (s1 : Src1) (m : VMask) (s : State) : VOp := intOp vd vs2 s1 m (fun _ a b => a ||| b) s
def vxorOp (vd vs2 : Reg) (s1 : Src1) (m : VMask) (s : State) : VOp := intOp vd vs2 s1 m (fun _ a b => a ^^^ b) s
def vsllOp (vd vs2 : Reg) (s1 : Src1) (m : VMask) (s : State) : VOp := intOp vd vs2 s1 m (fun w a b => a * 2 ^ (b % w)) s
def vsrlOp (vd vs2 : Reg) (s1 : Src1) (m : VMask) (s : State) : VOp := intOp vd vs2 s1 m (fun w a b => a / 2 ^ (b % w)) s
def vsraOp (vd vs2 : Reg) (s1 : Src1) (m : VMask) (s : State) : VOp := intOp vd vs2 s1 m (fun w a b => sraN w a (b % w)) s

/-- Saturating sum or difference: SAT when clamped. -/
def vsaddOp (u : Bool) (vd vs2 : Reg) (s1 : Src1) (m : VMask) (s : State) : VOp :=
  let w := 8 * s.ebytes
  binOp vd vs2 s1 m true (fun a b => clampInt w (!u) (readInt w (!u) a + readInt w (!u) b)) s
def vssubOp (u : Bool) (vd vs2 : Reg) (s1 : Src1) (m : VMask) (s : State) : VOp :=
  let w := 8 * s.ebytes
  binOp vd vs2 s1 m true (fun a b => clampInt w (!u) (readInt w (!u) a - readInt w (!u) b)) s

/-- x / 2^sh to the nearest integer, ties to even. -/
def shiftNE (x : Int) (sh : Nat) : Int :=
  let d : Int := ((2 ^ sh : Nat) : Int)
  let q := x / d
  let r := x % d
  if d < 2 * r ∨ (2 * r = d ∧ q % 2 = 1) then q + 1 else q

/-- VNCLIP (R353). -/
def vnclipOp (u : Bool) (vd vs2 : Reg) (s1 : Src1) (m : VMask) (s : State) : VOp :=
  let eb := s.ebytes
  let w := 8 * eb
  { reads := (vs2.toNat, 2 * eb) :: s1.group eb, writes := [(vd.toNat, eb)], mreads := m.reads
    limits := decide (eb ≤ 4) && decide (s.lmul ≤ 4), port := s1.port
    body := elemOp vd eb (2 * eb) m s1 1 fun i => do
      let x ← readV vs2 (2 * eb) i
      let b ← s1Val s1 eb i
      pure (clampInt w (!u) (shiftNE (readInt (2 * w) (!u) x) (b % (2 * w)))) }

/-- VWMUL (R353). -/
def vwmulOp (u : Bool) (vd vs2 : Reg) (s1 : Src1) (m : VMask) (s : State) : VOp :=
  let eb := s.ebytes
  let w := 8 * eb
  { reads := (vs2.toNat, eb) :: s1.group eb, writes := [(vd.toNat, 2 * eb)], mreads := m.reads
    limits := decide (eb ≤ 4) && decide (s.lmul ≤ 4), port := s1.port
    body := elemOp vd (2 * eb) (2 * eb) m s1 1 fun i => do
      let a ← readV vs2 eb i
      let b ← s1Val s1 eb i
      pure (modW (readInt w (!u) a * readInt w (!u) b) (2 * w), 0) }

/-- The integer conditions of VCMP: 0 eq, 1 ne, 2 lt, 3 le, 4 gt, 5 ge (R341, R354). -/
def intCond (cond : Nat) (a b : Int) : Bool :=
  match cond with
  | 0 => decide (a = b)
  | 1 => decide (a ≠ b)
  | 2 => decide (a < b)
  | 3 => decide (a ≤ b)
  | 4 => decide (b < a)
  | _ => decide (b ≤ a)

/-- A compare into a mask register. -/
def cmpOp (md vs2 : Reg) (s1 : Src1) (m : VMask) (f : Nat → Nat → Bool × Nat) (s : State) : VOp :=
  let eb := s.ebytes
  { reads := (vs2.toNat, eb) :: s1.group eb, mreads := m.reads, mwrites := [md.toNat], port := s1.port
    body := maskOp md eb m s1 fun i => do
      let a ← readV vs2 eb i
      let b ← s1Val s1 eb i
      pure (f a b) }

def vcmpOp (u : Bool) (cond : BitVec 3) (md vs2 : Reg) (s1 : Src1) (m : VMask) (s : State) : VOp :=
  let w := 8 * s.ebytes
  cmpOp md vs2 s1 m (fun a b => (intCond cond.toNat (readInt w (!u) a) (readInt w (!u) b), 0)) s

/-- VMERGE (R354): the mask selects and does not govern. -/
def vmergeOp (vd vs2 : Reg) (s1 : Src1) (mk : BitVec 3) (s : State) : VOp :=
  let eb := s.ebytes
  { reads := (vs2.toNat, eb) :: s1.group eb, writes := [(vd.toNat, eb)], mreads := [mk.toNat], port := s1.port
    body := elemOp vd eb eb .unmasked s1 1 fun i => do
      if (← get).maskBit mk.toNat i then
        let v ← s1Val s1 eb i
        pure (v, 0)
      else do
        if let .ds p := s1 then
          let _ ← streamElem p i
        let v ← readV vs2 eb i
        pure (v, 0) }

/-- VMV. -/
def vmvOp (vd : Reg) (s1 : Src1) (m : VMask) (s : State) : VOp :=
  let eb := s.ebytes
  { reads := s1.group eb, writes := [(vd.toNat, eb)], mreads := m.reads, port := s1.port
    body := elemOp vd eb eb m s1 1 fun i => do
      let v ← s1Val s1 eb i
      pure (v, 0) }

/-- VBCAST (R354). Its source is read as it stood before the instruction (R342). -/
def vbcastOp (vd vs2 : Reg) (s1 : XOrImm) (m : VMask) (s : State) : VOp :=
  let eb := s.ebytes
  let idx := xiVal s s1
  { reads := [(vs2.toNat, eb)], writes := [(vd.toNat, eb)], mreads := m.reads
    body := fun t =>
      elemOp vd eb eb m (.x 0) 1 (fun _ =>
        if idx < s.mvl then fun u => if t.elemPois vs2.toNat eb idx then .error (.trap u .poison 1 0) else .ok ((t.elem vs2.toNat eb idx, 0), u)
        else pure (0, 0)) t }

def execVadd (vd vs2 : Reg) (s1 : Src1) (m : VMask) (s : State) : Res := runV (vaddOp vd vs2 s1 m s) s
def execVsub (vd vs2 : Reg) (s1 : Src1) (m : VMask) (s : State) : Res := runV (vsubOp vd vs2 s1 m s) s
def execVrsub (vd vs2 : Reg) (s1 : Src1) (m : VMask) (s : State) : Res := runV (vrsubOp vd vs2 s1 m s) s
def execVmul (vd vs2 : Reg) (s1 : Src1) (m : VMask) (s : State) : Res := runV (vmulOp vd vs2 s1 m s) s
def execVmulh (u : Bool) (vd vs2 : Reg) (s1 : Src1) (m : VMask) (s : State) : Res := runV (vmulhOp u vd vs2 s1 m s) s
def execVdiv (u : Bool) (vd vs2 : Reg) (s1 : Src1) (m : VMask) (s : State) : Res := runV (vdivOp u vd vs2 s1 m s) s
def execVrem (u : Bool) (vd vs2 : Reg) (s1 : Src1) (m : VMask) (s : State) : Res := runV (vremOp u vd vs2 s1 m s) s
def execVmin (u : Bool) (vd vs2 : Reg) (s1 : Src1) (m : VMask) (s : State) : Res := runV (vminOp u vd vs2 s1 m s) s
def execVmax (u : Bool) (vd vs2 : Reg) (s1 : Src1) (m : VMask) (s : State) : Res := runV (vmaxOp u vd vs2 s1 m s) s
def execVand (vd vs2 : Reg) (s1 : Src1) (m : VMask) (s : State) : Res := runV (vandOp vd vs2 s1 m s) s
def execVor (vd vs2 : Reg) (s1 : Src1) (m : VMask) (s : State) : Res := runV (vorOp vd vs2 s1 m s) s
def execVxor (vd vs2 : Reg) (s1 : Src1) (m : VMask) (s : State) : Res := runV (vxorOp vd vs2 s1 m s) s
def execVsll (vd vs2 : Reg) (s1 : Src1) (m : VMask) (s : State) : Res := runV (vsllOp vd vs2 s1 m s) s
def execVsrl (vd vs2 : Reg) (s1 : Src1) (m : VMask) (s : State) : Res := runV (vsrlOp vd vs2 s1 m s) s
def execVsra (vd vs2 : Reg) (s1 : Src1) (m : VMask) (s : State) : Res := runV (vsraOp vd vs2 s1 m s) s
def execVsadd (u : Bool) (vd vs2 : Reg) (s1 : Src1) (m : VMask) (s : State) : Res := runV (vsaddOp u vd vs2 s1 m s) s
def execVssub (u : Bool) (vd vs2 : Reg) (s1 : Src1) (m : VMask) (s : State) : Res := runV (vssubOp u vd vs2 s1 m s) s
def execVnclip (u : Bool) (vd vs2 : Reg) (s1 : Src1) (m : VMask) (s : State) : Res := runV (vnclipOp u vd vs2 s1 m s) s
def execVwmul (u : Bool) (vd vs2 : Reg) (s1 : Src1) (m : VMask) (s : State) : Res := runV (vwmulOp u vd vs2 s1 m s) s
def execVcmp (u : Bool) (cond : BitVec 3) (md vs2 : Reg) (s1 : Src1) (m : VMask) (s : State) : Res :=
  runV (vcmpOp u cond md vs2 s1 m s) s
def execVmerge (vd vs2 : Reg) (s1 : Src1) (mk : BitVec 3) (s : State) : Res := runV (vmergeOp vd vs2 s1 mk s) s
def execVmv (vd : Reg) (s1 : Src1) (m : VMask) (s : State) : Res := runV (vmvOp vd s1 m s) s
def execVbcast (vd vs2 : Reg) (s1 : XOrImm) (m : VMask) (s : State) : Res := runV (vbcastOp vd vs2 s1 m s) s

end Sys2Proof.Machine
end

