-- ==== Sys2Proof/Machine/VecFp.lean ====
section
/-!
DEFINITION. Vector floating-point operations, estimates and elementary functions (14_vector R355 to R357; 11_numbers R261 to
R266, R273 to R275).
-/
namespace Sys2Proof.Machine

open State

/-- An element-wise form of one SEW operand. -/
def unOp (vd vs2 : Reg) (m : VMask) (limits : Bool) (f : Nat → FRes) (s : State) : VOp :=
  let eb := s.ebytes
  { reads := [(vs2.toNat, eb)], writes := [(vd.toNat, eb)], mreads := m.reads, limits
    body := elemOp vd eb eb m (.x 0) 1 fun i => do
      let a ← readV vs2 eb i
      pure (f a) }

/-- SEW 8 is refused by FP arithmetic. -/
def notSew8 (s : State) : Bool := decide (2 ≤ s.ebytes)

def vfaddOp (vd vs2 : Reg) (s1 : Src1) (m : VMask) (s : State) : VOp := binOp vd vs2 s1 m (notSew8 s) (fpAdd s.vfmt s.frm) s
def vfsubOp (vd vs2 : Reg) (s1 : Src1) (m : VMask) (s : State) : VOp := binOp vd vs2 s1 m (notSew8 s) (fpSub s.vfmt s.frm) s
def vfmulOp (vd vs2 : Reg) (s1 : Src1) (m : VMask) (s : State) : VOp := binOp vd vs2 s1 m (notSew8 s) (fpMul s.vfmt s.frm) s
def vfdivOp (vd vs2 : Reg) (s1 : Src1) (m : VMask) (s : State) : VOp := binOp vd vs2 s1 m (notSew8 s) (fpDiv s.vfmt s.frm) s
def vfsqrtOp (vd vs2 : Reg) (m : VMask) (s : State) : VOp := unOp vd vs2 m (notSew8 s) (fpSqrt s.vfmt s.frm) s
def vfminOp (vd vs2 : Reg) (s1 : Src1) (m : VMask) (s : State) : VOp := binOp vd vs2 s1 m true (fpMinMax s.vfmt false) s
def vfmaxOp (vd vs2 : Reg) (s1 : Src1) (m : VMask) (s : State) : VOp := binOp vd vs2 s1 m true (fpMinMax s.vfmt true) s

/-- VFSGN: the magnitude of a under sign b, its complement, or a's sign XOR b's. -/
def sgnInject (inj w a b : Nat) : Nat :=
  let sa := a / 2 ^ (w - 1) % 2
  let sb := b / 2 ^ (w - 1) % 2
  let t := match inj with
    | 0 => sb
    | 1 => 1 - sb
    | _ => (sa + sb) % 2
  t * 2 ^ (w - 1) + a % 2 ^ (w - 1)

def vfsgnOp (inj : BitVec 2) (vd vs2 : Reg) (s1 : Src1) (m : VMask) (s : State) : VOp :=
  intOp vd vs2 s1 m (fun w a b => sgnInject inj.toNat w a b) s

/-- VFCLASS: the class index of R317's numbering. -/
def vfclassOp (vd vs2 : Reg) (m : VMask) (s : State) : VOp := unOp vd vs2 m true (fun a => (Nat.log2 (fpClassify s.vfmt a), 0)) s

def vfcmpOp (cond : BitVec 3) (md vs2 : Reg) (s1 : Src1) (m : VMask) (s : State) : VOp :=
  cmpOp md vs2 s1 m (fpCompare s.vfmt cond.toNat) s

/-- VFMA (R356): `neg` bit 0 negates the product and bit 1 the addend. -/
def vfmaOp (neg : BitVec 2) (vd vs2 : Reg) (s1 : Src1) (vs3 : Reg) (m : VMask) (s : State) : VOp :=
  let eb := s.ebytes
  { reads := [(vs2.toNat, eb), (vs3.toNat, eb)] ++ s1.group eb, writes := [(vd.toNat, eb)], mreads := m.reads
    limits := notSew8 s, port := s1.port
    body := elemOp vd eb eb m s1 1 fun i => do
      let a ← readV vs2 eb i
      let b ← s1Val s1 eb i
      let c ← readV vs3 eb i
      pure (fpFma s.vfmt s.frm (neg.getLsbD 0) (neg.getLsbD 1) a b c) }

def vfrecOp (vd vs2 : Reg) (m : VMask) (s : State) : VOp := unOp vd vs2 m (notSew8 s) (fpRec s.vfmt) s
def vfrsqOp (vd vs2 : Reg) (m : VMask) (s : State) : VOp := unOp vd vs2 m (notSew8 s) (fpRsq s.vfmt) s
def vfrecrefOp (vd vs2 : Reg) (s1 : Src1) (m : VMask) (s : State) : VOp := binOp vd vs2 s1 m (notSew8 s) (fpRecRef s.vfmt s.frm) s
def vfrsqrefOp (vd vs2 : Reg) (s1 : Src1) (m : VMask) (s : State) : VOp := binOp vd vs2 s1 m (notSew8 s) (fpRsqRef s.vfmt s.frm) s
def vfexp2Op (vd vs2 : Reg) (m : VMask) (s : State) : VOp := unOp vd vs2 m (notSew8 s) (fpExp2 s.vfmt) s
def vflog2Op (vd vs2 : Reg) (m : VMask) (s : State) : VOp := unOp vd vs2 m (notSew8 s) (fpLog2 s.vfmt) s

def execVfadd (vd vs2 : Reg) (s1 : Src1) (m : VMask) (s : State) : Res := runV (vfaddOp vd vs2 s1 m s) s
def execVfsub (vd vs2 : Reg) (s1 : Src1) (m : VMask) (s : State) : Res := runV (vfsubOp vd vs2 s1 m s) s
def execVfmul (vd vs2 : Reg) (s1 : Src1) (m : VMask) (s : State) : Res := runV (vfmulOp vd vs2 s1 m s) s
def execVfdiv (vd vs2 : Reg) (s1 : Src1) (m : VMask) (s : State) : Res := runV (vfdivOp vd vs2 s1 m s) s
def execVfsqrt (vd vs2 : Reg) (m : VMask) (s : State) : Res := runV (vfsqrtOp vd vs2 m s) s
def execVfmin (vd vs2 : Reg) (s1 : Src1) (m : VMask) (s : State) : Res := runV (vfminOp vd vs2 s1 m s) s
def execVfmax (vd vs2 : Reg) (s1 : Src1) (m : VMask) (s : State) : Res := runV (vfmaxOp vd vs2 s1 m s) s
def execVfsgn (inj : BitVec 2) (vd vs2 : Reg) (s1 : Src1) (m : VMask) (s : State) : Res := runV (vfsgnOp inj vd vs2 s1 m s) s
def execVfclass (vd vs2 : Reg) (m : VMask) (s : State) : Res := runV (vfclassOp vd vs2 m s) s
def execVfcmp (cond : BitVec 3) (md vs2 : Reg) (s1 : Src1) (m : VMask) (s : State) : Res := runV (vfcmpOp cond md vs2 s1 m s) s
def execVfma (neg : BitVec 2) (vd vs2 : Reg) (s1 : Src1) (vs3 : Reg) (m : VMask) (s : State) : Res :=
  runV (vfmaOp neg vd vs2 s1 vs3 m s) s
def execVfrec (vd vs2 : Reg) (m : VMask) (s : State) : Res := runV (vfrecOp vd vs2 m s) s
def execVfrsq (vd vs2 : Reg) (m : VMask) (s : State) : Res := runV (vfrsqOp vd vs2 m s) s
def execVfrecref (vd vs2 : Reg) (s1 : Src1) (m : VMask) (s : State) : Res := runV (vfrecrefOp vd vs2 s1 m s) s
def execVfrsqref (vd vs2 : Reg) (s1 : Src1) (m : VMask) (s : State) : Res := runV (vfrsqrefOp vd vs2 s1 m s) s
def execVfexp2 (vd vs2 : Reg) (m : VMask) (s : State) : Res := runV (vfexp2Op vd vs2 m s) s
def execVflog2 (vd vs2 : Reg) (m : VMask) (s : State) : Res := runV (vflog2Op vd vs2 m s) s

end Sys2Proof.Machine
end

