-- ==== Sys2Proof/Machine/VecCvt.lean ====
section
/-!
DEFINITION. Vector conversions (14_vector R358; 11_numbers R269).
-/
namespace Sys2Proof.Machine

open State

/-- Source width in bytes of a source code: IMM16[1:0]. -/
def srcBytes (src : BitVec 4) : Nat := 2 ^ (src.toNat % 4)
/-- SSIGN and SALT. -/
def srcSigned (src : BitVec 4) : Bool := src.getLsbD 3
def srcAlt (src : BitVec 4) : Bool := src.getLsbD 2
def srcFmt (src : BitVec 4) : Fmt := fmtOf (srcBytes src) (srcAlt src)

/-- A conversion: vs2 read at the source width, vd written at SEW. -/
def cvtOp (vd vs2 : Reg) (src : BitVec 4) (m : VMask) (f : Nat → FRes) (s : State) : VOp :=
  let eb := s.ebytes
  let sw := srcBytes src
  { reads := [(vs2.toNat, sw)], writes := [(vd.toNat, eb)], mreads := m.reads
    body := elemOp vd eb (Nat.max eb sw) m (.x 0) 1 fun i => do
      let a ← readV vs2 sw i
      pure (f a) }

def vfcvtOp (vd vs2 : Reg) (src : BitVec 4) (m : VMask) (s : State) : VOp :=
  cvtOp vd vs2 src m (fpCvt (srcFmt src) s.vfmt s.frm s.satF8) s
def vfcvtiOp (u : Bool) (vd vs2 : Reg) (src : BitVec 4) (m : VMask) (s : State) : VOp :=
  cvtOp vd vs2 src m (fpToInt (srcFmt src) s.frm (!u) (8 * s.ebytes)) s
def vicvtfOp (vd vs2 : Reg) (src : BitVec 4) (m : VMask) (s : State) : VOp :=
  cvtOp vd vs2 src m (fun a => intToFp s.vfmt s.frm s.satF8 (readInt (8 * srcBytes src) (srcSigned src) a)) s
def viextOp (vd vs2 : Reg) (src : BitVec 4) (m : VMask) (s : State) : VOp :=
  cvtOp vd vs2 src m (fun a => (modW (readInt (8 * srcBytes src) (srcSigned src) a) (8 * s.ebytes), 0)) s

def execVfcvt (vd vs2 : Reg) (src : BitVec 4) (m : VMask) (s : State) : Res := runV (vfcvtOp vd vs2 src m s) s
def execVfcvti (u : Bool) (vd vs2 : Reg) (src : BitVec 4) (m : VMask) (s : State) : Res := runV (vfcvtiOp u vd vs2 src m s) s
def execVicvtf (vd vs2 : Reg) (src : BitVec 4) (m : VMask) (s : State) : Res := runV (vicvtfOp vd vs2 src m s) s
def execViext (vd vs2 : Reg) (src : BitVec 4) (m : VMask) (s : State) : Res := runV (viextOp vd vs2 src m s) s

end Sys2Proof.Machine
end

