-- ==== Sys2Proof/Machine/VecRed.lean ====
section
/-!
DEFINITION. Vector reductions (14_vector R359; 08_ordering R213 for PairTree; 09_traps R229, R231).
-/
namespace Sys2Proof.Machine

open State

/-- Complete a form that uses no VSTART. -/
def wholeBody (a : Act Unit) : Act Bool := do
  a
  modify fun s => s.setVstart 0
  pure true

/-- One level of PairTree: pairs in ascending order, an unpaired last element passed up. -/
def pairUp (op : Nat → Nat → FRes) : List Nat → List Nat × Nat
  | a :: b :: r =>
    let (v, fl) := op a b
    let (vs, fs) := pairUp op r
    (v :: vs, fl ||| fs)
  | r => (r, 0)

/-- PairTree of R213, with `fuel` levels: the value, if there is one, and the flags of every node. -/
def pairTree (op : Nat → Nat → FRes) : Nat → List Nat → Option Nat × Nat
  | _, [] => (none, 0)
  | _, [v] => (some v, 0)
  | 0, v :: _ => (some v, 0)
  | fuel + 1, vs =>
    let (us, fl) := pairUp op vs
    let (r, fs) := pairTree op fuel us
    (r, fl ||| fs)

/-- Combine from the left, with flags. -/
def foldFl (op : Nat → Nat → FRes) (init : Nat) (vs : List Nat) : FRes :=
  vs.foldl (fun (acc : FRes) x => let (v, fl) := op acc.1 x; (v, acc.2 ||| fl)) (init, 0)

/-- The initial value of a reduction: element 0 of vs1, or the x register's low bits. -/
def redInit (s1 : VOrX) (eb : Nat) (w : Reg → Nat → Nat → Act Nat) : Act Nat :=
  match s1 with
  | .v r => w r eb 0
  | .x r => do pure (((← get).x r).toNat % 2 ^ (8 * eb))

/-- A reduction that is not restartable: `f` combines the initial value and the active elements. -/
def redOp (vd vs2 : Reg) (s1 : VOrX) (m : VMask) (limits : Bool) (f : Nat → List Nat → FRes) (s : State) : VOp :=
  let eb := s.ebytes
  { reads := (vs2.toNat, eb) :: s1.group eb, writes := [(vd.toNat, eb)], mreads := m.reads, kind := .whole, limits
    body := wholeBody do
      let init ← redInit s1 eb readW
      let act ← activeElems vs2 eb m s.nElems 0
      let (v, fl) := f init (act.map (·.2))
      modify fun s => (((s.addFlags fl).setElem vd.toNat eb 0 v).tailV vd.toNat eb 1).addWork act.length }

def vredsumOp (f : Bool) (vd vs2 : Reg) (s1 : VOrX) (m : VMask) (s : State) : VOp :=
  let w := 8 * s.ebytes
  if f then
    redOp vd vs2 s1 m (notSew8 s) (fun init act =>
      match pairTree (fpAdd s.vfmt s.frm) act.length act with
      | (none, _) => (init, 0)
      | (some t, fl) => let (v, fl') := fpAdd s.vfmt s.frm init t; (v, fl ||| fl')) s
  else redOp vd vs2 s1 m true (fun init act => ((init + act.sum) % 2 ^ w, 0)) s

/-- VREDMAX and VREDMIN. -/
def redMinMax (max_ f u : Bool) (vd vs2 : Reg) (s1 : VOrX) (m : VMask) (s : State) : VOp :=
  let w := 8 * s.ebytes
  if f then redOp vd vs2 s1 m (notSew8 s) (foldFl (fpMinMax s.vfmt max_)) s
  else
    redOp vd vs2 s1 m true (foldFl fun a b =>
      let less := decide (readInt w (!u) b < readInt w (!u) a)
      let more := decide (readInt w (!u) a < readInt w (!u) b)
      (if (if max_ then more else less) then b else a, 0)) s

def vredmaxOp (f u : Bool) (vd vs2 : Reg) (s1 : VOrX) (m : VMask) (s : State) : VOp := redMinMax true f u vd vs2 s1 m s
def vredminOp (f u : Bool) (vd vs2 : Reg) (s1 : VOrX) (m : VMask) (s : State) : VOp := redMinMax false f u vd vs2 s1 m s
def vredandOp (vd vs2 : Reg) (s1 : VOrX) (m : VMask) (s : State) : VOp :=
  redOp vd vs2 s1 m true (foldFl fun a b => (a &&& b, 0)) s
def vredorOp (vd vs2 : Reg) (s1 : VOrX) (m : VMask) (s : State) : VOp :=
  redOp vd vs2 s1 m true (foldFl fun a b => (a ||| b, 0)) s

/-- Stop an ordered sum at an element: VSTART, and VREDACC when it is above 0 (R231). -/
def State.osumStop (s : State) (i acc : Nat) : State :=
  (if i = 0 then s else s.onCsr fun c => { c with vredacc := nw acc }).setVstart i

/-- The ordered sum over elements `i` to `i + k − 1`, from `acc`. -/
def osumLoop (f : Fmt) (rm : Nat) (g : Reg) (eb : Nat) (m : VMask) : Nat → Nat → Nat → Act Nat
  | 0, _, acc => pure acc
  | k + 1, i, acc => fun s =>
    if s.active m i then
      if s.elemPois g.toNat eb i then .error (.trap (s.osumStop i acc) .poison 1 0)
      else
        let (v, fl) := fpAdd f rm acc (s.elem g.toNat eb i)
        osumLoop f rm g eb m k (i + 1) v ((s.addFlags fl).addWork 1)
    else osumLoop f rm g eb m k (i + 1) acc s

/-- VREDOSUM: restartable, its partial sum in VREDACC. -/
def vredosumOp (vd vs2 : Reg) (s1 : VOrX) (m : VMask) (s : State) : VOp :=
  let eb := s.ebytes
  { reads := (vs2.toNat, eb) :: s1.group eb, writes := [(vd.toNat, eb)], mreads := m.reads, limits := notSew8 s
    body := do
      let s ← get
      let n := s.nElems
      let a := s.vstart
      let z := s.stopAt (s.groupE eb) n a
      let init ← if a = 0 then redInit s1 eb readV else pure (s.hart.csr.vredacc.toNat % 2 ^ (8 * eb))
      let acc ← osumLoop s.vfmt s.frm vs2 eb m (z - a) a init
      if z < n then do
        modify fun s => s.osumStop z acc
        pure false
      else do
        modify fun s => ((s.setElem vd.toNat eb 0 acc).tailV vd.toNat eb 1).setVstart 0
        pure true }

def execVredsum (f : Bool) (vd vs2 : Reg) (s1 : VOrX) (m : VMask) (s : State) : Res := runV (vredsumOp f vd vs2 s1 m s) s
def execVredosum (vd vs2 : Reg) (s1 : VOrX) (m : VMask) (s : State) : Res := runV (vredosumOp vd vs2 s1 m s) s
def execVredmax (f u : Bool) (vd vs2 : Reg) (s1 : VOrX) (m : VMask) (s : State) : Res := runV (vredmaxOp f u vd vs2 s1 m s) s
def execVredmin (f u : Bool) (vd vs2 : Reg) (s1 : VOrX) (m : VMask) (s : State) : Res := runV (vredminOp f u vd vs2 s1 m s) s
def execVredand (vd vs2 : Reg) (s1 : VOrX) (m : VMask) (s : State) : Res := runV (vredandOp vd vs2 s1 m s) s
def execVredor (vd vs2 : Reg) (s1 : VOrX) (m : VMask) (s : State) : Res := runV (vredorOp vd vs2 s1 m s) s

end Sys2Proof.Machine
end

