-- ==== Sys2Proof/Machine/VecPerm.lean ====
section
/-!
DEFINITION. Mask operations, permutation and moves (14_vector R360 to R363).
-/
namespace Sys2Proof.Machine

open State

/-! ### Mask operations (R360) -/

/-- op of VMLOGIC: and, or, xor, andn, orn, nand, nor, xnor. -/
def maskLogic (op : Nat) (a b : Bool) : Bool :=
  match op with
  | 0 => a && b
  | 1 => a || b
  | 2 => a != b
  | 3 => a && !b
  | 4 => a || !b
  | 5 => !(a && b)
  | 6 => !(a || b)
  | _ => a == b

def vmlogicOp (op : BitVec 3) (md ms2 ms1 : Reg) (s : State) : VOp :=
  { reads := [], mreads := [ms2.toNat, ms1.toNat], mwrites := [md.toNat]
    body := elemRun s.ebytes .unmasked (.x 0) noTrim
      (fun i => modify fun s => s.setMaskBit md.toNat i (maskLogic op.toNat (s.maskBit ms2.toNat i) (s.maskBit ms1.toNat i)))
      (fun _ s => s) (fun a s => s.tailM md.toNat a) }

/-- The i below n that are active with bit i of a mask set, ascending. -/
def activeBits (s : State) (ms : Reg) (m : VMask) : List Nat :=
  (List.range s.nElems).filter fun i => s.active m i && s.maskBit ms.toNat i

def vpopcOp (rd ms2 : Reg) (m : VMask) (_ : State) : VOp :=
  { reads := [], mreads := ms2.toNat :: m.reads, kind := .whole, cross := true
    body := wholeBody (modify fun s => s.setX rd (nw (activeBits s ms2 m).length)) }

def vfirstOp (rd ms2 : Reg) (m : VMask) (_ : State) : VOp :=
  { reads := [], mreads := ms2.toNat :: m.reads, kind := .whole, cross := true
    body := wholeBody (modify fun s => s.setX rd (match activeBits s ms2 m with | i :: _ => nw i | [] => BitVec.allOnes 64)) }

/-- Write the values given to elements from `i` on; none leaves an element as it is. -/
def State.putElems (s : State) (g w : Nat) : Nat → List (Option Nat) → State
  | _, [] => s
  | i, some v :: vs => State.putElems (s.setElem g w i v) g w (i + 1) vs
  | i, none :: vs => State.putElems s g w (i + 1) vs

/-- Values for elements `i` to `i + k − 1` under a mask; an inactive one is zeroed under MASKZ. -/
def gather (m : VMask) (f : Nat → Act (Option Nat)) : Nat → Nat → Act (List (Option Nat))
  | 0, _ => pure []
  | k + 1, i => do
    let s ← get
    let v ← if s.active m i then f i else pure (if s.maskz then some 0 else none)
    let r ← gather m f k (i + 1)
    pure (v :: r)

/-- A form that reads all its operands, then writes elements 0 to n − 1 of vd, and the tail. -/
def gatherBody (vd : Reg) (eb : Nat) (m : VMask) (f : Nat → Act (Option Nat)) : Act Bool :=
  wholeBody do
    let n := (← get).nElems
    let vs ← gather m f n 0
    modify fun s => (s.putElems vd.toNat eb 0 vs).tailV vd.toNat eb n

def viotaOp (vd ms2 : Reg) (m : VMask) (s : State) : VOp :=
  let eb := s.ebytes
  { reads := [], writes := [(vd.toNat, eb)], mreads := ms2.toNat :: m.reads, kind := .whole
    body := gatherBody vd eb m fun i => do
      let s ← get
      pure (some ((List.range i).countP fun j => s.active m j && s.maskBit ms2.toNat j)) }

/-! ### Slides and permutation (R361) -/

/-- Element `j` of a group for destination element `i`, which TVAL names (R229). -/
def readAt (g : Reg) (w j i : Nat) : Act Nat := fun s =>
  if s.elemPois g.toNat w j then .error (.trap s .poison 1 (nw i)) else .ok (s.elem g.toNat w j, s)

/-- An unsigned offset or count under R339 and R340: its low w bits. -/
def xiLow (s : State) (o : XOrImm) (eb : Nat) : Nat := xiVal s o % 2 ^ (8 * eb)

/-- VSLIDEUP: active elements below the offset stay as they are. -/
def vslideupOp (vd vs2 : Reg) (s1 : XOrImm) (m : VMask) (s : State) : VOp :=
  let eb := s.ebytes
  let off := xiLow s s1 eb
  { reads := [(vs2.toNat, eb)], writes := [(vd.toNat, eb)], mreads := m.reads, kind := .whole
    body := gatherBody vd eb m fun i => do
      if i < off then pure none
      else
        let v ← readAt vs2 eb (i - off) i
        pure (some v) }

def vslidednOp (vd vs2 : Reg) (s1 : XOrImm) (m : VMask) (s : State) : VOp :=
  let eb := s.ebytes
  let off := xiLow s s1 eb
  { reads := [(vs2.toNat, eb)], writes := [(vd.toNat, eb)], mreads := m.reads, kind := .whole
    body := gatherBody vd eb m fun i => do
      if i + off < (← get).nElems then
        let v ← readAt vs2 eb (i + off) i
        pure (some v)
      else pure (some 0) }

def vpermOp (vd vs2 vs1 : Reg) (m : VMask) (s : State) : VOp :=
  let eb := s.ebytes
  { reads := [(vs2.toNat, eb), (vs1.toNat, eb)], writes := [(vd.toNat, eb)], mreads := m.reads, kind := .whole
    body := gatherBody vd eb m fun i => do
      let idx ← readW vs1 eb i
      if idx < (← get).nElems then
        let v ← readAt vs2 eb idx i
        pure (some v)
      else pure (some 0) }

/-! ### Compress and expand (R362) -/

/-- VCOMPRESS sets VL to the number of elements kept. -/
def vcompressOp (vd vs2 ms1 : Reg) (s : State) : VOp :=
  let eb := s.ebytes
  { reads := [(vs2.toNat, eb)], writes := [(vd.toNat, eb)], mreads := [ms1.toNat], kind := .whole, states := decide (s.vrc = 1)
    body := wholeBody do
      let s ← get
      let kept := (List.range s.nElems).filter (s.maskBit ms1.toNat)
      let vs ← kept.mapM (readW vs2 eb)
      modify fun s => ((s.setElems vd.toNat eb 0 vs).tailV vd.toNat eb vs.length).setVlVec vs.length }

def vexpandOp (vd vs2 ms1 : Reg) (s : State) : VOp :=
  let eb := s.ebytes
  { reads := [(vs2.toNat, eb)], writes := [(vd.toNat, eb)], mreads := [ms1.toNat], kind := .whole
    body := gatherBody vd eb .unmasked fun i => do
      let s ← get
      if s.maskBit ms1.toNat i then
        let v ← readAt vs2 eb ((List.range i).countP (s.maskBit ms1.toNat)) i
        pure (some v)
      else pure (if s.maskz then some 0 else none) }

/-! ### Moves (R363) -/

def vmvxsOp (rd vs2 : Reg) (s1 : XOrImm) (s : State) : VOp :=
  let eb := s.ebytes
  let idx := xiLow s s1 eb
  { reads := [(vs2.toNat, eb)], kind := .whole, cross := true
    body := wholeBody do
      if idx < (← get).mvl then
        let v ← readW vs2 eb idx
        modify fun s => s.setX rd (sextW v (8 * eb))
      else modify fun s => s.setX rd 0 }

/-- VMVSX: restartable (R229), so an execution that starts above element 0 leaves element 0 as it is. -/
def vmvsxOp (vd : Reg) (s1 : XOrImm) (s : State) : VOp :=
  let eb := s.ebytes
  { reads := [], writes := [(vd.toNat, eb)]
    body := wholeBody (modify fun t =>
      (if t.vstart = 0 then t.setElem vd.toNat eb 0 (xiLow s s1 eb) else t).tailV vd.toNat eb 1) }

def execVmlogic (op : BitVec 3) (md ms2 ms1 : Reg) (s : State) : Res := runV (vmlogicOp op md ms2 ms1 s) s
def execVpopc (rd ms2 : Reg) (m : VMask) (s : State) : Res := runV (vpopcOp rd ms2 m s) s
def execVfirst (rd ms2 : Reg) (m : VMask) (s : State) : Res := runV (vfirstOp rd ms2 m s) s
def execViota (vd ms2 : Reg) (m : VMask) (s : State) : Res := runV (viotaOp vd ms2 m s) s
def execVslideup (vd vs2 : Reg) (s1 : XOrImm) (m : VMask) (s : State) : Res := runV (vslideupOp vd vs2 s1 m s) s
def execVslidedn (vd vs2 : Reg) (s1 : XOrImm) (m : VMask) (s : State) : Res := runV (vslidednOp vd vs2 s1 m s) s
def execVperm (vd vs2 vs1 : Reg) (m : VMask) (s : State) : Res := runV (vpermOp vd vs2 vs1 m s) s
def execVcompress (vd vs2 ms1 : Reg) (s : State) : Res := runV (vcompressOp vd vs2 ms1 s) s
def execVexpand (vd vs2 ms1 : Reg) (s : State) : Res := runV (vexpandOp vd vs2 ms1 s) s
def execVmvxs (rd vs2 : Reg) (s1 : XOrImm) (s : State) : Res := runV (vmvxsOp rd vs2 s1 s) s
def execVmvsx (vd : Reg) (s1 : XOrImm) (s : State) : Res := runV (vmvsxOp vd s1 s) s

end Sys2Proof.Machine
end

