-- ==== Sys2Proof/Machine/VecSparse.lean ====
section
/-!
DEFINITION. Sparse operations and pivots (14_vector R364 to R367; 11_numbers R276 to R279).
-/
namespace Sys2Proof.Machine

open State

/-- The zero test of R276. -/
def isZeroElem (f : Option Fmt) (v : Nat) : Bool :=
  match f with
  | some f => f.isZero v
  | none => decide (v = 0)

/-- The format that .F and VTYPE select. -/
def rankFmt (s : State) (f : Bool) : Option Fmt := if f then some s.vfmt else none

/-- Whether an index fits an element: n ≤ 2^w (R364). -/
def indexFits (s : State) : Bool := decide (s.nElems ≤ 2 ^ (8 * s.ebytes))

def vnzscanOp (f : Bool) (vd vs2 : Reg) (m : VMask) (s : State) : VOp :=
  let eb := s.ebytes
  { reads := [(vs2.toNat, eb)], writes := [(vd.toNat, eb)], mreads := m.reads, kind := .whole, limits := indexFits s
    states := decide (s.vrc = 1)
    body := wholeBody do
      let act ← activeElems vs2 eb m (← get).nElems 0
      let hits := (act.filter fun p => !isZeroElem (rankFmt s f) p.2).map (·.1)
      modify fun s => ((s.setElems vd.toNat eb 0 hits).tailV vd.toNat eb hits.length).setVlVec hits.length }

/-- x ranks above y by the key of R277 alone. -/
def ranksAbove (f : Option Fmt) (w : Nat) (byval : Bool) (x y : Nat) : Bool :=
  match f with
  | some f =>
    let k (v : Nat) : Nat := if byval then v else v % 2 ^ (w - 1)
    if f.isNaN x then !f.isNaN y
    else if f.isNaN y then false
    else fpLtVal f (k y) (k x)
  | none =>
    let k (v : Nat) : Int := if byval then sextI v w else ((sextI v w).natAbs : Int)
    decide (k y < k x)

/-- Insert an element of a higher index into a list in rank order. -/
def insertRank (above : Nat → Nat → Bool) (x : Nat × Nat) : List (Nat × Nat) → List (Nat × Nat)
  | [] => [x]
  | y :: ys => if above x.2 y.2 then x :: y :: ys else y :: insertRank above x ys

/-- The elements in rank order (R277). -/
def rankOrder (above : Nat → Nat → Bool) (act : List (Nat × Nat)) : List (Nat × Nat) :=
  act.foldl (fun r x => insertRank above x r) []

/-- Lengthen a list to `n` elements. -/
def padTo (n d : Nat) (xs : List Nat) : List Nat := xs.take n ++ List.replicate (n - xs.length) d

def vtopkOp (f byval : Bool) (vd vi vs2 : Reg) (s1 : XOrImm) (m : VMask) (s : State) : VOp :=
  let eb := s.ebytes
  let w := 8 * eb
  { reads := [(vs2.toNat, eb)], writes := [(vd.toNat, eb), (vi.toNat, eb)], mreads := m.reads, kind := .whole
    limits := indexFits s && !s.groupsMeet (vd.toNat, eb) (vi.toNat, eb), states := decide (s.vrc = 1)
    body := wholeBody do
      let act ← activeElems vs2 eb m (← get).nElems 0
      let nv := Nat.min (xiLow s s1 eb) s.vl
      let r := rankOrder (ranksAbove (rankFmt s f) w byval) act
      let nan := f && act.any fun p => s.vfmt.isNaN p.2
      modify fun s =>
        let s := s.addFlags (if nan then fNANK else 0)
        let s := (s.setElems vd.toNat eb 0 (padTo nv 0 (r.map (·.2)))).tailV vd.toNat eb nv
        ((s.setElems vi.toNat eb 0 (padTo nv (2 ^ w - 1) (r.map (·.1)))).tailV vi.toNat eb nv).setVlVec nv }

/-- The segmented prefix sum over elements `i` on: an element's value, none where it stays as it is, and flags. -/
def segScan (s : State) (ms1 : Reg) (m : VMask) (sum : Nat → Nat → FRes) (vals : List (Nat × Nat)) :
    Nat → Nat → Option Nat → List (Option Nat) × Nat
  | 0, _, _ => ([], 0)
  | k + 1, i, acc =>
    let acc := if i = 0 ∨ s.maskBit ms1.toNat i = true then none else acc
    match (if s.active m i then vals.find? (fun p => decide (p.1 = i)) else none) with
    | some (_, x) =>
      let (v, fl) := match acc with
        | none => (x, 0)
        | some a => sum a x
      let (r, fs) := segScan s ms1 m sum vals k (i + 1) (some v)
      (some v :: r, fl ||| fs)
    | none =>
      let (r, fs) := segScan s ms1 m sum vals k (i + 1) acc
      ((if s.maskz then some 0 else none) :: r, fs)

def vsegscanOp (f : Bool) (vd vs2 ms1 : Reg) (m : VMask) (s : State) : VOp :=
  let eb := s.ebytes
  let w := 8 * eb
  let sum (a x : Nat) : FRes := if f then fpAdd s.vfmt s.frm a x else ((a + x) % 2 ^ w, 0)
  { reads := [(vs2.toNat, eb)], writes := [(vd.toNat, eb)], mreads := ms1.toNat :: m.reads, kind := .whole
    body := wholeBody do
      let t ← get
      let n := t.nElems
      let act ← activeElems vs2 eb m n 0
      let (vs, fl) := segScan t ms1 m sum act n 0 none
      modify fun s => ((s.addFlags fl).putElems vd.toNat eb 0 vs).tailV vd.toNat eb n }

/-! ### Pivots (R278, R279) -/

/-- What a pivot does: 0 fails, 1 divides by p, 2 is regularised and divides by τ′. -/
def pivCase (f : Fmt) (guard : Bool) (p tau : Nat) : Nat :=
  if f.isNaN p then 0
  else if !fpLtVal f (p % 2 ^ (f.w - 1)) tau then 1
  else if guard then 2
  else 0

/-- |PIVTAU| in a format; a NaN acts as +0. -/
def pivTau (f : Fmt) (t : Word) : Nat :=
  let a := t.toNat % 2 ^ 63
  if fp64.isNaN a then 0 else (fpCvt fp64 f 0 false a).1

/-- The value of an element (R279). -/
def pivElem (f : Fmt) (c p tau x : Nat) : FRes :=
  if c = 0 then (f.pivNaN, 0)
  else if c = 1 then fpDiv f 0 x p
  else
    let (v, fl) := fpDiv f 0 x (tau + f.sgn (f.sign p))
    if fl / fOF % 2 = 1 then (f.maxFin (f.sign v), fl) else (v, fl)

/-- PIVSTAT after a VPIVDIV has completed. -/
def pivRecord (st : Word) (c : Nat) : Word :=
  if c = 0 then setFld st 0 1 1
  else if c = 2 then setFld st 32 32 (Nat.min (2 ^ 32 - 1) (fld st 32 32 + 1))
  else st

def vpivdivOp (vd vs2 xp : Reg) (m : VMask) (s : State) : VOp :=
  let eb := s.ebytes
  let f := s.vfmt
  let p := (s.x xp).toNat % 2 ^ (8 * eb)
  let tau := pivTau f s.hart.csr.pivtau
  let c := pivCase f (bit s.hart.csr.hcap 1) p tau
  { reads := [(vs2.toNat, eb)], writes := [(vd.toNat, eb)], mreads := m.reads, limits := decide (4 ≤ eb)
    body := do
      let done ← elemOp vd eb eb m (.x 0) 1 fun i => do
        let x ← readV vs2 eb i
        pure (pivElem f c p tau x)
      if done then modify fun s => s.onCsr fun k => { k with pivstat := pivRecord k.pivstat c }
      pure done }

def vpivselOp (f : Bool) (rd vs2 : Reg) (m : VMask) (s : State) : VOp :=
  let eb := s.ebytes
  { reads := [(vs2.toNat, eb)], mreads := m.reads, kind := .whole, cross := true
    body := wholeBody do
      let act ← activeElems vs2 eb m (← get).nElems 0
      let r := rankOrder (ranksAbove (rankFmt s f) (8 * eb) false) act
      modify fun s => s.setX rd (match r with | x :: _ => nw x.1 | [] => BitVec.allOnes 64) }

def execVnzscan (f : Bool) (vd vs2 : Reg) (m : VMask) (s : State) : Res := runV (vnzscanOp f vd vs2 m s) s
def execVtopk (f byval : Bool) (vd vi vs2 : Reg) (s1 : XOrImm) (m : VMask) (s : State) : Res :=
  runV (vtopkOp f byval vd vi vs2 s1 m s) s
def execVsegscan (f : Bool) (vd vs2 ms1 : Reg) (m : VMask) (s : State) : Res := runV (vsegscanOp f vd vs2 ms1 m s) s
def execVpivdiv (vd vs2 xp : Reg) (m : VMask) (s : State) : Res := runV (vpivdivOp vd vs2 xp m s) s
def execVpivsel (f : Bool) (rd vs2 : Reg) (m : VMask) (s : State) : Res := runV (vpivselOp f rd vs2 m s) s

end Sys2Proof.Machine
end

