-- ==== Sys2Proof/Machine/VecMemop.lean ====
section
/-!
DEFINITION. Operations at memory (14_vector R368 to R371; 08_ordering R213 to R215; 02_torus_links R33, R35, R40 to R42).
-/
namespace Sys2Proof.Machine

open State

/-! ### Checks before any update (R368) -/

/-- The place of an aligned element of `w` bytes. A VAMO to a multicast address is a LOAD_FAULT, any other form a
STORE_FAULT (R35). -/
def vmPlace (vamo : Bool) (va : Word) (w : Nat) : Act Place := do
  check (decide (va.toNat % w = 0)) .misalignData 0 va
  let s ← get
  match s.reach .write va.toNat w with
  | .error f => addrFault false va f
  | .ok pa =>
    match s.place pa with
    | .mcast _ _ _ => raise (if vamo then .loadFault else .storeFault) 0 va
    | p => if s.admits .atomic va.toNat w p then pure p else raise .storeFault 0 va

/-- Refusals this device makes before a request is sent (R33). -/
def refusalCheck (va : Word) : Place → Act Unit
  | .remote chip off => do
    let s ← get
    match s.srcRefuses chip with
    | some c => refuseHere false c chip va
    | none =>
      if chip = s.chipId then
        match s.tgtRefuses s.crew.tenant off with
        | some c => refuseHere false c chip va
        | none => pure ()
      else pure ()
  | _ => pure ()

/-- An element of an operation at memory: its index, address, place, value and compare value. -/
structure MElem where
  i     : Nat
  va    : Word
  place : Place
  v     : Nat
  cmp   : Nat
  deriving DecidableEq, Repr

/-- Check the active elements from `i` on until one fails: those that pass, and the one that fails. -/
def scanElems (m : VMask) (one : Nat → Act MElem) (s : State) : Nat → Nat → List MElem × Option Nat
  | 0, _ => ([], none)
  | k + 1, i =>
    if s.active m i then
      match one i s with
      | .ok (e, _) => let (r, f) := scanElems m one s k (i + 1); (e :: r, f)
      | .error _ => ([], some i)
    else scanElems m one s k (i + 1)

/-- Wait for the fills of every local element before any update (R159). -/
def gateElems (w : Nat) (es : List MElem) : Act Unit := gateAll (es.map fun e => (0, w, e.place))

/-- The failing element's own trap, with VSTART at it. -/
def failAt (one : Nat → Act MElem) (e : Nat) : Act Bool := do
  let _ ← onExit (·.setVstart e) (one e)
  modify fun s => s.setVstart e
  pure false

/-- A value operand. -/
def voxVal (s1 : VOrX) (eb i : Nat) (rd : Reg → Nat → Nat → Act Nat) : Act Nat :=
  match s1 with
  | .v r => rd r eb i
  | .x r => do pure (((← get).x r).toNat % 2 ^ (8 * eb))

/-! ### VAMO (R213, R369) -/

/-- The update that MOD[40:37] names (R341). -/
def amoOp (op : BitVec 4) : AtomOp :=
  match op.toNat with
  | 0 => .add | 1 => .and | 2 => .or | 3 => .xor | 4 => .min | 5 => .max | 6 => .minu | 7 => .maxu | 8 => .swap | 9 => .cas
  | 10 => .fadd | 11 => .fmin | _ => .fmax

/-- One update at a home: the element it is reported at, the value, and the elements that share it. -/
structure AmoSet where
  e    : MElem
  t    : Nat
  fl   : Nat
  lanes : List MElem
  deriving DecidableEq, Repr

/-- The updates of an instruction: one for each element, or under TREE one for each location (R213). -/
def amoSets (op : AtomOp) (w : Nat) (tree : Bool) (es : List MElem) : List AmoSet :=
  if tree then
    let rec go : List Place → List MElem → List AmoSet
      | _, [] => []
      | seen, e :: r =>
        if seen.contains e.place then go seen r
        else
          let lanes := es.filter fun x => decide (x.place = e.place)
          let (t, fl) := pairTree (fun a b => atomNew op w a b 0) lanes.length (lanes.map (·.v))
          { e, t := t.getD e.v, fl, lanes } :: go (e.place :: seen) r
    go [] es
  else es.map fun e => { e, t := e.v, fl := 0, lanes := [e] }

/-- What each element of a set gets back: the values REPLAY would return (R213). -/
def laneOlds (op : AtomOp) (w : Nat) : Nat → List MElem → List (Nat × Nat)
  | _, [] => []
  | old, e :: r => (e.i, old) :: laneOlds op w (atomNew op w old e.v e.cmp).1 r

/-- Write the old values of elements `a` to `a + k − 1`. -/
def writeOlds (vd : Reg) (eb : Nat) (m : VMask) (olds : List (Nat × Nat)) : Nat → Nat → State → State
  | 0, _, s => s
  | k + 1, a, s =>
    let s :=
      if s.active m a then
        match olds.find? (fun p => decide (p.1 = a)) with
        | some p => s.setElem vd.toNat eb a p.2
        | none => s
      else if s.maskz then s.setElem vd.toNat eb a 0
      else s
    writeOlds vd eb m olds k (a + 1) s

/-- Perform the updates in order; `fin` puts what has come back into vd when one fails. -/
def amoPass (op : AtomOp) (w : Nat) (fin : List (Nat × Nat) → Nat → State → State) :
    List AmoSet → List (Nat × Nat) → Act (List (Nat × Nat))
  | [], olds => pure olds
  | g :: gs, olds => fun s =>
    match atomAt g.e.va (2 * g.e.i) w op g.t g.e.cmp g.e.place s with
    | .ok ((old, fl), s') => amoPass op w fin gs (olds ++ laneOlds op w old g.lanes) (s'.addFlags (fl ||| g.fl))
    | .error x => .error (x.mapState fun s => (fin olds g.e.i s).setVstart g.e.i)

/-- Whether a place of this device is poisoned: then the element ends the instruction (R368). -/
def homePois (s : State) (w : Nat) : Place → Bool
  | .mem pa => s.poisonedAny pa w
  | .remote chip off => decide (chip = s.chipId) && s.poisonedAny off w
  | _ => false

/-- Elements before the first whose home is poisoned, then that element: nothing above it is performed. -/
def cutPois (s : State) (w : Nat) : List MElem → List MElem × Option MElem
  | [] => ([], none)
  | e :: r => if homePois s w e.place then ([], some e) else let (a, b) := cutPois s w r; (e :: a, b)

/-- Whether the remote homes admit the updates, found by reads before any update: the first element whose home refuses
it or is poisoned, and whether it is poisoned (R213, R368; log 70). -/
def treeProbe (w : Nat) : List AmoSet → Act (Option (MElem × Bool))
  | [] => pure none
  | g :: gs => do
    match g.e.place with
    | .remote chip off => do
      let s ← get
      if chip = s.chipId then treeProbe w gs
      else
        match ← answerOf (2 ^ 41 + 2 * g.e.i) with
        | some .refused => pure (some (g.e, false))
        | some .poisoned => pure (some (g.e, true))
        | some _ => treeProbe w gs
        | none =>
          ask (2 ^ 41 + 2 * g.e.i) fun tag => .request chip
            { kind := .read, src := s.chipId, tenant := s.crew.tenant, tag, off, width := w, dat := 0, cmp := 0, core := s.crew.core }
    | _ => treeProbe w gs

def vamoOp (op : BitVec 4) (vd xb vi : Reg) (s1 : VOrX) (m : VMask) (s : State) : VOp :=
  let eb := s.ebytes
  let o := amoOp op
  let one (i : Nat) : Act MElem := do
    let off ← readV vi eb i
    let va := (← get).x xb + nw off
    let place ← vmPlace true va eb
    refusalCheck va place
    let v ← voxVal s1 eb i readV
    let cmp ← if o = .cas then readV vd eb i else pure 0
    pure { i, va, place, v, cmp }
  { reads := (vi.toNat, eb) :: s1.group eb, writes := [(vd.toNat, eb)], mreads := m.reads, limits := decide (4 ≤ eb)
    body := do
      let s ← get
      let n := s.nElems
      let a := s.vstart
      let (es, fail) := scanElems m one s (n - a) a
      gateElems eb es
      let (es, bad) := cutPois s eb es
      let tree := bit s.hart.csr.amomode 0 && decide (o ≠ .swap) && decide (o ≠ .cas)
      let fin (olds : List (Nat × Nat)) (e : Nat) (s : State) : State := writeOlds vd eb m olds (e - a) a s
      -- an update that combines elements is made only once no lower element can fail
      let sets := amoSets o eb tree es
      let stop ← if sets.any (fun g => decide (1 < g.lanes.length)) && tree then treeProbe eb sets else pure none
      let bad := stop.orElse fun _ => bad.map fun e => (e, true)
      let olds ← amoPass o eb fin (match stop with | some (e, _) => amoSets o eb tree (es.filter fun x => decide (x.i < e.i)) | none => sets) []
      match bad, fail with
      | some (e, pois), _ => do
        modify fun s => (fin olds e.i s).setVstart e.i
        raise (if pois then .poison else .storeFault) 0 e.va
      | none, some e => do
        modify (fin olds e)
        failAt one e
      | none, none => do
        modify fun s => ((fin olds n s).tailV vd.toNat eb n).setVstart 0
        pure true }

/-! ### VSCATADD and VSCATACC (R40 to R42, R214, R370) -/

/-- An addition that finds its line poisoned is not applied and is reported (R187, R226). -/
def reportPois (va : Word) : Act Unit := modify fun s => (s.reportImp s.cur .poison 0 va).poisonWb s.cur

/-- An addition at a home of this device; its flags are raised (R264). -/
def addHome (va : Word) (w : Nat) (f : Bool) (v pa : Nat) : Act Unit := do
  match ← updateLocal pa w (if f then .fadd else .add) v 0 with
  | none => reportPois va
  | some (_, fl) => modify fun s => s.addFlags fl

/-- An addition without an answer (R31, R33, R170). -/
def addAt (e : MElem) (w : Nat) (f : Bool) : Act Unit :=
  match e.place with
  | .mem pa => addHome e.va w f e.v pa
  | .remote chip off => do
    let s ← get
    match s.srcRefuses chip with
    | some c => refusePosted c chip e.va
    | none =>
      if chip = s.chipId then
        match s.tgtRefuses s.crew.tenant off with
        | some c => refusePosted c chip e.va
        | none => addHome e.va w f e.v off
      else
        post e.va.toNat (remotePa chip off) w fun tag => .request chip
          { kind := .atomic (if f then .fadd else .add), src := s.chipId, tenant := s.crew.tenant, tag, off, width := w, dat := e.v, cmp := 0
            core := s.crew.core }
  | _ => raise .storeFault 0 e.va

/-- Keep a pair for the chip that owns it, or add it here (R41). -/
def sendPair (e : MElem) (w : Nat) (f : Bool) : Act Unit :=
  match e.place with
  | .mem pa => addHome e.va w f e.v pa
  | .remote chip off => do
    let s ← get
    match s.srcRefuses chip with
    | some c => refusePosted c chip e.va
    | none =>
      let p : PairMsg := { src := s.chipId, tenant := s.crew.tenant, off, width := w, fp := f, v := e.v, tag := s.nextTag, core := s.crew.core }
      let s : State := { s with nextTag := s.nextTag + 1, hart := { s.hart with pairs := s.hart.pairs ++ [(chip, p)] } }
      set (s.addPosted { tag := p.tag, va := e.va.toNat, by_ := .hart, lo := remotePa chip off, n := w, ins := s.hart.csr.instret, bad := false })
  | _ => raise .storeFault 0 e.va

/-- The pairs of an instruction leave, those of one owner packed 15 to a flit in element order (R42). -/
def State.flushPairs (s : State) : State :=
  let ps := s.hart.pairs
  let go (s : State) (chip : Nat) : State :=
    let mine := (ps.filter fun p => decide (p.1 = chip)).map (·.2)
    (List.range (ceilDiv mine.length 15)).foldl (fun (s : State) k => s.emitNet (.scatter chip ((mine.drop (15 * k)).take 15))) s
  ((ps.map (·.1)).eraseDups).foldl go { s with hart := { s.hart with pairs := [] } }

/-- The common course of the two scatters: checks from VSTART, then the additions in order up to a failing element, the
end, or a pre-emption point between element groups (R368). -/
def scatBody (m : VMask) (eb : Nat) (one : Nat → Act MElem) (act : MElem → Act Unit) : Act Bool := do
  let s ← get
  let n := s.nElems
  let a := s.vstart
  let (es, fail) := scanElems m one s (n - a) a
  let z := s.stopAt (s.groupE eb) n a
  let upto := Nat.min z (fail.getD n)
  let now := es.filter fun e => decide (e.i < upto)
  gateElems eb now
  now.forM act
  if z < n ∧ z ≤ fail.getD n then do
    modify fun s => s.setVstart z
    pure false
  else
    match fail with
    | some e => failAt one e
    | none => do
      modify fun s => s.setVstart 0
      pure true

def vscataddOp (f : Bool) (xb vi : Reg) (s1 : VOrX) (m : VMask) (s : State) : VOp :=
  let eb := s.ebytes
  let one (i : Nat) : Act MElem := do
    let off ← readV vi eb i
    let va := (← get).x xb + nw off
    let place ← vmPlace false va eb
    let v ← voxVal s1 eb i readV
    pure { i, va, place, v, cmp := 0 }
  { reads := (vi.toNat, eb) :: s1.group eb, mreads := m.reads, limits := decide (4 ≤ eb)
    body := scatBody m eb one fun e => addAt e eb f }

/-- OWNMAP's fields (R40). -/
def ownEn (s : State) : Bool := bit s.hart.csr.ownmap 63
def ownTab (s : State) : Nat := fld s.hart.csr.ownmap 12 46 * 128
def ownChips (s : State) : Nat := fld s.hart.csr.ownmap 5 6 + 1
def ownBlk (s : State) : Nat := fld s.hart.csr.ownmap 0 5

/-- The chip an index belongs to: its block, then the chip table (R41). -/
def chipSlot (s : State) (idx : Nat) : Nat := idx / 2 ^ ownBlk s % ownChips s

/-- Its local index on that chip. -/
def localIdx (s : State) (idx : Nat) : Nat :=
  idx / 2 ^ ownBlk s / ownChips s * 2 ^ ownBlk s + idx % 2 ^ ownBlk s

/-- Read the chip table's entries for the active elements that are not poisoned; a fault leaves VSTART as it is. -/
def chipTable (vi : Reg) (eb : Nat) (m : VMask) : Nat → Nat → Act (List (Nat × Nat))
  | 0, _ => pure []
  | k + 1, i => do
    let s ← get
    if s.active m i && !s.elemPois vi.toNat eb i then
      let slot := chipSlot s (s.elem vi.toNat eb i)
      let va := nw (ownTab s + 2 * slot)
      let ps ← reachAll .vecLd .read va 2
      let t ← readPieces false va (2 ^ 40 + 2 * i) ps
      let r ← chipTable vi eb m k (i + 1)
      pure ((i, t % 2 ^ 12) :: r)
    else chipTable vi eb m k (i + 1)

/-- VSCATACC. The chip-table entries of all active elements are read before any element is checked (log 73). -/
def vscataccOp (f : Bool) (xb vi : Reg) (s1 : VOrX) (m : VMask) (s : State) : VOp :=
  let eb := s.ebytes
  let one (tab : List (Nat × Nat)) (i : Nat) : Act MElem := do
    let idx ← readV vi eb i
    let s ← get
    let va := s.x xb + nw (localIdx s idx * eb)
    match ← vmPlace false va eb with
    | .mem pa => do
      let chip := match tab.find? (fun p => decide (p.1 = i)) with
        | some p => p.2
        | none => s.chipId
      let v ← voxVal s1 eb i readV
      pure { i, va, place := if chip = s.chipId then .mem pa else .remote chip (pa % 2 ^ 39), v, cmp := 0 }
    | _ => raise .storeFault 0 va
  { reads := (vi.toNat, eb) :: s1.group eb, mreads := m.reads, limits := decide (4 ≤ eb)
    states := ownEn s && decide (ownBlk s ≤ 20)
    body := do
      let s ← get
      let tab ← chipTable vi eb m (s.nElems - s.vstart) s.vstart
      scatBody m eb (one tab) fun e => sendPair e eb f }

/-! ### VLOCK and VUNLOCK (R215, R371) -/

/-- The hart's token. -/
def lockToken (s : State) : Nat := 0x80 + s.hart.idx % 32 + s.crew.crewId % 2 ^ 24 * 2 ^ 8

/-- Insert in ascending order of address, equal addresses in order of index. -/
def insertAddr (e : MElem) : List MElem → List MElem
  | [] => [e]
  | x :: r => if e.va.toNat < x.va.toNat then e :: x :: r else x :: insertAddr e r

/-- Elements in ascending order of address. -/
def byAddr (es : List MElem) : List MElem := es.foldl (fun r e => insertAddr e r) []

/-- The elements that attempt the swap: of equal addresses the lowest index (R215). -/
def firstOfAddr : Option Word → List MElem → List MElem
  | _, [] => []
  | prev, e :: r => if prev = some e.va then firstOfAddr prev r else e :: firstOfAddr (some e.va) r

/-- Whether each remote lock's target admits the hart, found by a read before any swap, so that a refusal traps before a
lock is taken (R33, R229). -/
def lockProbe (eb : Nat) (es : List MElem) : Act Unit :=
  es.forM fun e => do
    match e.place with
    | .remote chip off => do
      let s ← get
      if chip ≠ s.chipId then
        match ← answerOf (2 ^ 41 + 2 * e.i) with
        | some .refused => raise .storeFault 0 e.va
        | some _ => pure ()
        | none =>
          ask (2 ^ 41 + 2 * e.i) fun tag => .request chip
            { kind := .read, src := s.chipId, tenant := s.crew.tenant, tag, off, width := eb, dat := 0, cmp := 0, core := s.crew.core }
      else pure ()
    | _ => pure ()

/-- What a swap comes to: done, with whether it succeeded, or waiting. -/
inductive LockStep where
  | done (won : Bool) (s : State)
  | waits (s : State)

/-- One compare-and-swap of 0 to the token. A poisoned lock fails and is reported (R215, R226); so does one that has
been refused although its target admitted the probe, which no trap can report any more (log 70). -/
def lockOne (eb : Nat) (e : MElem) (s : State) : LockStep :=
  match atomAt e.va (2 * e.i) eb .cas (lockToken s % 2 ^ (8 * eb)) 0 e.place s with
  | .ok ((old, _), s') => .done (decide (old = 0)) s'
  | .error (.wait s') => .waits s'
  | .error (.ask s' k o) => .waits (s'.sendAsk k o)
  | .error (.trap s' .poison 0 v) => .done false (s'.reportImp s'.cur .poison 0 v)
  | .error _ => .done false (s.reportImp s.cur .storeFault 0 e.va)

/-- The address checks of both forms. -/
def lockElem (xb vi : Reg) (eb i : Nat) : Act MElem := do
  let off ← readW vi eb i
  let va := (← get).x xb + nw off
  let place ← vmPlace false va eb
  refusalCheck va place
  pure { i, va, place, v := 0, cmp := 0 }

/-- Every active element checked; a failing one traps with VSTART = 0 before any swap or store. -/
def lockScan (xb vi : Reg) (eb : Nat) (m : VMask) : Act (List MElem) := do
  let s ← get
  let (es, fail) := scanElems m (lockElem xb vi eb) s s.nElems 0
  if let some e := fail then
    let _ ← lockElem xb vi eb e
  gateElems eb es
  pure es

def isFabric (e : MElem) : Bool := match e.place with | .remote _ _ => true | _ => false

/-- The locks' elements as they are attempted: in ascending order of address, of equal addresses the lowest index. -/
def lockOrder (es : List MElem) : List MElem := firstOfAddr none (byAddr es)

/-- Write bits 0 to n − 1 of a mask register. -/
def State.setMask (s : State) (r : Nat) (f : Nat → Bool) : Nat → State
  | 0 => s
  | n + 1 => (State.setMask s r f n).setMaskBit r n (f n)

/-- VLOCK up to its first swap: every check, and the probes of remote locks. -/
def vlockOp (md xb vi : Reg) (m : VMask) (s : State) : VOp :=
  let eb := s.ebytes
  { reads := [(vi.toNat, eb)], mreads := m.reads, mwrites := [md.toNat], kind := .whole, limits := decide (4 ≤ eb)
    body := wholeBody do
      let es ← lockScan xb vi eb m
      lockProbe eb es
      modify fun s => s.onHart fun h => { h with lockRun := some [] } }

/-- The end of a VLOCK: an acquire where it took a lock, which waits for a line it must write back (R159), and the mask
of the locks it took. -/
def lockEnd (md : Reg) (es : List MElem) (won : List Nat) (s : State) : State :=
  let n := s.nElems
  let mine := es.filter fun e => won.contains e.i
  if !mine.isEmpty && (s.dlines s.crew.core fun d => !d.dirty.all id).any (s.stuck s.crew.core) then s else
  let s := if mine.isEmpty then s else (s.onHart fun h => { h with early := [] }).refresh s.crew.core
  let s := ((s.setMask md.toNat won.contains n).tailM md.toNat n).setVstart 0
  (s.onHart fun h => { h with
    lockRun := none, ibuf := FMap.erase h.pc.toNat (FMap.erase (h.pc.toNat + 4) h.ibuf) }).advance 8

/-- The swaps that remain, in ascending order of address. What has been done stays done while one waits (R215, R216). -/
def lockGo (md : Reg) (eb : Nat) (all : List MElem) : List MElem → List (Nat × Bool) → State → State
  | [], ran, s => lockEnd md all ((ran.filter (·.2)).map (·.1)) s
  | e :: es, ran, s =>
    match lockOne eb e s with
    | .done won s' =>
      let ran := ran ++ [(e.i, won)]
      lockGo md eb all es ran (s'.onHart fun h => { h with lockRun := some ran })
    | .waits s' => s'

/-- Go on with a VLOCK that has begun its swaps. An element whose address is no longer reached fails. -/
def lockResume (md xb vi : Reg) (m : VMask) (ran : List (Nat × Bool)) (s : State) : State :=
  let eb := s.ebytes
  let es := lockOrder ((List.range s.nElems).filterMap fun i =>
    if s.active m i then
      match lockElem xb vi eb i s with
      | .ok (e, _) => some e
      | .error _ => some { i, va := s.x xb + nw (s.elem vi.toNat eb i), place := .hole, v := 0, cmp := 0 }
    else none)
  lockGo md eb es (es.filter fun e => !(ran.any fun r => decide (r.1 = e.i))) ran s

/-- Store 0 to a lock: a partial write (R215). -/
def unlockOne (eb : Nat) (e : MElem) : Act Unit := writePiece false e.va eb 0 e.place

def vunlockOp (xb vi : Reg) (m : VMask) (s : State) : VOp :=
  let eb := s.ebytes
  { reads := [(vi.toNat, eb)], mreads := m.reads, kind := .whole, limits := decide (4 ≤ eb)
    body := wholeBody do
      let es ← lockScan xb vi eb m
      release (if es.any isFabric then 3 else 2)
      (byAddr es).forM (unlockOne eb) }

def execVamo (op : BitVec 4) (vd xb vi : Reg) (s1 : VOrX) (m : VMask) (s : State) : Res := runV (vamoOp op vd xb vi s1 m s) s
def execVscatadd (f : Bool) (xb vi : Reg) (s1 : VOrX) (m : VMask) (s : State) : Res := runV (vscataddOp f xb vi s1 m s) s
def execVscatacc (f : Bool) (xb vi : Reg) (s1 : VOrX) (m : VMask) (s : State) : Res :=
  match runV (vscataccOp f xb vi s1 m s) s with
  | .next t => .next t.flushPairs
  | o => o
/-- VLOCK: its checks, then its swaps. -/
def execVlock (md xb vi : Reg) (m : VMask) (s : State) : Res :=
  match s.hart.lockRun with
  | some ran => .next (lockResume md xb vi m ran s)
  | none =>
    match ((vlockOp md xb vi m s).check >>= fun _ => (vlockOp md xb vi m s).run) s with
    | .error e => .next ((e.steady s).inOrder s).state
    | .ok (_, t) =>
      match t.hart.lockRun with
      | some ran => .next (lockResume md xb vi m ran t)
      | none => .next (t.advance 8)
def execVunlock (xb vi : Reg) (m : VMask) (s : State) : Res := runV (vunlockOp xb vi m s) s

end Sys2Proof.Machine
end

