-- ==== Sys2Proof/Machine/VecNet.lean ====
section
/-!
DEFINITION. Link-queue transfers of vector registers (14_vector R372; 02_torus_links R46 to R48; 06_core R153).
-/
namespace Sys2Proof.Machine

open State

/-- Whether a link-queue number names one of lq0 to lq15 (R293). -/
def lqNumOk (q : Reg) : Bool := decide (q.toNat < 16)

/-- The bytes of elements below n of a group; POISON where one is poisoned (R372). -/
def sendBytes (vs : Reg) (eb : Nat) : Act (List Byte) := fun s =>
  let n := s.nElems
  if (List.range n).any (fun i => s.elemPois vs.toNat eb i) then .error (.trap s .poison 1 0)
  else .ok ((upFrom (s.vKey vs.toNat 1 0) (n * eb)).map (fun k => FMap.getD 0 k s.hart.v), s)

/-- VSEND. In a convoy it holds a credit from the start, and sends once every member has committed every element. -/
def vsendOp (rel : Bool) (q vs2 : Reg) (s : State) : VOp :=
  let eb := s.ebytes
  { reads := [(vs2.toNat, eb)], kind := .queue, limits := lqNumOk q && decide (s.nElems * eb ≤ 16384)
    operand := lqUses [(q, true)]
    before := lqTake q
    body := do
      let s ← get
      if s.hart.conv.isSome then
        let n := s.nElems
        let z := s.stopAt 1 n n
        match (upFrom s.vstart (z - s.vstart)).find? (fun i => s.elemPois vs2.toNat eb i) with
        | some i => fun s => .error (.trap (s.setVstart i) .poison 1 0)
        | none => pure (decide (z = n))
      else do
        let _ ← sendBytes vs2 eb
        if rel then release 3
        pure true
    settle := if rel then release 3 else pure ()
    finish := do
      let n := (← get).nElems
      let data ← sendBytes vs2 eb
      lqGive q
      lqReady q
      lqSendTile q 1 (n * eb) 8 data
      modify fun s => s.setVstart 0 }

/-- Write payload bytes from byte `b` on. -/
def putBytes (vd : Reg) (b : Nat) (bs : List Byte) (s : State) : State := s.setElems vd.toNat 1 b (bs.map (·.toNat))

/-- The entry VRECV takes, checked against the room of the group. -/
def recvEntry (q : Reg) : Act TileMsg := do
  let s ← get
  let m ← lqPeek q
  check (decide (m.bytes ≤ s.lmul * s.hart.vlenb)) .shapeMismatch 0 (tileHeader m)
  pure m

/-- VRECV. In a convoy its elements are the payload at SEW, from VSTART on, and the entry is consumed at the end. -/
def vrecvOp (acq : Bool) (vd q : Reg) (s : State) : VOp :=
  let eb := s.ebytes
  { reads := [], writes := [(vd.toNat, eb)], kind := .queue, limits := lqNumOk q
    operand := lqUses [(q, false)]
    before := do
      let _ ← recvEntry q
    body := do
      let s ← get
      let n := s.nElems
      let m ← recvEntry q
      let room := s.lmul * s.hart.vlenb
      let conv := s.hart.conv.isSome
      let z := s.stopAt 1 n n
      let from_ := if conv then s.vstart * eb else 0
      let whole := if conv then m.bytes / eb * eb else m.bytes
      let upTo := if z < n then Nat.min whole (z * eb) else whole
      modify (putBytes vd from_ ((m.data.take upTo).drop from_))
      let top := if z < n then z * eb else room
      modify fun s => if s.tailz then s.zeroElems vd.toNat 1 (Nat.max from_ whole) top else s
      pure (decide (z = n))
    finish := do
      lqConsume q
      if acq then acquire 3
      modify fun s => s.setVstart 0 }

def execVsend (rel : Bool) (q vs2 : Reg) (s : State) : Res := runV (vsendOp rel q vs2 s) s
def execVrecv (acq : Bool) (vd q : Reg) (s : State) : Res := runV (vrecvOp acq vd q s) s

end Sys2Proof.Machine
end

