-- ==== Sys2Proof/Machine/Matrix.lean ====
section
/-!
DEFINITION. Matrix instructions and tile moves (15_matrix_merge_copy R374 to R392; 06_core R154 to R157; 11_numbers R267, R270 to
R272), and the step that completes an outer product.
-/
namespace Sys2Proof.Machine

open State

/-! ### Tiles -/

/-- Key of tile element (r, c) of acct. -/
def accKey (t r c : Nat) : Nat := t * 4096 + r * 64 + c

/-- A tile element as it stands. -/
def tileElem (s : State) (t r c : Nat) : Nat := (FMap.getD 0 (accKey t r c) s.hart.acc).toNat

/-- A tile element with every issued outer product applied (R157). -/
def tileLast (s : State) (t r c : Nat) : Nat :=
  match (s.hart.pend.reverse.filterMap fun p =>
      if p.tile = t then (p.vals.find? fun x => decide (x.1 = r * 64 + c)).map (·.2) else none) with
  | v :: _ => v.toNat
  | [] => tileElem s t r c

def tilePois (s : State) (t r c : Nat) : Bool := FMap.getD false (accKey t r c) s.hart.accPois

/-- Rows of a tile written up to row `r` (R100). -/
def rowsTo (m : FMap Nat) (t r : Nat) : FMap Nat := FMap.setD 0 t (Nat.max (FMap.getD 0 t m) (r + 1)) m

/-- Write a tile element; its poison goes. -/
def setTile (s : State) (t r c v : Nat) : State :=
  s.onHart fun h => { h with
    acc := FMap.setD 0 (accKey t r c) (BitVec.ofNat 32 v) h.acc, accPois := FMap.setD false (accKey t r c) false h.accPois
    trow := rowsTo h.trow t r }

/-- Whether an accumulator field names acc0 to acc7 (R293). -/
def accNumOk (a : Reg) : Bool := decide (a.toNat < 8)

/-- ACC_DISABLED (R155). -/
def accUse (a : Reg) : Act Unit := fun s => if a.toNat < s.hart.tiles then .ok ((), s) else .error (.trap s .accDisabled 0 s.parcel)

/-- Wait for every earlier operation on a tile (R157). -/
def tileWait (a : Reg) : Act Unit := fun s =>
  if s.hart.pend.any (fun p => decide (p.tile = a.toNat)) then .error (.wait s) else .ok ((), s)

/-- Granted and requested shape and predicates (R156). -/
def shM (s : State) : Nat := fld s.hart.csr.mshape 0 8
def shN (s : State) : Nat := fld s.hart.csr.mshape 8 8
def shK (s : State) : Nat := fld s.hart.csr.mshape 16 11
def shNreq (s : State) : Nat := fld s.hart.csr.mshape 32 7
def predRows (s : State) : Nat := fld s.hart.csr.mpred 0 7
def predCols (s : State) : Nat := fld s.hart.csr.mpred 8 7
def mstart (s : State) : Nat := s.hart.csr.mstart.toNat

/-- SHAPE_MISMATCH and LINK_DOWN of a matrix instruction leave MSTART = 0 (R223, R235), but for a LINK_DOWN on a queue
for which `keeps` holds (R384, R395; log 68). -/
def matRecord {α : Type} (keeps : Nat → Bool) (a : Act α) : Act α := fun s =>
  match a s with
  | .ok r => .ok r
  | .error (.trap t c sub v) =>
    if c = .shapeMismatch ∨ (c = .linkDown ∧ keeps v.toNat = false) then .error (.trap (t.setMstart 0) c sub v)
    else .error (.trap t c sub v)
  | .error e => .error e

/-- A form of classes MCFG, MOP and MMOV that counts no elements. -/
def matOp (reads : List (Nat × Nat)) (limits states : Bool) (operand : Act Unit) (body : Act Bool) : VOp :=
  { reads, kind := .free, limits, states, operand := matRecord (fun _ => false) operand, body := matRecord (fun _ => false) body }

/-- A body that always completes. -/
def complete (a : Act Unit) : Act Bool := do
  a
  pure true

/-! ### Configuration (R378 to R381) -/

/-- Slots of the crew's ACCS in use. -/
def slotsUsed (s : State) : Nat := ((s.crewHarts s.crew).map fun p => p.2.tiles).sum

def mtenOp (n : BitVec 4) (s : State) : VOp :=
  matOp [] (decide (n ≠ 0) && decide (n.toNat ≤ 8) && decide (n.toNat ≤ s.crew.accs)) (decide (s.hart.tiles = 0)) (pure ())
    (complete do
      waitUnless (decide (slotsUsed (← get) + n.toNat ≤ s.crew.accs))
      modify fun s => s.onHart fun h => { h with tiles := n.toNat, acc := [], accPois := [], trow := [] })

def mtdisOp (_ : State) : VOp :=
  matOp [] true true (pure ())
    (complete do
      waitUnless (← get).hart.pend.isEmpty
      modify fun s => s.onHart fun h => { h with tiles := 0, acc := [], accPois := [], trow := [] })

/-- The grant of R156. -/
def grantShape (s : State) (mreq nreq kreq : Nat) : Csrs → Csrs := fun c =>
  let m := Nat.min mreq 64
  let nq := Nat.min nreq 64
  let n := Nat.min nq (capN s.capLevel)
  let cap := Nat.min 1024 (s.mvl / Nat.max m n)
  let step := if s.ebytes = 2 then 2 else 4
  let k := Nat.min kreq cap - Nat.min kreq cap % step
  { c with mshape := nw (nq * 2 ^ 32 + k * 2 ^ 16 + n * 2 ^ 8 + m), mpred := nw (n * 2 ^ 8 + m), mstart := 0 }

def mshapeOp (xs : Reg) (s : State) : VOp :=
  let v := s.x xs
  matOp [] (decide (fld v 27 37 = 0) && decide (fld v 8 8 ≠ 0) && decide (fld v 0 8 ≠ 0)) true (pure ())
    (complete (modify fun s => s.onCsr (grantShape s (fld v 0 8) (fld v 8 8) (fld v 16 11))))

def mpredOp (s1 : XOrImm) (s : State) : VOp :=
  let v : Word := match s1 with
    | .x r => s.x r
    | .imm i => i.setWidth 64
  matOp [] (decide (fld v 15 49 = 0) && !bit v 7) true (pure ())
    (complete (modify fun s => s.onCsr fun c => { c with mpred := mpredOf c v }))

/-- Write scale codes of blocks 0 to nb − 1. -/
def putScales (m : FMap Byte) (k : Nat) : List Byte → FMap Byte
  | [] => m
  | b :: bs => putScales (FMap.setD 0x7F k b m) (k + 1) bs

def mscaleOp (b : Bool) (vs : Reg) (nb : BitVec 6) (s : State) : VOp :=
  let n := nb.toNat
  matOp [(vs.toNat, s.ebytes)] (decide (n ≠ 0) && decide (n ≤ 32) && decide (n * 64 ≤ s.lmul * s.hart.vlenb)) true (pure ())
    (complete fun s =>
      if (List.range (n * 64)).any (fun i => s.elemPois vs.toNat 1 i) then .error (.trap s .poison 1 0)
      else
        let bs := (upFrom (s.vKey vs.toNat 1 0) (n * 64)).map fun k => FMap.getD 0 k s.hart.v
        .ok ((), s.onHart fun h =>
          if b then { h with sb := putScales h.sb 0 bs, scaled := true } else { h with sa := putScales h.sa 0 bs, scaled := true }))

/-! ### K steps (R267, R270 to R272) -/

/-- A term of an exact sum: NaN, an infinity, or a finite value with the sign a zero has. -/
inductive Term where
  | nan
  | inf (neg : Bool)
  | fin (d : Dy) (neg : Bool)
  deriving DecidableEq, Repr

/-- A pattern as a term. -/
def termOf (f : Fmt) (x : Nat) : Term :=
  if f.isNaN x then .nan else if f.isInf x then .inf (f.sign x) else .fin (f.val x) (f.sign x)

/-- An exact product. -/
def mulTerm : Term → Term → Term
  | .nan, _ | _, .nan => .nan
  | .inf a, .inf b => .inf (a != b)
  | .inf a, .fin d b | .fin d b, .inf a => if d.1 = 0 then .nan else .inf (a != b)
  | .fin a p, .fin b q => .fin (dyMul a b) (p != q)

/-- A product under an E8M0 scale: 2^(code − 127), 0xFF a NaN. -/
def scaleTerm (code : Nat) : Term → Term
  | .nan => .nan
  | t => if code = 0xFF then .nan else match t with
    | .fin d n => .fin (d.1, d.2 + (code : Int) - 127) n
    | t => t

def negTerm : Term → Term
  | .nan => .nan
  | .inf a => .inf (!a)
  | .fin d n => .fin (dyNeg d) (!n)

/-- The sum of two terms; a zero is negative only when both are. -/
def addTerm : Term → Term → Term
  | .nan, _ | _, .nan => .nan
  | .inf a, .inf b => if a = b then .inf a else .nan
  | .inf a, _ | _, .inf a => .inf a
  | .fin a p, .fin b q => .fin (dyAdd a b) (p && q)

/-- Round a sum to FP32, RNE: every NaN outcome is the default NaN with NV (R267). -/
def roundTerm : Term → FRes
  | .nan => (0x7FC00000, fNV)
  | .inf a => (fp32.inf a, 0)
  | .fin d n => roundDy fp32 0 d n

/-- What a K step multiplies: operand elements and scales by row or column and k. -/
structure MopIn where
  a   : Nat → Nat → Nat
  b   : Nat → Nat → Nat
  sa  : Nat → Nat → Nat
  sb  : Nat → Nat → Nat

/-- One FP K step of element (i, j) over k0 ≤ k < k1 (R270). -/
def stepFp (f : Fmt) (sub : Bool) (x : MopIn) (i j k0 k1 acc : Nat) : FRes :=
  roundTerm ((upFrom k0 (k1 - k0)).foldl (fun t k =>
    let p := mulTerm (termOf f (x.a k i)) (termOf f (x.b k j))
    let p := if f.w = 8 then scaleTerm (x.sb j (k / 32)) (scaleTerm (x.sa i (k / 32)) p) else p
    addTerm t (if sub then negTerm p else p)) (termOf fp32 acc))

/-- One INT8 K step (R272). -/
def stepInt (sub : Bool) (x : MopIn) (i j k0 k1 acc : Nat) : FRes :=
  let t := (upFrom k0 (k1 - k0)).foldl (fun t k =>
    let p := sextI (x.a k i) 8 * sextI (x.b k j) 8
    if sub then t - p else t + p) (sextI acc 32)
  let r := modW t 32
  (r, if sextI r 32 = t then 0 else fIOV)

/-- The K steps of one element from `k0` to `k1` in groups of `g`, with `fuel` groups at most. -/
def kSteps (step : Nat → Nat → Nat → FRes) (g k1 : Nat) : Nat → Nat → Nat → FRes
  | 0, _, acc => (acc, 0)
  | fuel + 1, k0, acc =>
    if k1 ≤ k0 then (acc, 0)
    else
      let e := Nat.min (k0 + g) k1
      let (v, fl) := step k0 e acc
      let (r, fs) := kSteps step g k1 fuel e v
      (r, fl ||| fs)

/-- The steps `k0` to `k1 − 1` over the active elements of a tile, as an operation in flight. -/
def outer (s : State) (t : Nat) (f : Option Fmt) (sub : Bool) (x : MopIn) (m nb g k0 k1 : Nat) : PendOp :=
  let one (i j : Nat) : FRes :=
    kSteps (fun a b acc => match f with
      | some f => stepFp f sub x i j a b acc
      | none => stepInt sub x i j a b acc) g k1 k1 k0 (tileLast s t i j)
  let rs := (List.range m).flatMap fun i => (List.range nb).map fun j => (i * 64 + j, one i j)
  { tile := t, vals := rs.map fun r => (r.1, BitVec.ofNat 32 r.2.1), flags := rs.foldl (fun a r => a ||| r.2.2) 0, holds := [] }

/-- Whether an active element of a tile is poisoned. -/
def tileBad (s : State) (t m nb : Nat) : Bool :=
  (List.range m).any fun i => (List.range nb).any fun j => tilePois s t i j

/-- Issue the steps k0 to k1 − 1 (R157): they complete on their own, holding the entries of the queues named until then
(R153). -/
def issueOuter (t : Nat) (f : Option Fmt) (sub : Bool) (x : MopIn) (m nb g k0 k1 : Nat) (holds : List Nat) : Act Unit :=
  modify fun s =>
    if k1 ≤ k0 then s
    else (s.onHart fun h => { h with pend := h.pend ++ [{ outer s t f sub x m nb g k0 k1 with holds }] }).addWork (m * nb * (k1 - k0))

/-- Where the K steps of this execution end: K, or a pre-emption point that is asked for (R99). -/
def stepEnd (s : State) (k0 k g : Nat) : Nat :=
  match s.hart.limit with
  | some b => if k0 < b ∧ b < k ∧ (b - k0) % g = 0 then b else k
  | none => k

/-- The format of an outer product: none for INT8 (R382). -/
def mopFmt (s : State) (int8 : Bool) : Option Fmt := if int8 then none else some s.vfmt
/-- Indices of a K step. -/
def mopG (s : State) : Nat := if s.ebytes = 2 then 2 else 4
/-- FMT code of a message that holds the operand format (R47, R154). -/
def mopCode (s : State) (int8 : Bool) : Nat :=
  if int8 then 0 else if s.ebytes = 2 then (if s.altFmt then 4 else 3) else if s.altFmt then 2 else 1
/-- SEW and .I (R382). -/
def mopSew (s : State) (int8 : Bool) : Bool := if int8 then decide (s.ebytes = 1) else decide (s.ebytes ≤ 2)

def scaleA (s : State) (i b : Nat) : Nat := (FMap.getD 0x7F (b * 64 + i) s.hart.sa).toNat
def scaleB (s : State) (j b : Nat) : Nat := (FMap.getD 0x7F (b * 64 + j) s.hart.sb).toNat

/-! ### MOPA and MOPS (R382 to R384, R154) -/

def MOperandGroup (eb : Nat) : MOperand → List (Nat × Nat)
  | .v r => [(r.toNat, eb)]
  | .lq _ => []

def MOperandQueue : MOperand → List Reg
  | .v _ => []
  | .lq q => [q]

/-- The entry of an operand that is a link queue, waited for. -/
def operandEntry : MOperand → Act (Option TileMsg)
  | .v _ => pure none
  | .lq q => do
    let m ← lqPeek q
    pure (some m)

/-- SHAPE_MISMATCH of an entry (R154). -/
def checkEntry (rows cols fmt : Nat) : Option TileMsg → Act Unit
  | none => pure ()
  | some m => check (decide (m.rows = rows) && decide (m.cols = cols) && decide (m.fmt = fmt)) .shapeMismatch 0 (tileHeader m)

/-- Element `i` of a message's payload. -/
def msgElem (m : TileMsg) (eb i : Nat) : Nat := ofBytesLE ((m.data.drop (i * eb)).take eb)

/-- An operand's element at linear index `i`. -/
def operandAt (s : State) (o : MOperand) (m : Option TileMsg) (eb i : Nat) : Nat :=
  match o, m with
  | .v r, _ => s.elem r.toNat eb i
  | .lq _, some m => msgElem m eb i
  | .lq _, none => 0

/-- A register operand has a poisoned element among rows k0 to k1 − 1, columns below `n`, at a pitch. -/
def operandBad (s : State) (o : MOperand) (eb pitch n k0 k1 : Nat) : Bool :=
  match o with
  | .v r => (upFrom k0 (k1 - k0)).any fun k => (List.range n).any fun i => s.elemPois r.toNat eb (k * pitch + i)
  | .lq _ => false

/-- The operand-state causes of an outer product: where nothing but the forward remains, of the forward's queue alone
(R384). A LINK_DOWN there leaves MSTART as it is, and so does one on a receive queue that has no entry, for which the
instruction waits (R395; log 68). -/
def mopUses (acc : Reg) (queues : List Reg) (fwd : Option Reg) (K : Nat) (s : State) : Act Unit :=
  let rest := fwd.isSome && decide (mstart s = K) && decide (0 < K)
  let empty (q : Nat) : Bool := queues.any (fun r => decide (r.toNat = q)) && decide ((s.lqEnd s.crew.uid q).held = [])
  matRecord (fun q => if rest then true else empty q) do
    accUse acc
    lqUses ((if rest then [] else queues.map fun q => (q, false)) ++ fwd.toList.map fun q => (q, true))

/-- The shared body of MOPA and MOPS. The steps that reach K without a forward to make hold their entries and consume
them on completing; where they stop before K, or a forward remains, the hart holds the entries (R153). With a forward,
the instruction stays at MSTART = K until the sums are complete and the credit is there, and then forwards and consumes
(R154, R383, R384). -/
def mopOp (sub : Bool) (acc : Reg) (a b : MOperand) (int8 : Bool) (fwd : Option Reg) (s : State) : VOp :=
  let eb := s.ebytes
  let K := shK s
  let queues := MOperandQueue a ++ MOperandQueue b
  let isLq : MOperand → Bool := fun o => match o with | .lq _ => true | .v _ => false
  let t := acc.toNat
  { matOp (MOperandGroup eb a ++ MOperandGroup eb b)
    (mopSew s int8 && accNumOk acc && (queues ++ fwd.toList).all lqNumOk && (fwd.isNone || isLq b))
    ((isLq a || decide (K * shM s ≤ s.mvl)) && (isLq b || decide (K * shN s ≤ s.mvl)))
    (pure ())
    (do
      let s ← get
      if K = 0 then do
        set ((s.setMstart 0).setVstart 0)
        pure true
      else do
        let ma ← operandEntry a
        let mb ← operandEntry b
        checkEntry K (shM s) (mopCode s int8) ma
        checkEntry K (shNreq s) (mopCode s int8) mb
        let m := predRows s
        let nc := predCols s
        let nb := if mb.isSome && decide (nc = shN s) then shNreq s else nc
        let pitch := if mb.isSome then shNreq s else shN s
        let k0 := mstart s
        let k1 := stepEnd s k0 K (mopG s)
        check (!((decide (0 < nb) && operandBad s a eb (shM s) m k0 K) || (decide (0 < m) && operandBad s b eb pitch nb k0 K))) .poison 1 0
        check (!(decide (k0 < K) && tileBad s t m nb)) .poison 2 0
        let x : MopIn := { a := fun k i => operandAt s a ma eb (k * shM s + i), b := fun k j => operandAt s b mb eb (k * pitch + j)
                           sa := scaleA s, sb := scaleB s }
        let last := decide (k0 < K) && decide (k1 = K) && fwd.isNone
        issueOuter t (mopFmt s int8) sub x m nb (mopG s) k0 k1 (if last then queues.eraseDups.map (·.toNat) else [])
        if k1 < K ∨ (k0 < K ∧ fwd.isSome) then do
          modify fun s => (s.setMstart k1).onHart fun h => { h with holdq := queues.map (·.toNat) }
          pure false
        else do
          if let (some f, some e) := (fwd, mb) then
            tileWait acc
            lqReady f
            lqSendTile f e.rows e.cols e.fmt e.data
          if !last then queues.eraseDups.forM lqConsume
          modify fun s => ((s.setMstart 0).setVstart 0).onHart fun h => { h with holdq := [] }
          pure true)
    with
    operand := fun s => mopUses acc queues fwd K s s }

def mopaOp (acc : Reg) (a b : MOperand) (int8 : Bool) (fwd : Option Reg) (s : State) : VOp := mopOp false acc a b int8 fwd s
def mopsOp (acc : Reg) (a b : MOperand) (int8 : Bool) (fwd : Option Reg) (s : State) : VOp := mopOp true acc a b int8 fwd s

/-! ### MOPAG (R385) -/

/-- The VA of gathered row `k`. -/
def gatherRow (s : State) (xb vi : Reg) (k : Nat) : Word := s.x xb + nw (s.elem vi.toNat 4 k) * s.hart.csr.vrp

/-- Read `n` elements of a row, from element `e` on. -/
def gatherElems (row : Word) (eb : Nat) : Nat → Nat → Act (List Nat)
  | 0, _ => pure []
  | n + 1, e => do
    let va := row + nw (e * eb)
    let ps ← reachAll .gather .read va eb
    let v ← readPieces false va 0 ps
    let r ← gatherElems row eb n (e + 1)
    pure (v :: r)

/-- Read rows `k` to `k + c − 1`, until one fails: the rows read, and how the failing one ended. -/
def gatherRows (xb vi : Reg) (eb width : Nat) : Nat → Nat → State → List (List Nat) × Option Exit × State
  | 0, _, s => ([], none, s)
  | c + 1, k, s =>
    match gatherElems (gatherRow s xb vi k) eb width 0 s with
    | .error e => ([], some e, s)
    | .ok (r, s') =>
      let (rs, e, s'') := gatherRows xb vi eb width c (k + 1) s'
      (r :: rs, e, s'')

def mopagOp (gb : Bool) (acc s2 s1 xb : Reg) (int8 : Bool) (s : State) : VOp :=
  let eb := s.ebytes
  let K := shK s
  let vi := if gb then s1 else s2
  let vr := if gb then s2 else s1
  let t := acc.toNat
  let rowLen := if gb then shM s else shN s
  matOp [(vr.toNat, eb), (vi.toNat, 4)] (mopSew s int8 && accNumOk acc)
    (decide (K * rowLen ≤ s.mvl) && decide (K * 4 ≤ s.groupRegs 4 * s.hart.vlenb))
    (accUse acc)
    (do
      let s ← get
      if K = 0 then do
        set ((s.setMstart 0).setVstart 0)
        pure true
      else do
        let m := predRows s
        let nc := predCols s
        let k0 := mstart s
        let k1 := stepEnd s k0 K (mopG s)
        check (!((upFrom k0 (K - k0)).any fun k => s.elemPois vi.toNat 4 k)) .poison 1 0
        check (!(decide (0 < (if gb then nc else m)) && operandBad s (.v vr) eb rowLen (if gb then m else nc) k0 K)) .poison 1 0
        check (!(decide (k0 < K) && tileBad s t m nc)) .poison 2 0
        let (rows, bad, s1) := gatherRows xb vi eb (if gb then nc else m) (k1 - k0) k0 s
        set s1
        let got := match bad with
          | none => k1
          | some _ => k0 + rows.length / mopG s * mopG s
        let row (k e : Nat) : Nat := (rows.getD (k - k0) []).getD e 0
        let reg (k e : Nat) : Nat := s.elem vr.toNat eb (k * rowLen + e)
        let x : MopIn := { a := if gb then reg else row, b := if gb then row else reg, sa := scaleA s, sb := scaleB s }
        issueOuter t (mopFmt s int8) false x m nc (mopG s) k0 got []
        match bad with
        | some e => fun s2 => .error (e.mapState fun w => (s2.setMstart got).onHart fun h => { h with cp := w.hart.cp })
        | none => do
          if k1 < K then do
            modify fun s => s.setMstart k1
            pure false
          else do
            modify fun s => (s.setMstart 0).setVstart 0
            pure true)

/-- An outer product's last sum is in the accumulator and its flags are raised; the entries it held are consumed, with
their credits returned (R153, R157, R264). -/
def evMopaComplete (s : State) (slot : Nat) : State :=
  match s.getHart slot with
  | none => s
  | some h =>
    match h.pend with
    | [] => s
    | p :: ps =>
      let s := s.putHart slot { h with
        pend := ps
        acc := p.vals.foldl (fun (m : FMap (BitVec 32)) x => FMap.setD 0 (p.tile * 4096 + x.1) x.2 m) h.acc
        trow := p.vals.foldl (fun (m : FMap Nat) x => rowsTo m p.tile (x.1 / 64)) h.trow
        csr := { h.csr with vflags := h.csr.vflags ||| nw p.flags } }
      p.holds.foldl (fun s q => s.lqEat (slot / 32) q) s

def execMopaComplete (s : State) : Res :=
  .next (match s.input with
    | some (.mopaComplete slot) => evMopaComplete s slot
    | _ => s)

/-! ### Tile moves (R386, R387) -/

def mzeroOp (acc : Reg) (_ : State) : VOp :=
  matOp [] (accNumOk acc) true (accUse acc)
    (complete do
      tileWait acc
      modify fun s => s.onHart fun h =>
        let out (k : Nat) : Bool := decide (k / 4096 ≠ acc.toNat)
        { h with acc := FMap.keep out h.acc, accPois := FMap.keep out h.accPois, trow := FMap.setD 0 acc.toNat 0 h.trow })

/-- An origin: row0 and col0, and whether its other bits are zero (R376). -/
def originOf (s : State) (o : XOrImm) : Nat × Nat × Bool :=
  let v : Word := match o with
    | .x r => s.x r
    | .imm i => i.setWidth 64
  (fld v 0 6, fld v 8 6, decide (fld v 6 2 = 0) && decide (fld v 14 50 = 0))

/-- The window fits the tile at SEW 32. -/
def windowOk (s : State) (o : Nat × Nat × Bool) : Bool :=
  o.2.2 && decide (s.ebytes = 4) && decide (o.1 + s.vrc ≤ 64) && decide (o.2.1 + s.vl ≤ 64)

def mtrdOp (vd acc : Reg) (origin : XOrImm) (m : VMask) (s : State) : VOp :=
  let o := originOf s origin
  { reads := [], writes := [(vd.toNat, s.ebytes)], mreads := m.reads, limits := accNumOk acc && windowOk s o
    operand := accUse acc
    body := do
      tileWait acc
      elemOp vd 4 4 m (.x 0) 0 fun i => do
        let s ← get
        let r := o.1 + i / s.vl
        let c := o.2.1 + i % s.vl
        if tilePois s acc.toNat r c then raise .poison 2 0
        pure (tileElem s acc.toNat r c, 0) }

def mtwrOp (acc vs : Reg) (origin : XOrImm) (m : VMask) (s : State) : VOp :=
  let o := originOf s origin
  { reads := [(vs.toNat, s.ebytes)], mreads := m.reads, limits := accNumOk acc && windowOk s o
    operand := accUse acc
    body := do
      tileWait acc
      elemRun 4 m (.x 0) noTrim
        (fun i => do
          let v ← readV vs 4 i
          modify fun s => setTile s acc.toNat (o.1 + i / s.vl) (o.2.1 + i % s.vl) v)
        (fun _ s => s) (fun _ s => s) }

/-! ### Conversions of a message tile (R388) -/

/-- Bytes of an element of a format code. -/
def tileEb (fmt : BitVec 4) : Nat := fmtBytes fmt.toNat

/-- The FP format of a format code, none for the integer and copied ones. -/
def tileFp (fmt : BitVec 4) : Option Fmt :=
  match fmt.toNat with
  | 1 => some e4m3 | 2 => some e5m2 | 3 => some fp16 | 4 => some bf16 | _ => none

/-- Into the tile. -/
def intoTile (fmt : BitVec 4) (x : Nat) : FRes :=
  match tileFp fmt with
  | some f => fpCvt f fp32 0 false x
  | none => if fmt = 0 then (modW (sextI x 8) 32, 0) else (x, 0)

/-- Out of the tile. -/
def outTile (s : State) (fmt : BitVec 4) (x : Nat) : FRes :=
  match tileFp fmt with
  | some f => fpCvt fp32 f s.frm s.satF8 x
  | none => if fmt = 0 then clampInt 8 true (sextI x 32) else (x, 0)

/-- Rows and columns of the message tile, and the tile element of message element (p, q). -/
def msgRows (s : State) (t : Bool) : Nat := if t then predCols s else predRows s
def msgCols (s : State) (t : Bool) : Nat := if t then predRows s else predCols s
def tileAt (t : Bool) (p q : Nat) : Nat × Nat := if t then (q, p) else (p, q)

/-! ### MTLD and MTST (R389) -/

/-- VA of row p. -/
def rowVa (s : State) (xb : Reg) (vi : Option Reg) (p : Nat) : Act Word :=
  match vi with
  | none => pure (s.x xb + nw p * s.hart.csr.vrp)
  | some g => do
    let i ← readV g 4 p
    pure (s.x xb + nw i * s.hart.csr.vrp)

/-- Rows `p` to `p + k − 1`; a failure leaves MSTART at its row. -/
def rowLoop (f : Nat → Act Unit) : Nat → Nat → Act Unit
  | 0, _ => pure ()
  | k + 1, p => do
    onExit (·.setMstart p) (f p)
    rowLoop f k (p + 1)

/-- The common course of MTLD and MTST. -/
def tileMem (acc : Reg) (vi : Option Reg) (t : Bool) (row : Nat → Act Unit) (s : State) : VOp :=
  let gs := match vi with
    | some g => [(g.toNat, 4)]
    | none => []
  let R := msgRows s t
  matOp gs (accNumOk acc) (vi.isNone || decide (R * 4 ≤ s.groupRegs 4 * s.hart.vlenb)) (accUse acc)
    (do
      let s ← get
      if R = 0 ∨ msgCols s t = 0 then do
        set (s.setMstart 0)
        pure true
      else do
        tileWait acc
        let p0 := mstart s
        let p1 := stepEnd s p0 R 1
        rowLoop row (p1 - p0) p0
        if p1 < R then do
          modify fun s => s.setMstart p1
          pure false
        else do
          modify fun s => s.setMstart 0
          pure true)

/-- Read the elements of a row, from `q` on. -/
def rowRead (row : Word) (eb key : Nat) : Nat → Nat → Act (List Nat)
  | 0, _ => pure []
  | n + 1, q => do
    let va := row + nw (q * eb)
    let ps ← reachAll .vecLd .read va eb
    let v ← readPieces false va (key + 2 * q) ps
    let r ← rowRead row eb key n (q + 1)
    pure (v :: r)

/-- Put a message row into the tile, with flags. -/
def putRow (acc : Reg) (fmt : BitVec 4) (t : Bool) (p : Nat) : Nat → List Nat → State → State
  | _, [], s => s
  | q, x :: xs, s =>
    let (v, fl) := intoTile fmt x
    let (r, c) := tileAt t p q
    putRow acc fmt t p (q + 1) xs (setTile (s.addFlags fl) acc.toNat r c v)

def mtldOp (acc xb : Reg) (vi : Option Reg) (t : Bool) (fmt : BitVec 4) (s : State) : VOp :=
  tileMem acc vi t (fun p => do
    let s ← get
    let row ← rowVa s xb vi p
    let xs ← rowRead row (tileEb fmt) (p * 256) (msgCols s t) 0
    modify (putRow acc fmt t p 0 xs)) s

/-- Reach every element of a row for a store. -/
def rowReach (row : Word) (eb : Nat) : Nat → Nat → Act (List (Word × List (Nat × Nat × Place)))
  | 0, _ => pure []
  | n + 1, q => do
    let va := row + nw (q * eb)
    let ps ← reachAll .vecSt .write va eb
    let r ← rowReach row eb n (q + 1)
    pure ((va, ps) :: r)

/-- The message row of a tile, out of the tile, with flags; POISON where an element is poisoned. -/
def rowOut (acc : Reg) (fmt : BitVec 4) (t : Bool) (p cols : Nat) : Act (List FRes) := fun s =>
  let at_ := (List.range cols).map (tileAt t p)
  if at_.any (fun x => tilePois s acc.toNat x.1 x.2) then .error (.trap s .poison 2 0)
  else .ok (at_.map (fun x => outTile s fmt (tileElem s acc.toNat x.1 x.2)), s)

/-- The bytes of this device that rows `a` to `p` of a tile store write, as (PA, bytes). -/
def rowsStored (xb : Reg) (vi : Option Reg) (eb cols a p : Nat) (s : State) : List (Nat × Nat) :=
  (upFrom a (p + 1 - a)).flatMap fun j =>
    match (do rowReach (← rowVa s xb vi j) eb cols 0 : Act (List (Word × List (Nat × Nat × Place)))) s with
    | .ok (r, _) => r.flatMap fun x => x.2.filterMap fun p => (s.homeOf p.2.2).map fun pa => (pa, p.2.1)
    | .error _ => []

/-- Poisoned lines of row `p` that this execution has written whole, from row `a` on, are whole again (R187; log 19). -/
def healRows (xb : Reg) (vi : Option Reg) (eb cols a p : Nat) (s : State) : State :=
  (rowsStored xb vi eb cols p p s).foldl (fun s x => (linesOf x.1 x.2).foldl (fun s l =>
    if FMap.getD false l s.pois then
      let w := rowsStored xb vi eb cols a p s
      if (upFrom (l * 64) 64).all (fun b => w.any fun q => decide (q.1 ≤ b) && decide (b < q.1 + q.2)) then s.setPois l false else s
    else s) s) s

def mtstOp (acc xb : Reg) (vi : Option Reg) (t : Bool) (fmt : BitVec 4) (s : State) : VOp :=
  tileMem acc vi t (fun p => do
    let s ← get
    let row ← rowVa s xb vi p
    let places ← rowReach row (tileEb fmt) (msgCols s t) 0
    let vs ← rowOut acc fmt t p (msgCols s t)
    places.forM fun x => gateAll x.2
    (places.zip vs).forM fun x => do
      writePieces false x.1.1 x.2.1 x.1.2
      modify fun s => s.addFlags x.2.2
    modify (healRows xb vi (tileEb fmt) (msgCols s t) (mstart s) p)) s

/-! ### MTSEND and MTRECV (R391, R392) -/

/-- Every message row, out of the tile. -/
def tileOut (acc : Reg) (fmt : BitVec 4) (t : Bool) (cols : Nat) : Nat → Nat → Act (List FRes)
  | 0, _ => pure []
  | k + 1, p => do
    let r ← rowOut acc fmt t p cols
    let rs ← tileOut acc fmt t cols k (p + 1)
    pure (r ++ rs)

def mtsendOp (rel t : Bool) (q acc : Reg) (fmt : BitVec 4) (_ : State) : VOp :=
  matOp [] (lqNumOk q && accNumOk acc) true (do accUse acc; lqUses [(q, true)])
    (do
      let s ← get
      let R := msgRows s t
      let C := msgCols s t
      if R = 0 ∨ C = 0 then pure true
      else do
        tileWait acc
        let vs ← tileOut acc fmt t C R 0
        if rel then release 3
        lqReady q
        lqSendTile q R C fmt.toNat (vs.flatMap fun v => bytesLE (tileEb fmt) v.1)
        modify fun s => s.addFlags (vs.foldl (fun a v => a ||| v.2) 0)
        pure true)

/-- Put `k` message rows from row `p` on into the tile. -/
def putRows (acc : Reg) (fmt : BitVec 4) (m : TileMsg) : Nat → Nat → State → State
  | 0, _, s => s
  | k + 1, p, s =>
    putRows acc fmt m k (p + 1)
      (putRow acc fmt false p 0 ((List.range m.cols).map fun q => msgElem m (tileEb fmt) (p * m.cols + q)) s)

def mtrecvOp (acq : Bool) (acc q : Reg) (_ : State) : VOp :=
  matOp [] (lqNumOk q && accNumOk acc) true (do accUse acc; lqUses [(q, false)])
    (complete do
      let m ← lqPeek q
      check (decide (m.fmt ≤ 6) && decide (m.rows ≤ 64) && decide (m.cols ≤ 64)) .shapeMismatch 0 (tileHeader m)
      tileWait acc
      modify (putRows acc (BitVec.ofNat 4 m.fmt) m m.rows 0)
      lqConsume q
      if acq then acquire 3)

def execMten (n : BitVec 4) (s : State) : Res := runV (mtenOp n s) s
def execMtdis (s : State) : Res := runV (mtdisOp s) s
def execMshape (xs : Reg) (s : State) : Res := runV (mshapeOp xs s) s
def execMpred (s1 : XOrImm) (s : State) : Res := runV (mpredOp s1 s) s
def execMscale (b : Bool) (vs : Reg) (nb : BitVec 6) (s : State) : Res := runV (mscaleOp b vs nb s) s
def execMopa (acc : Reg) (a b : MOperand) (int8 : Bool) (fwd : Option Reg) (s : State) : Res := runV (mopaOp acc a b int8 fwd s) s
def execMops (acc : Reg) (a b : MOperand) (int8 : Bool) (fwd : Option Reg) (s : State) : Res := runV (mopsOp acc a b int8 fwd s) s
def execMopag (gb : Bool) (acc s2 s1 xb : Reg) (int8 : Bool) (s : State) : Res := runV (mopagOp gb acc s2 s1 xb int8 s) s
def execMzero (acc : Reg) (s : State) : Res := runV (mzeroOp acc s) s
def execMtrd (vd acc : Reg) (origin : XOrImm) (m : VMask) (s : State) : Res := runV (mtrdOp vd acc origin m s) s
def execMtwr (acc vs : Reg) (origin : XOrImm) (m : VMask) (s : State) : Res := runV (mtwrOp acc vs origin m s) s
def execMtld (acc xb : Reg) (vi : Option Reg) (t : Bool) (fmt : BitVec 4) (s : State) : Res := runV (mtldOp acc xb vi t fmt s) s
def execMtst (acc xb : Reg) (vi : Option Reg) (t : Bool) (fmt : BitVec 4) (s : State) : Res := runV (mtstOp acc xb vi t fmt s) s
def execMtsend (rel t : Bool) (q acc : Reg) (fmt : BitVec 4) (s : State) : Res := runV (mtsendOp rel t q acc fmt s) s
def execMtrecv (acq : Bool) (acc q : Reg) (s : State) : Res := runV (mtrecvOp acq acc q s) s

end Sys2Proof.Machine
end

