-- ==== Sys2Proof/Machine/Merge.lean ====
section
/-!
DEFINITION. The merge network and its instructions (10_merge_network R239 to R258; 15_matrix_merge_copy R396 to R400), and the
events of a running pass.
-/
namespace Sys2Proof.Machine

open State

/-! ### Taking and freeing the network (R257) -/

/-- Nothing is staged, the drain buffer is empty and no merge is interrupted. -/
def mergeIdle (h : Hart) : Bool :=
  h.staged.isEmpty && (match h.drain with | none => true | some d => d.pairs.isEmpty) && !bit h.csr.mgstate 63

/-- Free the network if the current hart holds it and keeps nothing in it. -/
def State.mnetRest (s : State) : State :=
  match FMap.find s.crew.core s.mnet with
  | some n => if n.holder = some s.cur ∧ mergeIdle s.hart then s.mnetFree s.crew.core else s
  | none => s

/-- The current hart takes the network, or joins those that wait for it; answers whether it holds it. -/
def mnetTake : Act Bool := fun s =>
  let put (n : MNet) : State := { s with mnet := FMap.insert s.crew.core n s.mnet }
  match FMap.find s.crew.core s.mnet with
  | none => .ok (true, put { holder := some s.cur, waiters := [] })
  | some n =>
    match n.holder with
    | none => .ok (true, put { holder := some s.cur, waiters := n.waiters.filter (· ≠ s.cur) })
    | some h =>
      if h = s.cur then .ok (true, s)
      else .ok (false, if n.waiters.contains s.cur then s else put { n with waiters := n.waiters ++ [s.cur] })

/-- Run `a` as the network's holder; until the hart holds it, the instruction has not started. It keeps the network
while it waits; a trap frees it where nothing is kept in it. -/
def withNet (a : Act Bool) : Act Bool := fun s =>
  match mnetTake s with
  | .error e => .error e
  | .ok (false, s) => .ok (false, s)
  | .ok (true, s) =>
    match a s with
    | .error (.trap t c sub v) => .error (.trap t.mnetRest c sub v)
    | .error (.host t k ac v) => .error (.host t.mnetRest k ac v)
    | r => r

/-! ### MGMODE and MGSTATE (R248, R249) -/

def mgSlots (s : State) : Nat := fld s.hart.csr.mgmode 0 6 + 1
def mgAccf (s : State) : Nat := fld s.hart.csr.mgmode 8 1
def mgVfmt (s : State) : Nat := fld s.hart.csr.mgmode 9 2
def mgDropz (s : State) : Bool := bit s.hart.csr.mgmode 11
def mgToDrain (s : State) : Bool := bit s.hart.csr.mgmode 12
/-- Bytes of a value at the accumulate format. -/
def mgWidth (s : State) : Nat := if mgAccf s = 0 then 4 else 8
def mgAcc (s : State) : Fmt := if mgAccf s = 0 then fp32 else fp64
def mgFetch (s : State) : Fmt := match mgVfmt s with | 0 => fp32 | 1 => fp64 | 2 => bf16 | _ => fp16

/-- MGSTATE of a merge at a pass boundary or checkpoint. -/
def mgRecord (s : State) (mid : Bool) (runoff next : Nat) : Word :=
  nw (2 ^ 63 + b2n mid * 2 ^ 62 + mgAccf s * 2 ^ 58 + mgVfmt s * 2 ^ 56 + runoff % 2 ^ 24 * 2 ^ 32 + (mgSlots s - 1) * 2 ^ 24 + next % 2 ^ 24)

/-- Set MGSTATE and MGOCNT. -/
def setRecord (mid : Bool) (runoff next count : Nat) (s : State) : State :=
  s.onCsr fun c => { c with mgstate := mgRecord s mid runoff next, mgocnt := nw count }

/-- Set MGSTAT.REUSED. -/
def setReused (b : Bool) (s : State) : State := s.onCsr fun c => { c with mgstat := setFld c.mgstat 0 1 (b2n b) }

/-- Change the merge of the current hart. -/
def State.onMerge (s : State) (f : MergeRun → MergeRun) : State := s.onHart fun h => { h with merge := h.merge.map f }

/-! ### Reads and writes of the network -/

/-- Read the pieces of an access as an engine of the core, with the merge's view of granules that the hart has stored to
(R207). -/
def enginePieces (view : FMap Nat) (va : Word) (key : Nat) : List (Nat × Nat × Place) → Act Nat
  | [] => pure 0
  | (off, n, p) :: ps => do
    let v ← readPiece false va (key + (if off = 0 then 0 else 1)) n p
    let v := match (← get).homeOf p with
      | some pa => viewed view pa n v
      | none => v
    let r ← enginePieces view va key ps
    pure (v + r * 2 ^ (8 * n))

/-- Read `n` bytes. -/
def mgRead (view : FMap Nat) (va key n : Nat) : Act Nat := do
  let w := nw va
  let ps ← reachAll .engineLd .read w n
  enginePieces view w key ps

/-- The hart's earlier stores are performed, and what the merge will see of its vector stores is settled (R207). -/
def mgView : Act (FMap Nat) := do
  modify (·.performAll fun _ => true)
  let (view, s) := (← get).oldView
  set s
  pure view

/-- Write at a home on this device; from now on the merge reads what it wrote (R210, R244). -/
def mgHome (pa n v : Nat) : Act Unit := do
  copyGate pa n
  modify fun s => ((((s.dropOwn pa n).forget pa n).touch pa n).writeHome pa n v).onMerge fun m => { m with
    view := (granules pa n).foldl (fun w g => FMap.erase g w) m.view }

/-- Write one piece. Another chip's memory answers before the pass goes on, so a refusal is precise (R252). -/
def mgPut (va : Word) (key n v : Nat) : Place → Act Unit
  | .remote chip off => do
    let s ← get
    if let some c := s.srcRefuses chip then refuseHere false c chip va
    else if chip = s.chipId then
      match s.tgtRefuses s.crew.tenant off with
      | some c => refuseHere false c chip va
      | none => mgHome off n v
    else
      writeAway va key fun tag => .request chip
        { kind := .write, src := s.chipId, tenant := s.crew.tenant, tag, off, width := n, dat := v % 2 ^ (8 * n), cmp := 0
          core := s.crew.core }
  | .mem pa => mgHome pa n v
  | p => writePiece false va n v p

/-- Write the pieces of one access in order. -/
def mgPuts (va : Word) (key v : Nat) : List (Nat × Nat × Place) → Act Unit
  | [] => pure ()
  | (off, n, p) :: ps => do
    mgPut va (key + (if off = 0 then 0 else 1)) n (v / 2 ^ (8 * off)) p
    mgPuts va key v ps

/-- Write `n` bytes at their home (R210). -/
def mgWrite (va n v : Nat) : Act Unit := do
  let w := nw va
  let ps ← reachAll .engineSt .write w n
  gateAll ps
  mgPuts w (2 ^ 64 + 2 * va) v ps

/-- What a trap or translation fault inside a pass becomes; waiting stays waiting. -/
def attempt {α : Type} (a : Act α) : Act (Except MergeStop α) := fun s =>
  match a s with
  | .ok (v, s') => .ok (.ok v, s')
  | .error (.trap s' c sub v) => .ok (.error (.trap c sub v.toNat), s')
  | .error (.host s' k ac v) => .ok (.error (.host k ac v.toNat), s')
  | .error e => .error e

/-- Raise what stopped a pass. -/
def raiseStop {α : Type} : MergeStop → Act α
  | .trap c sub v => raise c sub (nw v)
  | .host k ac v => xfault k ac (nw v)

/-- The lines of a range that it covers whole lose their poison (R187). -/
def healRange (va n : Nat) (s : State) : State :=
  let first := ceilDiv va 64
  (upFrom first ((va + n) / 64 - first)).foldl (fun s l =>
    match s.reach .write (l * 64 % 2 ^ 64) 64 with
    | .ok pa => match s.homeOf (s.place pa) with | some h => s.setPois (h / 64) false | none => s
    | .error _ => s) s

/-! ### The stream list (R239) -/

/-- Pairs of a staged stream. -/
def stagedPairs (s : State) (k : Nat) : List (Nat × Nat) := match FMap.find k s.hart.staged with | some d => d.pairs | none => []

/-- An entry from its 32 bytes, and whether it is well formed and its stream staged. -/
def entryOf (s : State) (v : Nat) : MEntry × Bool :=
  let cbase := v % 2 ^ 64
  let vbase := v / 2 ^ 64 % 2 ^ 64
  let scale := v / 2 ^ 160 % 2 ^ 32
  let top := v / 2 ^ 193
  if v / 2 ^ 192 % 2 = 1 then
    ({ kind := true, scale, len := (stagedPairs s cbase).length, vbase, cbase },
      decide (top = 0) && decide (vbase = 0) && decide (cbase < 8) && (FMap.find cbase s.hart.staged).isSome)
  else
    ({ kind := false, scale, len := v / 2 ^ 128 % 2 ^ 32, vbase, cbase },
      decide (top = 0) && decide (vbase < 2 ^ 53) && decide (cbase < 2 ^ 53))

/-- Read `n` entries from number `i` on. -/
def readList (view : FMap Nat) (xb : Nat) : Nat → Nat → Act (List (MEntry × Bool))
  | 0, _ => pure []
  | n + 1, i => do
    let v ← mgRead view (xb + 32 * i) (8 * i) 32
    let e := entryOf (← get) v
    let r ← readList view xb n (i + 1)
    pure (e :: r)

/-- The list, checked: SUB 1 for its entries, SUB 2 for a stream staged at another width (R239, R248). -/
def takeList (view : FMap Nat) (fresh : Bool) (xb l : Nat) : Act (List MEntry) := do
  let es ← readList view xb l 0
  let s ← get
  Machine.check (es.all (·.2)) .illegal 1 s.parcel
  let wide (e : MEntry) : Bool :=
    !e.kind || (match FMap.find e.cbase s.hart.staged with | some d => decide (d.width = mgWidth s) | none => false)
  Machine.check (!fresh || es.all fun p => wide p.1) .illegal 2 s.parcel
  pure (es.map (·.1))

/-! ### Recordings (R254, R255) -/

/-- Whether a recording has the current hart's key. -/
def recMine (s : State) (r : Recording) : Bool :=
  decide (r.core = s.crew.core) && decide (r.tenant = s.crew.tenant) && decide (r.asid = s.crew.asid) && decide (r.tag = s.hart.csr.mgtag)

/-- KIND, CBASE, VBASE and LEN agree. -/
def entrySame (a b : MEntry) : Bool :=
  (a.kind == b.kind) && decide (a.cbase = b.cbase) && decide (a.vbase = b.vbase) && decide (a.len = b.len)

def entriesSame : List MEntry → List MEntry → Bool
  | [], [] => true
  | a :: as, b :: bs => entrySame a b && entriesSame as bs
  | _, _ => false

/-- First and last coordinate of a stream. -/
def endsOf (view : FMap Nat) (e : MEntry) (i : Nat) : Act (Option (Nat × Nat)) := do
  if e.len = 0 then pure none
  else if e.kind then
    let ps := stagedPairs (← get) e.cbase
    pure (some ((ps.map (·.1)).headD 0, (ps.map (·.1)).getLastD 0))
  else
    let a ← mgRead view e.cbase (8 * i + 2) 4
    let b ← mgRead view (e.cbase + 4 * (e.len - 1)) (8 * i + 4) 4
    pure (some (a, b))

/-- Whether every stream's first and last coordinates are as recorded. -/
def endsSame (view : FMap Nat) : List MEntry → List (List Nat) → Nat → Act Bool
  | [], [], _ => pure true
  | e :: es, c :: cs, i => do
    let x ← endsOf view e i
    let want : Option (Nat × Nat) := match c with | [] => none | a :: _ => some (a, c.getLastD 0)
    if x = want then endsSame view es cs (i + 1) else pure false
  | _, _, _ => pure false

/-- The recording that a fresh MGRUN.REUSE replays. -/
def findReplay (view : FMap Nat) (es : List MEntry) : Act (Option Recording) := do
  let s ← get
  match s.recs.find? (recMine s) with
  | none => pure none
  | some r =>
    if s.hart.csr.mgtag ≠ 0 ∧ r.slots = mgSlots s ∧ r.accf = mgAccf s ∧ r.vfmt = mgVfmt s ∧ entriesSame r.entries es then
      if ← endsSame view es r.coords 0 then do
        modify fun s => { s with recs := r :: s.recs.filter (· ≠ r) }
        pure (some r)
      else pure none
    else pure none

/-- Keep a recording: it replaces one with its key, or the least recently used of 16. The most recently used stands first. -/
def keepRec (r : Recording) (rs : List Recording) : List Recording :=
  let same (q : Recording) : Bool :=
    decide (q.core = r.core) && decide (q.tenant = r.tenant) && decide (q.asid = r.asid) && decide (q.tag = r.tag)
  let rest := rs.filter fun q => !same q
  let mine := rest.filter fun q => decide (q.core = r.core)
  let others := rest.filter fun q => decide (q.core ≠ r.core)
  r :: mine.take 15 ++ others

/-! ### Slot entry (R240, R242) -/

/-- RoundAcc(Widen(v) × scale), rounded once. -/
def scaled (src acc : Fmt) (v scale : Nat) : FRes :=
  let sig := if src.isSNaN v || fp32.isSNaN scale then fNV else 0
  if src.isNaN v then ((fpCvt src acc 0 false v).1, sig)
  else if fp32.isNaN scale then ((fpCvt fp32 acc 0 false scale).1, sig)
  else
    let neg := src.sign v != fp32.sign scale
    if src.isInf v || fp32.isInf scale then
      if src.isZero v || fp32.isZero scale then invalid acc else (acc.inf neg, 0)
    else roundDy acc 0 (dyMul (src.val v) (fp32.val scale)) neg

/-- A pair on its way through the network, with the flags raised on the way. -/
structure MPair where
  c  : Nat
  v  : Nat
  fl : Nat
  deriving DecidableEq, Repr

/-- Where a pass stops: at a coordinate, or below every coordinate; a fault comes before an order violation (R258). -/
structure MEvent where
  at_   : Option Nat
  order : Bool
  stop  : MergeStop
  deriving DecidableEq, Repr

/-- What a slot delivers: combined pairs in ascending order, what stops it, and the coordinates read. -/
structure MSlot where
  pairs  : List MPair
  event  : Option MEvent
  coords : List Nat
  deriving DecidableEq, Repr

/-- One stream through its slot: `get j` reads pair j. `combine` and `order` are off for a spill run. -/
def slotGo (acc : Fmt) (index : Nat) (combine order : Bool) (get_ : Nat → Act (Nat × FRes)) :
    Nat → Nat → Option MPair → List MPair → List Nat → Act MSlot
  | 0, _, held, out, cs => pure { pairs := (held.toList ++ out).reverse, event := none, coords := cs.reverse }
  | n + 1, j, held, out, cs => do
    match ← attempt (get_ j) with
    | .error e => pure { pairs := out.reverse, event := some { at_ := held.map (·.c), order := false, stop := e }, coords := cs.reverse }
    | .ok (c, v, fl) =>
      match held with
      | none => slotGo acc index combine order get_ n (j + 1) (some ⟨c, v, fl⟩) out (c :: cs)
      | some h =>
        if combine && decide (c = h.c) then
          let (r, f) := fpAdd acc 0 h.v v
          slotGo acc index combine order get_ n (j + 1) (some ⟨c, r, h.fl ||| fl ||| f⟩) out (c :: cs)
        else if order && decide (c < h.c) then
          pure { pairs := out.reverse
                 event := some { at_ := some h.c, order := true, stop := .trap .mergeOrder 0 (index * 2 ^ 32 + j) }
                 coords := (c :: cs).reverse }
        else slotGo acc index combine order get_ n (j + 1) (some ⟨c, v, fl⟩) (h :: out) (c :: cs)

/-- The stream of list entry `i`. A replay takes its coordinates from the recording (R255). -/
def feedEntry (view : FMap Nat) (rec : Option (List Nat)) (e : MEntry) (i : Nat) : Act MSlot := do
  let s ← get
  let acc := mgAcc s
  let src := mgFetch s
  let ps := if e.kind then stagedPairs s e.cbase else []
  let coord (j : Nat) : Act Nat :=
    match rec with
    | some cs => pure (cs.getD j 0)
    | none => if e.kind then pure (ps.getD j (0, 0)).1 else mgRead view (e.cbase + 4 * j) (2 ^ 28 * (j + 1) + 8 * i) 4
  let value (j : Nat) : Act FRes := do
    if e.kind then pure ((ps.getD j (0, 0)).2, 0)
    else
      let v ← mgRead view (e.vbase + src.w / 8 * j) (2 ^ 28 * (j + 1) + 8 * i + 2) (src.w / 8)
      pure (scaled src acc v e.scale)
  slotGo acc i true rec.isNone (fun j => do
    let c ← coord j
    let v ← value j
    pure (c, v)) e.len 0 none [] []

/-- A spill run in slot 0 (R244, R245). -/
def feedRun (view : FMap Nat) (base count cap width : Nat) : Act MSlot := do
  let s ← get
  slotGo (mgAcc s) 0 false false (fun j => do
    let c ← mgRead view (base + 16 + 4 * j) (2 ^ 28 * (j + 1) + 4) 4
    let v ← mgRead view (base + 16 + ceilDiv (4 * cap) 64 * 64 + width * j) (2 ^ 28 * (j + 1) + 6) width
    pure (c, v, 0)) count 0 none [] []

/-! ### The tree (R243) -/

/-- Node over 2^k slots. -/
def mergeNode (acc : Fmt) : Nat → List (Option FRes) → Option FRes
  | 0, xs => xs.headD none
  | k + 1, xs =>
    match mergeNode acc k (xs.take (2 ^ k)), mergeNode acc k (xs.drop (2 ^ k)) with
    | none, r => r
    | l, none => l
    | some l, some r =>
      let (v, fl) := fpAdd acc 0 l.1 r.1
      some (v, l.2 ||| r.2 ||| fl)

/-- Merge the slots: every delivered coordinate once, in ascending order. -/
def treeGo (acc : Fmt) : Nat → List (List MPair) → List MPair
  | 0, _ => []
  | n + 1, slots =>
    match (slots.filterMap List.head?).map (·.c) with
    | [] => []
    | c :: cs =>
      let m := cs.foldl Nat.min c
      let at_ (l : List MPair) : Option FRes := match l with | p :: _ => if p.c = m then some (p.v, p.fl) else none | [] => none
      let next (l : List MPair) : List MPair := match l with | p :: ps => if p.c = m then ps else l | [] => []
      match mergeNode acc 6 (slots.map at_) with
      | some (v, fl) => ⟨m, v, fl⟩ :: treeGo acc n (slots.map next)
      | none => []

/-- Whether one event is reported before another. -/
def MEvent.before (a b : MEvent) : Bool :=
  match a.at_, b.at_ with
  | none, _ => true
  | some _, none => false
  | some x, some y => decide (x < y) || (decide (x = y) && (!a.order || b.order))

/-- The event that stops the pass. -/
def firstEvent : List MEvent → Option MEvent
  | [] => none
  | e :: es =>
    match firstEvent es with
    | none => some e
    | some f => if e.before f then some e else some f

/-- Whether a coordinate lies below the event. -/
def belowEvent (e : Option MEvent) (c : Nat) : Bool :=
  match e with
  | none => true
  | some e => match e.at_ with | none => false | some x => decide (c < x)

/-! ### Preparing a pass (R244 to R247) -/

/-- The slots of a pass from list entry `i` on, in order; coordinates go into the merge for a recording. -/
def feedAll (view : FMap Nat) (replay : Option Recording) : List MEntry → Nat → Act (List MSlot)
  | [], _ => pure []
  | e :: es, i => do
    let r ← feedEntry view (replay.map fun r => r.coords.getD i []) e i
    modify fun s => s.onMerge fun m => { m with coords := if r.coords.length = e.len then FMap.insert i r.coords m.coords else m.coords }
    let rs ← feedAll view replay es (i + 1)
    pure (r :: rs)

/-- The placement of a spill run: its offset, and what is available for it (R246). -/
def spillAt (spl : Nat) (first : Bool) (start end_ : Nat) : Nat × Int :=
  let h := ceilDiv (spl / 2) 64 * 64
  let target := if first || decide (h ≤ start) then 0 else h
  let e := if !first && decide (target < start) then start else spl
  (target, if !first && decide (start < target) && decide (target < end_) then (target : Int) - end_ else (e : Int) - target)

/-- Bytes of a run of capacity C (R245). -/
def runBound (cap width : Nat) : Nat := 16 + ceilDiv (4 * cap) 64 * 64 + cap * width

/-- The flags that each emitted pair raises, those of pairs dropped before it among them, and last those of pairs
dropped after the last (R240, R264). -/
def flagsOver (emitted : MPair → Bool) : List MPair → Nat → List Nat
  | [], f => [f]
  | p :: ps, f => if emitted p then (f ||| p.fl) :: flagsOver emitted ps 0 else flagsOver emitted ps (f ||| p.fl)

/-- Take the merge from its record to the pass that runs next: check the space it needs, read its inputs, and compute
the pairs it emits. `next`, `runoff` and `mid` are MGSTATE's; `m` is the merge. -/
def startPass (m : MergeRun) (next runoff : Nat) (mid : Bool) (count : Nat) : Act Bool := do
  let s ← get
  let c := s.hart.csr
  let slots := mgSlots s
  let width := mgWidth s
  let l := m.entries.length
  let pass := if next = 0 then 1 else (next - slots) / (slots - 1) + 2
  let upTo := if next = 0 then Nat.min slots l else Nat.min (next + slots - 1) l
  let final := decide (upTo = l)
  set ((setRecord mid runoff next count s).onHart fun h => { h with merge := some { m with phase := .idle, live := true } })
  -- the run that slot 0 reads
  let start := 64 * runoff
  let head ← if next = 0 then pure 0 else mgRead m.view (c.mgspb.toNat + start) (2 ^ 28 * 2 ^ 33) 16
  let (rcount, rcap) := (head % 2 ^ 32, head / 2 ^ 32 % 2 ^ 32)
  let ins := (m.entries.drop next).take (upTo - next)
  let cap := (ins.map (·.len)).sum + rcount
  let bound := runBound cap width
  let (target, avail) := spillAt c.mgspl.toNat (decide (next = 0)) start (start + runBound rcap width)
  let toDrain := final && mgToDrain s
  let base := if final then c.mgoutb.toNat else c.mgspb.toNat + target
  let heldPairs := match s.hart.drain with | some d => d.pairs.length | none => 0
  if !mid then
    if !final then
      if avail < bound then raise .mergeSpillFull 0 (BitVec.ofInt 64 ((bound : Int) - avail))
    else if toDrain then
      if 4096 - heldPairs < cap then raise .mergeOutFull 0 (nw ((cap - (4096 - heldPairs)) * (4 + width)))
    else if c.mgoutl.toNat < bound then raise .mergeOutFull 0 (nw (bound - c.mgoutl.toNat))
  -- what the pass has written already (R251)
  let done : Nat × Option Nat ←
    if !mid then pure (0, none)
    else if toDrain then pure (m.written, m.lastC)
    else do
      let h ← mgRead m.view base (2 ^ 28 * 2 ^ 33 + 4) 16
      let n := if h / 2 ^ 88 % 2 = 1 then h % 2 ^ 32 else 0
      if n = 0 then pure (0, none)
      else
        let x ← mgRead m.view (base + 16 + 4 * (n - 1)) (2 ^ 28 * 2 ^ 33 + 6) 4
        pure (n, some x)
  -- the slots
  let run ← if next = 0 then pure [] else do
    let r ← feedRun m.view (c.mgspb.toNat + start) rcount rcap width
    pure [r]
  let rest ← feedAll m.view m.replay ins next
  let all := run ++ rest
  let ev := firstEvent (all.filterMap (·.event))
  let out := (treeGo (mgAcc s) (cap + 1) (all.map (·.pairs))).filter fun p => belowEvent ev p.c
  let left := out.filter fun p => match done.2 with | none => true | some x => decide (x < p.c)
  let emitted (p : MPair) : Bool := !(final && mgDropz s) || !(mgAcc s).isZero p.v
  let todo := left.filter emitted
  modify fun s => s.onHart fun h => { h with
    asked := [], answers := []
    merge := h.merge.map fun m => { m with
      phase := .running, pass, upTo, runoff := target / 64, cap, final, toDrain, base, width
      pairs := todo.map fun p => (p.c, p.v), fls := flagsOver emitted left 0, written := done.1, lastC := done.2, count := out.length, stop := ev.map (·.stop) } }
  pure false

/-! ### MGRUN (R239, R249 to R257, R398) -/

/-- The virtual ranges a list's fetched streams lie in. -/
def mgRanges (s : State) (es : List MEntry) : List (Nat × Nat) :=
  (es.filter fun e => !e.kind).flatMap fun e => [(e.cbase, 4 * e.len), (e.vbase, (mgFetch s).w / 8 * e.len)]

/-- At issue the hart's dirty lines that the list and its streams touch are written back (R207), and the list is read. -/
def mgList (view : FMap Nat) (fresh : Bool) (xb l : Nat) : Act (List MEntry) := do
  modify (·.cleanSources [(xb, 32 * l)])
  let es ← takeList view fresh xb l
  modify fun s => s.cleanSources (mgRanges s es)
  pure es

/-- Begin a merge that does not resume. -/
def mgBegin (reuse : Bool) (rd xb xl : Reg) : Act Bool := do
  let s ← get
  let view ← mgView
  let es ← mgList view true (s.x xb).toNat (s.x xl).toNat
  let replay ← if reuse then findReplay view es else pure none
  modify (setReused replay.isSome)
  startPass
    { phase := .idle, live := true, reuse, rd, xb, xl, entries := es, replay, coords := [], total := 0, pass := 1, upTo := 0,
      runoff := 0, cap := 0, final := false, toDrain := false, base := 0, width := 4, pairs := [], fls := [], view, written := 0, lastC := none,
      count := 0, stop := none } 0 0 false 0

/-- Go on from MGSTATE: between passes of an uninterrupted merge, or after a stop (R250, R251, R256). -/
def mgContinue (reuse : Bool) (rd xb xl : Reg) : Act Bool := do
  let s ← get
  let st := s.hart.csr.mgstate
  let l := (s.x xl).toNat
  Machine.check (decide (fld st 0 24 ≤ l) && decide (fld st 24 6 = mgSlots s - 1) && decide (fld st 58 1 = mgAccf s)
    && decide (fld st 56 2 = mgVfmt s)) .illegal 2 s.parcel
  let old := s.hart.merge
  let (view, es) ← match old.filter (·.live) with
    | some m => pure (m.view, m.entries)
    | none => do
      let view ← mgView
      let es ← mgList view false (s.x xb).toNat l
      pure (view, es)
  let replay := match old with
    | some m => match m.replay with
      | some r => if reuse && bit s.hart.csr.mgstat 0 && recMine s r && s.recs.contains r then some r else none
      | none => none
    | none => none
  modify (setReused replay.isSome)
  startPass
    { phase := .idle, live := true, reuse, rd, xb, xl, entries := es, replay
      coords := (match old with | some m => m.coords | none => []), total := (match old with | some m => m.total | none => 0)
      pass := 1, upTo := 0, runoff := 0, cap := 0, final := false, toDrain := false, base := 0, width := 4, pairs := [], fls := [], view
      written := (match old with | some m => m.written | none => 0), lastC := (match old with | some m => m.lastC | none => none)
      count := 0, stop := none } (fld st 0 24) (fld st 32 24) (bit st 62) s.hart.csr.mgocnt.toNat

/-- The recording of a finished merge, if its coordinates are all known. -/
def mgRecording (s : State) (m : MergeRun) : Option Recording :=
  let cs := (List.range m.entries.length).filterMap fun i => FMap.find i m.coords
  if cs.length = m.entries.length then
    some { core := s.crew.core, tenant := s.crew.tenant, asid := s.crew.asid, tag := s.hart.csr.mgtag, slots := mgSlots s
           accf := mgAccf s, vfmt := mgVfmt s, entries := m.entries, coords := cs }
  else none

/-- MGRUN retires: results, recording, register streams released, the network freed. -/
def mgRetire (m : MergeRun) (s : State) : State :=
  let large := decide (1024 < m.entries.length) || decide (65536 < m.total) || decide (s.hart.csr.mgtag = 0)
  let kept := if large then none else mgRecording s m
  let t := s.hart.csr.mgstat
  let flags := if !m.reuse then setFld t 0 1 0
    else setFld (setFld (setFld t 0 1 (b2n m.replay.isSome)) 1 1 (b2n (m.replay.isNone && kept.isSome))) 2 1 (b2n (m.replay.isNone && large))
  let s : State := match m.reuse && m.replay.isNone, kept with
    | true, some r => { s with recs := keepRec r s.recs }
    | _, _ => s
  let s := s.onHart fun h => { h with
    merge := none
    staged := h.staged.filter fun p => !(m.entries.any fun e => e.kind && decide (e.cbase = p.1))
    csr := { h.csr with mgstate := 0, mgocnt := nw m.written, mgstat := setFld flags 16 24 m.pass } }
  (s.setX m.rd (nw m.written)).mnetRest

/-- MGRUN at its hart: begin, wait for the pass that runs, take its trap, or retire. -/
def mgrunBody (reuse : Bool) (rd xb xl : Reg) : Act Bool := withNet do
  let s ← get
  if !bit s.hart.csr.mgstate 63 then mgBegin reuse rd xb xl
  else
    match s.hart.merge with
    | none => mgContinue reuse rd xb xl
    | some m =>
      match m.phase with
      | .running => pure false
      | .idle => mgContinue reuse rd xb xl
      | .stopped => do
        set (s.onMerge fun m => { m with phase := .idle, live := false, stop := none })
        match m.stop with
        | some e => raiseStop e
        | none => pure false
      | .done => do
        set (mgRetire m s)
        pure true

/-- A trap or fault interrupts a merge: its list is read again when it resumes. -/
def notLive (s : State) : State := s.onMerge fun m => { m with live := false }

def mgrunOp (reuse : Bool) (rd xb xl : Reg) (s : State) : VOp :=
  { matOp [] (decide ((s.x xb).toNat % 8 = 0) && decide ((s.x xl).toNat ≤ 16777215)) true (pure ())
      (onExit notLive (mgrunBody reuse rd xb xl)) with cross := true }

def execMgrun (reuse : Bool) (rd xb xl : Reg) (s : State) : Res := runV (mgrunOp reuse rd xb xl s) s

/-! ### The events of a pass (R245, R251, R252, R258) -/

/-- Write pairs of a run from number `k` on; each raises its flags as it is emitted (R240). -/
def writePairs (base cap width : Nat) : List ((Nat × Nat) × Nat) → Nat → Act Unit
  | [], _ => pure ()
  | ((c, v), fl) :: ps, k => do
    mgWrite (base + 16 + 4 * k) 4 c
    mgWrite (base + 16 + ceilDiv (4 * cap) 64 * 64 + width * k) width v
    modify (·.addFlags fl)
    writePairs base cap width ps (k + 1)

/-- A run's header. -/
def headerOf (s : State) (m : MergeRun) (count : Nat) (part : Bool) : Nat :=
  count + m.cap * 2 ^ 32 + m.pass * 2 ^ 64 + b2n part * 2 ^ 88 + b2n m.final * 2 ^ 89 + mgAccf s * 2 ^ 90

/-- The lines of an array of a run that the run has written whole lose their poison: `from_` is the array's first byte,
and its bytes from `a` to `b − 1` are new (R187). -/
def healArray (from_ a b : Nat) (s : State) : State :=
  let lo := Nat.max from_ (a / 64 * 64)
  healRange lo (b - lo) s

/-- Write the next `k` pairs of the pass, then its header unless the pass stops. -/
def writeSome (m : MergeRun) (k : Nat) (part hdr : Bool) : Act Unit := do
  let ps := m.pairs.take k
  let n := m.written + ps.length
  if m.toDrain then
    modify (·.addFlags ((m.fls.take ps.length).foldl (· ||| ·) 0))
    if hdr then
      modify fun s => s.onHart fun h => { h with
        drain := match h.drain with
          | some d => if d.pairs.isEmpty then some { width := m.width, pairs := ps } else some { d with pairs := d.pairs ++ ps }
          | none => some { width := m.width, pairs := ps } }
  else do
    writePairs m.base m.cap m.width (ps.zip m.fls) m.written
    if hdr then mgWrite m.base 16 (headerOf (← get) m n part)
    let coords := m.base + 16
    let vals := coords + ceilDiv (4 * m.cap) 64 * 64
    let first := if m.written = 0 then (if hdr then m.base else coords) else coords + 4 * m.written
    modify (healArray m.base first (coords + 4 * n))
    modify (healArray vals (vals + m.width * m.written) (vals + m.width * n))
  modify fun s => s.onMerge fun m => { m with pairs := m.pairs.drop k, fls := m.fls.drop ps.length, written := n, lastC := (ps.getLast?.map (·.1)).orElse fun _ => m.lastC }

/-- The pairs up to the next checkpoint. -/
def toCheckpoint (m : MergeRun) : Nat := 4096 - m.written % 4096

/-- The flags of what the pass drops at its end (R240). -/
def lastFlags (s : State) : State :=
  match s.hart.merge with
  | some m => (s.addFlags (m.fls.foldl (· ||| ·) 0)).onMerge fun m => { m with fls := [] }
  | none => s

/-- The trap of a pass that has stopped is taken at once, whether the crew is leaving or not (R236, R252). -/
def takeStop (s : State) : Res :=
  match s.hart.merge with
  | some m => if m.phase = .stopped then execMgrun m.reuse m.rd m.xb m.xl s else .next s
  | none => .next s

/-- A write of the pass: a fault of it stops the pass at its last record. One that waits for an answer or a fill is made
again when that has come: the pass has not gone on, and the state holds what was sent. -/
def passWrite (a : Act Unit) (s : State) : Except State State :=
  match attempt a s with
  | .ok (.ok _, s') => .ok (s'.onHart fun h => { h with asked := [], answers := [] })
  | .ok (.error e, s') =>
    .ok (s'.onHart fun h => { h with
      asked := [], answers := [], merge := s.hart.merge.map fun m => { m with phase := .stopped, stop := some e } })
  | .error e => .error (e.steady s).state

/-- MERGE_CHECKPOINT: 4,096 further pairs and a header with PARTIAL; a crew that is leaving may now be saved, and the
merge of a crew that is FAULTED stops here (R183, R251). -/
def evMergeCheckpoint (s : State) (core : Nat) : Res :=
  match (FMap.find core s.mnet).bind (·.holder) with
  | none => .next s
  | some slot =>
    match s.focus slot with
    | none => .next s
    | some f =>
      match f.hart.merge with
      | none => .next s
      | some m =>
        if m.phase ≠ .running ∨ m.pairs.length < toCheckpoint m then .next s
        else
          match passWrite (writeSome m (toCheckpoint m) true true) f with
          | .error t => .next t
          | .ok t =>
            match t.hart.merge with
            | none => .next s
            | some m' =>
              if m'.phase ≠ .running then takeStop t
              else
                let st := t.hart.csr.mgstate
                let t := setRecord true (fld st 32 24) (fld st 0 24) m'.written t
                .next (if t.crew.place = .leaving ∨ t.crew.faulted then t.onMerge fun m => { m with phase := .idle, live := false } else t)

/-- Whether the pass that comes next raises MERGE_SPILL_FULL or MERGE_OUT_FULL. -/
def spaceLacks (m : MergeRun) (s : State) : Bool :=
  match mgrunBody m.reuse m.rd m.xb m.xl s with
  | .error (.trap _ c _ _) => decide (c = .mergeSpillFull) || decide (c = .mergeOutFull)
  | _ => false

/-- MERGE_PASS_END: the rest of the pass, less than a checkpoint's pairs, and its header are written; then the next pass
starts or MGRUN retires, unless the pass stops, the crew is leaving or it is FAULTED. A stop is taken as a trap at once,
and a leaving crew takes the trap of space that the boundary raises (R258). -/
def evMergePassEnd (s : State) (core : Nat) : Res :=
  match (FMap.find core s.mnet).bind (·.holder) with
  | none => .next s
  | some slot =>
    match s.focus slot with
    | none => .next s
    | some f =>
      match f.hart.merge with
      | none => .next s
      | some m =>
        if m.phase = .stopped then takeStop f
        else if m.phase ≠ .running ∨ toCheckpoint m ≤ m.pairs.length then .next s
        else
          match passWrite (writeSome m m.pairs.length false m.stop.isNone) f with
          | .error t => .next t
          | .ok t =>
            match t.hart.merge with
            | none => .next s
            | some m' =>
              if m'.phase ≠ .running then takeStop t
              else if m.stop.isSome then takeStop (t.onMerge fun m => { m with phase := .stopped, pairs := [], fls := [] })
              else
                let t := lastFlags t
                let total (m : MergeRun) : Nat := m.total + m.count
                let t := if m.final then t.onMerge fun m => { m with phase := .done, total := total m }
                  else (setRecord false m.runoff m.upTo 0 t).onMerge fun m => { m with phase := .idle, total := total m }
                if t.crew.faulted = false ∧ (t.crew.place = .resident ∨ (!m.final && spaceLacks m t)) then execMgrun m.reuse m.rd m.xb m.xl t else .next t

def execMergeCheckpoint (s : State) : Res :=
  match s.input with | some (.mergeCheckpoint core) => evMergeCheckpoint s core | _ => .next s
def execMergePassEnd (s : State) : Res :=
  match s.input with | some (.mergePassEnd core) => evMergePassEnd s core | _ => .next s

/-! ### MGCFG, MGIN, MGDRAIN, MGRST (R396, R397, R399, R400) -/

def mgcfgOp (xb : Reg) (mask : BitVec 5) (s : State) : VOp :=
  matOp [] true true (pure ())
    (complete do
      if mask = 0 then pure ()
      else do
        let va := s.x xb
        let ps ← reachAll .scalarLd .read va 32
        let v ← readPieces true va 0 ps
        let part (lo n : Nat) : Word := nw (v / 2 ^ lo % 2 ^ n)
        let put (i a : Nat) (w : Word) : Act Unit := if mask.getLsbD i then modify fun s => s.csrStore a w else pure ()
        put 0 0x204 (part 0 64)
        put 1 0x200 (part 64 64)
        put 2 0x201 (part 192 32)
        put 3 0x202 (part 128 64)
        put 4 0x203 (part 224 32))

def execMgcfg (xb : Reg) (mask : BitVec 5) (s : State) : Res := runV (mgcfgOp xb mask s) s

def mginOp (k : BitVec 3) (vc vv : Reg) (m : VMask) (s : State) : VOp :=
  let vw := mgWidth s
  let n := s.nElems
  { reads := [(vc.toNat, 4), (vv.toNat, vw)], mreads := m.reads, kind := .free, limits := decide (n ≤ s.mvl)
    body :=
      if n = 0 then do
        modify (·.setVstart 0)
        pure true
      else withNet do
        let s ← get
        let old := FMap.find k.toNat s.hart.staged
        Machine.check (match old with | some d => decide (d.width = vw) | none => true) .illegal 2 s.parcel
        let idx := (List.range n).filter fun i => s.active m i
        let heldPairs := (s.hart.staged.map fun p => p.2.pairs.length).sum
        Machine.check (decide (heldPairs + idx.length ≤ 4096)) .illegal 1 s.parcel
        Machine.check (idx.all fun i => !s.elemPois vc.toNat 4 i && !s.elemPois vv.toNat vw i) .poison 1 0
        let ps := idx.map fun i => (s.elem vc.toNat 4 i, s.elem vv.toNat vw i)
        let d : Staged := { width := vw, pairs := (match old with | some d => d.pairs | none => []) ++ ps }
        set ((s.onHart fun h => { h with staged := FMap.insert k.toNat d h.staged }).setVstart 0)
        pure true }

def execMgin (k : BitVec 3) (vc vv : Reg) (m : VMask) (s : State) : Res := runV (mginOp k vc vv m s) s

/-- The width MGDRAIN moves values at. -/
def drainWidth (s : State) : Nat :=
  match s.hart.drain with
  | some d => if d.pairs.isEmpty then mgWidth s else d.width
  | none => mgWidth s

def mgdrainOp (vc vv : Reg) (s : State) : VOp :=
  let w := drainWidth s
  { reads := [], writes := [(vc.toNat, 4), (vv.toNat, w)], kind := .free, states := decide (s.vrc = 1)
    body := withNet do
      let s ← get
      let d : Staged := s.hart.drain.getD { width := w, pairs := [] }
      let c := Nat.min s.vl d.pairs.length
      let out := d.pairs.take c
      let rest := d.pairs.drop c
      let s := (s.setElems vc.toNat 4 0 (out.map (·.1))).setElems vv.toNat w 0 (out.map (·.2))
      let s := (s.tailV vc.toNat 4 c).tailV vv.toNat w c
      let s := (s.onHart fun h => { h with drain := if rest.isEmpty then none else some { d with pairs := rest } }).setVlVec c
      set (s.setVstart 0).mnetRest
      pure true }

def execMgdrain (vc vv : Reg) (s : State) : Res := runV (mgdrainOp vc vv s) s

def execMgrst (s : State) : Res :=
  let s := s.onHart fun h => { h with staged := [], drain := none, merge := none, csr := { h.csr with mgstate := 0 } }
  .next (s.mnetRest.advance 8)

end Sys2Proof.Machine
end

