-- ==== Sys2Proof/Machine/Copy.lean ====
section
/-!
DEFINITION. Copy channels: XCOPY, XWAIT, and the steps of a running channel (06_core R158 to R161; 08_ordering R207, R208;
15_matrix_merge_copy R401, R402).
-/
namespace Sys2Proof.Machine

open State

def copyTotal (c : CopyChan) : Nat := c.len * c.rows

/-- Source address of destination byte `o`: row r from src + r × VRP (R401). -/
def copySrc (c : CopyChan) (o : Nat) : Nat := (BitVec.ofInt 64 ((c.src : Int) + (o / c.len : Nat) * c.pitch + (o % c.len : Nat))).toNat
def copyDst (c : CopyChan) (o : Nat) : Nat := (c.dst + o) % 2 ^ 64

/-- A state as translation for the channel sees it: in the mode in which its XCOPY issued. -/
def copyView (s : State) (c : CopyChan) : State := s.onCsr fun k => { k with tstat := setFld k.tstat 0 1 (b2n c.sys) }

/-- Reach `n` bytes for a channel: a place, or the cause of its fault (R401). -/
def copyReach (s : State) (c : CopyChan) (need : Need) (va n : Nat) : Except Nat Place :=
  match (copyView s c).reach need va n with
  | .ok pa => .ok (s.place pa)
  | .error (.kind _) => .error (match need with | .read => 1 | _ => 2)
  | .error _ => .error 5

/-- Change a channel of the current hart. -/
def State.onChan (s : State) (ch : Nat) (f : CopyChan → CopyChan) : State :=
  s.onHart fun h => if hc : ch < 4 then { h with cp := h.cp.set ch (f h.cp[ch]) } else h

def chanOf (s : State) (ch : Nat) : CopyChan := if hc : ch < 4 then s.hart.cp[ch] else CopyChan.reset

/-- Drop the registrations of a channel of the current hart (R159). -/
def releaseRegs (ch : Nat) (s : State) : State :=
  { s with cregs := s.cregs.filter fun r => !(decide (r.slot = s.cur) && decide (r.chan = ch)) }

/-- The channel becomes FAULTED; what is registered stays so. `imp`: the write was refused when it was posted (R226). -/
def copyFault (ch cause va : Nat) (imp : Bool) (s : State) : State :=
  let s := s.onChan ch fun c => { c with st := 2, cause, fva := va % 2 ^ 53, reported := false, ask := none, ans := none, unit := 0 }
  if imp then s.reportImp s.cur .storeFault 0 (nw va) else s

/-! ### Registrations (R159) -/

/-- The die whose controllers own a local range, 2 for both (R164, R166). -/
def dieOfRange (s : State) (pa n : Nat) : Nat :=
  if 0x7100000000 ≤ pa then 1
  else if 0x7000000000 ≤ pa then 0
  else
    let dies := (upFrom (pa / 4096) ((pa + n - 1) / 4096 - pa / 4096 + 1)).map fun c => s.stackOf (c * 4096) / 4
    if dies.all (· = 0) then 0 else if dies.all (· = 1) then 1 else 2

/-- Fewer than 64 registrations on every die of a range. -/
def regRoom (s : State) (die : Nat) : Bool :=
  [0, 1].all fun d => decide (die ≠ d ∧ die ≠ 2) || decide ((s.cregs.filter fun r => decide (r.lo < r.hi) && (decide (r.die = d) || decide (r.die = 2))).length < 64)

/-- Bytes of the destination's page from destination byte `o` on, within the copy and within the crew's allocation. -/
def pageRoom (s : State) (c : CopyChan) (o : Nat) : Nat :=
  let va := copyDst c o
  let n := Nat.min (copyTotal c - o) (2 ^ 17 - va % 2 ^ 17)
  if inWindow va ∧ s.crew.ssBase ≤ va ∧ va < s.crew.ssBase + s.crew.ssSize then Nat.min n (s.crew.ssBase + s.crew.ssSize - va) else n

/-- What reaching the page of destination byte `o` gives. -/
inductive PageStep where
  | ok (s : State)
  | full
  | fault (cause : Nat)

/-- Stores made before a range is registered are performed: queued ones, and dirty lines of every core go to their homes
(R159, R208). -/
def writeBackRange (pa n : Nat) (s : State) : State :=
  let waits (h : Hart) : Bool := h.stq.any fun q => meets q.pa q.n pa n
  let s := ((s.flush.harts.filter fun p => waits p.2).map (·.1)).foldl (fun s k => s.asHart k (·.performMeeting pa n)) s
  (s.dcache.filter fun p => (linesOf pa n).contains (p.1 / 256)).foldl (fun s p => s.writeBack (p.1 % 256) (p.1 / 256)) s

/-- Translate and register the page at the channel's progress. A destination that is not local memory needs no
registration. -/
def reachPage (ch : Nat) (s : State) : PageStep :=
  let c := chanOf s ch
  let n := pageRoom s c c.done
  match copyReach s c .write (copyDst c c.done) 1 with
  | .error k => .fault k
  | .ok (.mem pa) =>
    let die := dieOfRange s pa n
    if regRoom s die then
      let s := writeBackRange pa n (releaseRegs ch s)
      .ok (({ s with cregs := s.cregs ++ [{ slot := s.cur, chan := ch, die, lo := pa, hi := pa + n }] } : State).onChan ch
        fun c => { c with regd := c.done + n })
    else .full
  | .ok _ => .ok ((releaseRegs ch s).onChan ch fun c => { c with regd := c.done + n })

/-! ### Filling (R207, R208, R401) -/

/-- What the next unit of a channel does. -/
inductive Fill where
  | filled (s : State)
  /-- something has been sent whose answer the unit waits for -/
  | sent (s : State)
  | blocked
  | fault (cause va : Nat) (imp : Bool) (s : State)

/-- Bytes of the next unit: in one row, one source line, one destination line, and below the registered end. -/
def unitSize (c : CopyChan) : Nat :=
  let sva := copySrc c c.done
  let dva := copyDst c c.done
  Nat.min (Nat.min (c.regd - c.done) (c.len - c.done % c.len)) (Nat.min (64 - sva % 64) (64 - dva % 64))

/-- Bytes that the unit's read takes: it goes on to the end of an 8-byte granule of the row, which is read once (R207). -/
def readSize (c : CopyChan) (k : Nat) : Nat := Nat.min (roundUp (copySrc c c.done + k) 8 - copySrc c c.done) (c.len - c.done % c.len)

/-- What a unit's read of value `v` at `sva` comes to where it goes on in a granule that the unit before has read, and
the granule of which this unit leaves a part (R207). -/
def joinGranule (c : CopyChan) (sva k r v : Nat) : Nat × Option (Nat × Nat) :=
  let before := c.gran.filter fun p => decide (p.1 = sva / 8) && decide (c.done % c.len ≠ 0)
  let v := match before with
    | some (g, old) => putGranule sva r v g old
    | none => v
  let g := (sva + k) / 8
  (v, if (sva + k) % 8 = 0 then none
      else some (g, overlay g (match before with | some (g', old) => if g' = g then old else 0 | none => 0) sva (bytesLE r v)))

/-- Store a unit at its destination. A line of which the copy has filled all 64 bytes loses its poison, unless an error
has struck it while it filled (R187, R192). -/
def fillDst (ch : Nat) (c : CopyChan) (k v : Nat) (s : State) : Fill :=
  let dva := copyDst c c.done
  let pass (s : State) : State := s.onChan ch fun c => { c with done := c.done + k, ans := none }
  let local_ (bad : List Nat) (pa : Nat) (s : State) : State :=
    let s := (linesOf pa k).foldl (fun s l => (s.flushLine s.cur s.crew.core l).dropDline s.crew.core l) s
    let s := (s.touch pa k).writeHome pa k v
    if bad.contains (pa / 64) then s.setPois (pa / 64) true
    else if (pa + k) % 64 = 0 ∧ 64 ≤ c.done + k then s.setPois (pa / 64) false
    else s
  match s.cregs.find? (fun r => decide (r.slot = s.cur) && decide (r.chan = ch) && decide (r.lo < r.hi)) with
  | some r =>
    let others : State := { s with cregs := s.cregs.erase r }
    if !(unfilled others r.lo k).isEmpty then .blocked
    else
      let s := local_ r.bad r.lo s
      let rest := s.cregs.erase r
      .filled (pass { s with cregs := if r.lo + k < r.hi then { r with lo := r.lo + k } :: rest else rest })
  | none =>
    let post (o : Nat → Output) : Fill :=
      let tag := s.nextTag
      let s := s.emitNet (o tag)
      let s : State := { s with nextTag := tag + 1 }
      .sent ((s.addPosted { tag, va := dva, by_ := .chan ch, lo := 0, n := 0, ins := s.hart.csr.instret, bad := false }).onChan ch
        fun c => { c with unit := k, ans := none })
    match copyReach s c .write dva k with
    | .error e => .fault e dva false s
    | .ok (.remote chip off) =>
      match s.srcRefuses chip with
      | some e => .fault 5 dva true (s.logDrop e s.crew.tenant s.chipId chip 0)
      | none =>
        if chip = s.chipId then
          match s.tgtRefuses s.crew.tenant off with
          | some e => .fault 5 dva true (s.logDrop e s.crew.tenant s.chipId chip 0)
          | none => if !(unfilled s off k).isEmpty then .blocked else .filled (pass (local_ [] off s))
        else
          post fun tag => .request chip
            { kind := .write, src := s.chipId, tenant := s.crew.tenant, tag, off, width := k, dat := v % 2 ^ (8 * k), cmp := 0
              core := s.crew.core }
    | .ok (.aperture off) =>
      if s.admits .vecSt dva k (.aperture off) then post fun tag => .hostWrite s.crew.tenant (s.hostBus off) (bytesLE k v) (some tag)
      else .fault 5 dva true s
    | .ok (.mcast group off high) =>
      if high ≠ 0 then .fault 5 dva false s
      else if !s.faben then .fault 5 dva true (s.logDrop 6 s.crew.tenant s.chipId group 0)
      else
        let m : McastMsg := { group, off, data := bytesLE k v, src := s.chipId, tenant := s.crew.tenant, hops := 0, core := s.crew.core
                              slot := s.cur }
        .filled (pass (s.sendMcast (.chan ch) dva m))
    | .ok _ => .fault 5 dva false s

/-- Whether a source unit lies in a line that another channel's copy has not filled. A channel's own destination lines do not
hold back its own source reads: it alone fills them (log 20). -/
def sourceHeld (s : State) (ch pa n : Nat) : Bool :=
  (unfilled s pa n).any fun r => !(decide (r.slot = s.cur) && decide (r.chan = ch))

/-- One unit of a running channel of the current hart whose page is registered: read its source, then store it. -/
def fillNext (ch : Nat) (s : State) : Fill :=
  let c := chanOf s ch
  let k := unitSize c
  let sva := copySrc c c.done
  if c.st ≠ 1 ∨ c.regd ≤ c.done ∨ c.unit ≠ 0 ∨ c.ask.isSome then .blocked
  else
    let r := readSize c k
    let take (v : Nat) (s : State) : Fill :=
      let (v, gran) := joinGranule c sva k r v
      fillDst ch c k v (s.onChan ch fun c => { c with gran })
    match c.ans with
    | some (.value v) => take v s
    | some .refused => .fault 5 sva false s
    | some .poisoned => .fault 4 sva false s
    | none =>
      let fromHome (pa : Nat) (s : State) : Fill :=
        let s := s.touch pa r
        take (viewed c.view pa r (s.readHome pa r)) s
      let send (o : Nat → Output) : Fill :=
        let tag := s.nextTag
        let s := s.emitNet (o tag)
        .sent (({ s with nextTag := tag + 1 } : State).onChan ch fun c => { c with ask := some tag })
      match copyReach s c .read sva k with
      | .error e => .fault e sva false s
      | .ok (.mem pa) =>
        if sourceHeld s ch pa k then .blocked
        else if s.poisonedAny pa k then .fault 4 sva false s
        else fromHome pa s
      | .ok (.aperture off) =>
        if s.admits .vecLd sva k (.aperture off) then send fun tag => .hostRead s.crew.tenant (s.hostBus off) r tag
        else .fault 5 sva false s
      | .ok (.remote chip off) =>
        match s.srcRefuses chip with
        | some e => .fault 5 sva false (s.logDrop e s.crew.tenant s.chipId chip 0)
        | none =>
          if chip = s.chipId then
            match s.tgtRefuses s.crew.tenant off with
            | some e => .fault 5 sva false (s.logDrop e s.crew.tenant s.chipId chip 0)
            | none =>
              if sourceHeld s ch off k then .blocked
              else if s.poisonedAny off k then .fault 4 sva false s
              else fromHome off s
          else
            send fun tag => .request chip
              { kind := .read, src := s.chipId, tenant := s.crew.tenant, tag, off, width := r, dat := 0, cmp := 0
                core := s.crew.core }
      | .ok _ => .fault 5 sva false s

/-- One unit of a running channel; a page whose translation an invalidation has removed is reached again first (R182). -/
def fillUnit (ch : Nat) (s : State) : Fill :=
  if s.cregs.any (fun r => decide (r.slot = s.cur) && decide (r.chan = ch) && r.stale) then
    match reachPage ch (releaseRegs ch s) with
    | .ok s => fillNext ch s
    | .full => .blocked
    | .fault k => .fault k (copyDst (chanOf s ch) (chanOf s ch).done) false s
  else fillNext ch s

/-- Fill up to `n` units; stop where the channel must wait or faults. -/
def fillRun (ch : Nat) : Nat → State → State
  | 0, s => s
  | n + 1, s =>
    match fillUnit ch s with
    | .filled s => fillRun ch n s
    | .sent s => s
    | _ => s

/-- Fill what has been registered. -/
def fillPage (ch : Nat) (s : State) : State := let c := chanOf s ch; fillRun ch (c.regd - c.done) s

/-! ### The events of a channel -/

/-- Act for a running channel of a hart whose crew is on its core (R99, R160). -/
def onRunning (s : State) (slot ch : Nat) (f : State → State) : State :=
  match s.focus slot with
  | none => s
  | some t => if t.crew.place = .resident ∧ ch < 4 ∧ (chanOf t ch).st = 1 then f t else s

/-- A channel makes progress within what is registered. -/
def copyProgress (s : State) (slot ch n : Nat) : State := onRunning s slot ch (fillRun ch n)

/-- COPY_PAGE_REGISTER: the page it has reached is full, and the next one is translated and registered (R159). -/
def evCopyPageRegister (s : State) (slot ch : Nat) : State :=
  onRunning s slot ch fun t =>
    let t := fillPage ch t
    let c := chanOf t ch
    if c.st = 1 ∧ c.done = c.regd ∧ c.done < copyTotal c then
      match reachPage ch t with
      | .ok t => t
      | _ => t
    else t

/-- COPY_COMPLETE: the last byte is filled (R401). -/
def evCopyComplete (s : State) (slot ch : Nat) : State :=
  onRunning s slot ch fun t =>
    let t := fillPage ch t
    let c := chanOf t ch
    if c.st = 1 ∧ c.done = copyTotal c then (releaseRegs ch t).onChan ch fun c => { c with st := 0 } else t

/-- COPY_CHANNEL_FAULT: the channel goes on to what stops it, and stops FAULTED there (R401). -/
def evCopyChannelFault (s : State) (slot ch : Nat) : State :=
  onRunning s slot ch fun t =>
    let t := fillPage ch t
    let c := chanOf t ch
    if c.st = 1 ∧ c.done = c.regd ∧ c.done < copyTotal c then
      match reachPage ch t with
      | .fault k => copyFault ch k (copyDst c c.done) false t
      | _ => t
    else
      match fillUnit ch t with
      | .fault k va imp t => copyFault ch k va imp t
      | _ => t

def execCopyPageRegister (s : State) : Res :=
  .next (match s.input with | some (.copyPageRegister slot ch) => evCopyPageRegister s slot ch | _ => s)
def execCopyComplete (s : State) : Res :=
  .next (match s.input with | some (.copyComplete slot ch) => evCopyComplete s slot ch | _ => s)
def execCopyChannelFault (s : State) : Res :=
  .next (match s.input with | some (.copyChannelFault slot ch) => evCopyChannelFault s slot ch | _ => s)

/-! ### XCOPY and XWAIT (R401, R402) -/

/-- Whether some row of the source meets the destination, as virtual ranges. -/
def copyOverlap (c : CopyChan) : Bool :=
  (List.range c.rows).any fun r =>
    let a := copySrc c (r * c.len)
    decide (a < c.dst + copyTotal c) && decide (c.dst < a + c.len)

/-- The rows of a copy's source. -/
def copyRows (c : CopyChan) : List (Nat × Nat) := (List.range c.rows).map fun r => (copySrc c (r * c.len), c.len)

/-- The limits of the channel number and the length. -/
def chanOk (s : State) (ch : Reg) : Bool := decide (ch.toNat < 4) && decide (ch.toNat ≤ s.crew.xch)

def xcopyOp (lu twoD : Bool) (ch : Reg) (dst src : Reg) (len : XOrImm) (s : State) : VOp :=
  let n := xiVal s len
  matOp [] (chanOk s ch && decide (n < 2 ^ 40)) true (pure ())
    (complete do
      held
      let k := ch.toNat
      waitUnless (decide ((chanOf (← get) k).st ≠ 1))
      modify (·.performAll fun _ => true)
      let s ← get
      let c : CopyChan := { CopyChan.reset with
        cause := (chanOf s k).cause, fva := (chanOf s k).fva, src := (s.x src).toNat, dst := (s.x dst).toNat, len := n
        rows := if twoD then s.vrc else 1, pitch := s.hart.csr.vrp.toInt, lu, sys := s.sysMode }
      -- a FAULTED copy is abandoned, and refusals of an earlier copy's multicast writes no longer touch the channel
      let s := (releaseRegs k s).onChan k fun _ => c
      let s : State := { s with mcTags := s.mcTags.filter fun t => !(decide (t.slot = s.cur) && decide (t.by_ = .chan k)) }
      if n = 0 then set s
      else if copyOverlap c then do
        set (s.onChan k fun c => { c with cause := 3, fva := c.dst % 2 ^ 53 })
        raise .copyFault 3 (s.x dst)
      else
        let (view, s) := (s.cleanSources (copyRows c)).oldView
        let s := s.onChan k fun c => { c with st := 1, cause := 0, view }
        match reachPage k s with
        | .ok s => set s
        | .full => wait
        | .fault _ => set s)

def execXcopy (lu twoD : Bool) (ch : Reg) (dst src : Reg) (len : XOrImm) (s : State) : Res :=
  runV (xcopyOp lu twoD ch dst src len s) s

def xwaitOp (ch xaddr : Reg) (s : State) : VOp :=
  matOp [] (chanOk s ch) true (pure ())
    (complete do
      held
      let k := ch.toNat
      modify fun s =>
        let c := chanOf s k
        if c.st = 2 ∧ c.reported then s.onChan k fun c => { c with st := 1, cause := 0, reported := false } else s
      let s ← get
      let c := chanOf s k
      if c.st = 2 then do
        set (s.onChan k fun c => { c with reported := true })
        if c.cause = 1 ∨ c.cause = 2 then xfault 5 (c.cause - 1) (nw c.fva)
        else raise .copyFault c.cause (nw c.fva)
      else waitUnless (decide (c.st = 0) || decide ((s.x xaddr).toNat < (s.xwm k).toNat)))

def execXwait (ch xaddr : Reg) (s : State) : Res := runV (xwaitOp ch xaddr s) s

end Sys2Proof.Machine
end

