-- ==== Sys2Proof/Machine/System.lean ====
section
/-!
DEFINITION. CSR access, traps by instruction, halting, phases, translation invalidation, fences, cache maintenance, queue
registers, barriers, counters and launch (13_scalar_system R324 to R336).
-/
namespace Sys2Proof.Machine

open State

/-! ### CSR access (R324, R325) -/

def execCsrr (rd : Reg) (csr : BitVec 12) (s : State) : Res :=
  runAct 4 (do
    csrCheck csr.toNat
    let v ← csrGet csr.toNat
    modify fun s => s.setX rd v) s

/-- A held CSR write of a value computed from the current one. -/
def csrWrite (csr : BitVec 12) (f : Word → Word) (s : State) : Res :=
  runAct 4 (do
    csrCheck csr.toNat
    held
    csrPut csr.toNat (f ((← get).csrValue csr.toNat))) s

def execCsrw (csr : BitVec 12) (rs1 : Reg) (s : State) : Res := csrWrite csr (fun _ => s.x rs1) s
def execCsrs (csr : BitVec 12) (rs1 : Reg) (s : State) : Res := csrWrite csr (fun v => v ||| s.x rs1) s
def execCsrc (csr : BitVec 12) (rs1 : Reg) (s : State) : Res := csrWrite csr (fun v => v &&& ~~~ s.x rs1) s

/-! ### Traps, halting, phases (R326 to R328) -/

/-- Do something once the hart's older work is done. -/
def whenQuiet (s : State) (r : State) : Res := .next (if s.hart.pend.isEmpty then r else s)

def execSvc (n : BitVec 12) (s : State) : Res := whenQuiet s (s.takeTrap .svc 0 (n.setWidth 64) (s.pc + 4) false)
def execBkpt (s : State) : Res := whenQuiet s (s.takeTrap .bkpt 0 0 s.pc false)

def execTret (s : State) : Res :=
  if !s.sysMode then whenQuiet s (s.takeTrap .priv 0 s.parcel s.pc false)
  else whenQuiet s
    (if s.hart.csr.tpc.toNat % 4 ≠ 0 then s.takeTrap .misalignFetch 0 s.hart.csr.tpc s.pc false else s.trapReturn)

/-- HALT waits for every completion of the hart's own stores, and not for its copy channels and stream writes, which go
on (R227, R327); then the hart counts as arrived at every barrier. -/
def execHalt (s : State) : Res :=
  runAct 4 (do
    held
    modify (·.performAll fun _ => true)
    waitUnless (!s.hart.awaits)
    modify fun s => (s.onHart fun h => { h with halted := true }).releaseBarriers s.crew.uid
    modify fun s => (s.setOf s.crew).foldl (fun s c => s.releaseBarriers c.uid) s) s

/-- The packet of the current crew's launch. -/
def State.packet (s : State) : List Word :=
  match FMap.find s.crew.launch s.launches with
  | some l => l.words
  | none => []

def execPulse (s : State) : Res :=
  runAct 4 (do
    held
    if pkPersist s.packet then modify fun s => s.onCrew fun c => { c with window := 0 }) s

def execPhase (n : BitVec 8) (s : State) : Res :=
  runAct 4 (do
    held
    modify fun s => s.changePhase n.toNat (pkKernel s.packet)) s

/-- TINV: op 0 the crew's ASID, 1 one page, 2 the tenant (R329). It retires when its invalidation is complete. -/
def execTinv (op : BitVec 2) (rs1 : Reg) (s : State) : Res :=
  runAct 4 (do
    if !s.sysMode then raise .priv 0 s.parcel
    held
    match ← answerOf 0 with
    | some _ => pure ()
    | none =>
      if (← get).invals.any (fun v => !v.host && decide (v.slot = s.cur)) then wait
      else
        let v : Inval := { host := false, slot := s.cur, op := if op = 0 then 2 else if op = 1 then 3 else 1
                           tenant := s.crew.tenant, asid := s.crew.asid, page := fld (s.x rs1) 17 36 }
        modify fun s => { s with invals := s.invals ++ [v] }
        wait) s

/-! ### Fences and cache maintenance (R330 to R332) -/

def execFence (kind scope : BitVec 2) (s : State) : Res :=
  runAct 4 (do
    held
    if 2 ≤ kind.toNat then release scope.toNat
    if kind.toNat % 2 = 1 then acquire scope.toNat) s

def execLsync (scope : BitVec 2) (s : State) : Res :=
  runAct 4 (do
    held
    release scope.toNat
    modify fun s => s.onHart fun h => { h with early := [] }) s

def execIfence (s : State) : Res :=
  runAct 4 (do
    held
    modify fun s => s.onHart fun h => { h with ibuf := [] }) s

/-- The cached line that an address names: none for a place that is never cached. -/
def cacheLine (va : Word) : Act (Option Nat) := fun s =>
  match s.reach .cache va.toNat 1 with
  | .error f => addrFault true va f s
  | .ok pa => match s.place pa with
    | .mem pa => .ok (some (pa / 64), s)
    | _ => .ok (none, s)

/-- A cache-maintenance instruction: an effect on the core's copy of a line. -/
def cacheOp (rs1 : Reg) (imm : BitVec 12) (f : Nat → Act Unit) (s : State) : Res :=
  runAct 4 (do
    held
    match ← cacheLine (s.x rs1 + imm12 imm) with
    | some l => do
      modify (·.performMeeting (l * 64) 64)
      f l
    | none => pure ()) s

/-- A write-back of the core's copy of a line waits where a copy has registered its home and not filled it (R159). -/
def lineOut (f : Nat → State → State) (l : Nat) : Act Unit := do
  let s ← get
  if s.stuck s.crew.core l then copyGate (l * 64) 64
  modify (f l)

def execCwb (rs1 : Reg) (imm : BitVec 12) (s : State) : Res := cacheOp rs1 imm (lineOut fun l s => s.writeBack s.crew.core l) s
def execCinv (rs1 : Reg) (imm : BitVec 12) (s : State) : Res := cacheOp rs1 imm (lineOut fun l s => s.evict s.crew.core l) s
def execIinv (rs1 : Reg) (imm : BitVec 12) (s : State) : Res :=
  cacheOp rs1 imm (fun l => modify fun s => { s with icache := FMap.erase (dkey s.crew.core l) s.icache }) s

/-! ### Queue registers (R152, R333) -/

/-- A queue register and its number, or ILLEGAL with SUB 1. -/
def queueReg (q : Reg) : Act (Fin 8 × QReg) := fun s =>
  if h : q.toNat < 8 then .ok ((⟨q.toNat, h⟩, s.crew.qs[q.toNat]), s)
  else .error (.trap s .illegal 1 s.parcel)

/-- The current hart may use a side of a queue: it is unbound or bound to this hart. -/
def queueSide (q : Fin 8) (b : Option Nat) : Act Unit := fun s =>
  if b = none ∨ b = some s.hart.idx then .ok ((), s) else .error (.trap s .queueUnbound 0 (nw q))

def putQueue (q : Fin 8) (r : QReg) : Act Unit := modify fun s => s.onCrew fun c => { c with qs := c.qs.set q r }

/-- QSEND. It binds the writer even where it then waits (R152). -/
def execQsend (rel : Bool) (q : Reg) (rs2 : Reg) (s : State) : Res :=
  runAct 4 (do
    let (i, r) ← queueReg q
    held
    queueSide i r.writer
    putQueue i { r with writer := some s.hart.idx, wstop := true }
    waitUnless (decide (r.entries.length < 16))
    if rel then release 0
    putQueue i { r with entries := r.entries ++ [s.x rs2], writer := some s.hart.idx, wstop := false }) s

/-- A receiving form: what it does with the oldest entry. It binds the reader even where it then waits (R152). -/
def queueTake (rd q : Reg) (remove acq : Bool) (s : State) : Res :=
  runAct 4 (do
    let (i, r) ← queueReg q
    held
    queueSide i r.reader
    putQueue i { r with reader := some s.hart.idx, rstop := true }
    match r.entries with
    | [] => wait
    | v :: vs => do
      putQueue i { r with entries := if remove then vs else r.entries, reader := some s.hart.idx, rstop := false }
      if acq then acquire 0
      modify fun s => s.setX rd v) s

/-- QRECV; .ACQ acquires at scope CORE (R200). -/
def execQrecv (acq : Bool) (rd q : Reg) (s : State) : Res := queueTake rd q true acq s
def execQpeek (rd q : Reg) (s : State) : Res := queueTake rd q false false s

def execQpoll (rd q : Reg) (s : State) : Res :=
  runAct 4 (do
    let (i, r) ← queueReg q
    held
    queueSide i r.reader
    putQueue i { r with reader := some s.hart.idx }
    modify fun s => s.setX rd (nw r.entries.length)) s

/-! ### Barriers, counters and launch (R334 to R336) -/

/-- BAR: arrive with a release, leave together with an acquire. -/
def execBar (launch : Bool) (id : BitVec 4) (s : State) : Res :=
  let scope := if launch then 2 else 0
  runAct 4 (do
    check (!launch || pkCosched s.packet) .barrierScope 0 s.parcel
    held
    if s.hart.barAt.isNone && !s.hart.barGo then
      release scope
      modify fun s => (s.onHart fun h => { h with barAt := some (launch, id.toNat) }).releaseBarriers s.crew.uid
    waitUnless (← get).hart.barGo
    acquire scope
    modify fun s => s.onHart fun h => { h with barGo := false }) s

/-- A counter of the crew's tenant, or ILLEGAL with SUB 1. -/
def counterCheck (ctr : BitVec 10) : Act Unit := fun s =>
  if s.ctrOwner ctr.toNat = s.crew.tenant then .ok ((), s) else .error (.trap s .illegal 1 s.parcel)

def execCtrwait (rd rs1 : Reg) (ctr : BitVec 10) (s : State) : Res :=
  runAct 4 (do
    counterCheck ctr
    held
    waitUnless (s.reaches ctr.toNat (s.x rs1).toNat)
    acquire 3
    modify fun s => s.setX rd ((s.ctr ctr.toNat).setWidth 64)) s

def execCtradd (rel : Bool) (rd rs1 : Reg) (ctr : BitVec 10) (s : State) : Res :=
  runAct 4 (do
    counterCheck ctr
    held
    if rel then release 3
    modify fun t => (t.addCtr ctr.toNat (lo32 (s.x rs1))).setX rd ((t.ctr ctr.toNat).setWidth 64)) s

/-- The eight words of a packet at an address. -/
def packetWords (va : Word) : List Nat → Act (List Word)
  | [] => pure []
  | i :: is => do
    let a := va + nw (8 * i)
    let ps ← reachAll .vecLd .read a 8
    let v ← readPieces false a (2 * i) ps
    let r ← packetWords va is
    pure (nw v :: r)

def execLaunch (rd rs1 : Reg) (q : BitVec 4) (s : State) : Res :=
  let va := s.x rs1
  runAct 4 (do
    check (decide (va.toNat % 64 = 0)) .misalignData 0 va
    held
    release 3
    let ws ← packetWords va (List.range 8)
    waitUnless (decide ((← get).queueUsed (64 + q.toNat) < 32))
    modify fun s =>
      let t := s.crew.tenant
      let k := rDQSTAT q.toNat
      let e := s.validate t (64 + q.toNat) ws (decide (s.dqOwner q.toNat = t) && s.tenEn t)
      if e ≠ 0 then (((s.setRegFld k 63 1 1).setRegFld k 48 8 e).setX rd (nw (2 ^ 63 + e)))
      else
        let id := s.nextId
        ((s.setRegFld k 0 32 id).enqueue t s.crew.asid (64 + q.toNat) ws).setX rd (nw id)) s

end Sys2Proof.Machine
end

