-- ==== Sys2Proof/Machine/Convoy.lean ====
section
/-!
DEFINITION. Convoys (06_core R144 to R147; 12_encoding R287, R292; 14_vector R372; 15_matrix_merge_copy R393), and the traps of
undefined encodings and of instruction fetch (R223, R285).
-/
namespace Sys2Proof.Machine

open State

/-! ### Members -/

/-- A permitted member as a vector instruction. -/
def memberOp : Instr → State → Option VOp
  | .vld vd xb e _ ff m, s => some (vldOp vd xb e ff m s)
  | .vlds vd xb xs e _ ff m, s => some (vldsOp vd xb xs e ff m s)
  | .vldx vd xb vi iw _ ff m, s => some (vldxOp vd xb vi iw ff m s)
  | .vldt vd xb e _ t m, s => some (vldtOp vd xb e t m s)
  | .vst vs dst m, s => some (vstOp vs dst m s)
  | .vsts vs xb xs e m, s => some (vstsOp vs xb xs e m s)
  | .vstx vs xb vi iw m, s => some (vstxOp vs xb vi iw m s)
  | .vstt vs xb e m, s => some (vsttOp vs xb e m s)
  | .vadd vd vs2 s1 m, s => some (vaddOp vd vs2 s1 m s)
  | .vsub vd vs2 s1 m, s => some (vsubOp vd vs2 s1 m s)
  | .vrsub vd vs2 s1 m, s => some (vrsubOp vd vs2 s1 m s)
  | .vmul vd vs2 s1 m, s => some (vmulOp vd vs2 s1 m s)
  | .vmulh u vd vs2 s1 m, s => some (vmulhOp u vd vs2 s1 m s)
  | .vdiv u vd vs2 s1 m, s => some (vdivOp u vd vs2 s1 m s)
  | .vrem u vd vs2 s1 m, s => some (vremOp u vd vs2 s1 m s)
  | .vmin u vd vs2 s1 m, s => some (vminOp u vd vs2 s1 m s)
  | .vmax u vd vs2 s1 m, s => some (vmaxOp u vd vs2 s1 m s)
  | .vand vd vs2 s1 m, s => some (vandOp vd vs2 s1 m s)
  | .vor vd vs2 s1 m, s => some (vorOp vd vs2 s1 m s)
  | .vxor vd vs2 s1 m, s => some (vxorOp vd vs2 s1 m s)
  | .vsll vd vs2 s1 m, s => some (vsllOp vd vs2 s1 m s)
  | .vsrl vd vs2 s1 m, s => some (vsrlOp vd vs2 s1 m s)
  | .vsra vd vs2 s1 m, s => some (vsraOp vd vs2 s1 m s)
  | .vsadd u vd vs2 s1 m, s => some (vsaddOp u vd vs2 s1 m s)
  | .vssub u vd vs2 s1 m, s => some (vssubOp u vd vs2 s1 m s)
  | .vnclip u vd vs2 s1 m, s => some (vnclipOp u vd vs2 s1 m s)
  | .vwmul u vd vs2 s1 m, s => some (vwmulOp u vd vs2 s1 m s)
  | .vcmp u cond md vs2 s1 m, s => some (vcmpOp u cond md vs2 s1 m s)
  | .vmerge vd vs2 s1 k, s => some (vmergeOp vd vs2 s1 k s)
  | .vmv vd s1 m, s => some (vmvOp vd s1 m s)
  | .vbcast vd vs2 s1 m, s => some (vbcastOp vd vs2 s1 m s)
  | .vfadd vd vs2 s1 m, s => some (vfaddOp vd vs2 s1 m s)
  | .vfsub vd vs2 s1 m, s => some (vfsubOp vd vs2 s1 m s)
  | .vfmul vd vs2 s1 m, s => some (vfmulOp vd vs2 s1 m s)
  | .vfdiv vd vs2 s1 m, s => some (vfdivOp vd vs2 s1 m s)
  | .vfsqrt vd vs2 m, s => some (vfsqrtOp vd vs2 m s)
  | .vfmin vd vs2 s1 m, s => some (vfminOp vd vs2 s1 m s)
  | .vfmax vd vs2 s1 m, s => some (vfmaxOp vd vs2 s1 m s)
  | .vfsgn inj vd vs2 s1 m, s => some (vfsgnOp inj vd vs2 s1 m s)
  | .vfclass vd vs2 m, s => some (vfclassOp vd vs2 m s)
  | .vfcmp cond md vs2 s1 m, s => some (vfcmpOp cond md vs2 s1 m s)
  | .vfma neg vd vs2 s1 vs3 m, s => some (vfmaOp neg vd vs2 s1 vs3 m s)
  | .vfrec vd vs2 m, s => some (vfrecOp vd vs2 m s)
  | .vfrsq vd vs2 m, s => some (vfrsqOp vd vs2 m s)
  | .vfrecref vd vs2 s1 m, s => some (vfrecrefOp vd vs2 s1 m s)
  | .vfrsqref vd vs2 s1 m, s => some (vfrsqrefOp vd vs2 s1 m s)
  | .vfexp2 vd vs2 m, s => some (vfexp2Op vd vs2 m s)
  | .vflog2 vd vs2 m, s => some (vflog2Op vd vs2 m s)
  | .vfcvt vd vs2 src m, s => some (vfcvtOp vd vs2 src m s)
  | .vfcvti u vd vs2 src m, s => some (vfcvtiOp u vd vs2 src m s)
  | .vicvtf vd vs2 src m, s => some (vicvtfOp vd vs2 src m s)
  | .viext vd vs2 src m, s => some (viextOp vd vs2 src m s)
  | .vredsum f vd vs2 s1 m, s => some (vredsumOp f vd vs2 s1 m s)
  | .vredosum vd vs2 s1 m, s => some (vredosumOp vd vs2 s1 m s)
  | .vredmax f u vd vs2 s1 m, s => some (vredmaxOp f u vd vs2 s1 m s)
  | .vredmin f u vd vs2 s1 m, s => some (vredminOp f u vd vs2 s1 m s)
  | .vredand vd vs2 s1 m, s => some (vredandOp vd vs2 s1 m s)
  | .vredor vd vs2 s1 m, s => some (vredorOp vd vs2 s1 m s)
  | .vmlogic op md ms2 ms1, s => some (vmlogicOp op md ms2 ms1 s)
  | .vpopc rd ms2 m, s => some (vpopcOp rd ms2 m s)
  | .vfirst rd ms2 m, s => some (vfirstOp rd ms2 m s)
  | .viota vd ms2 m, s => some (viotaOp vd ms2 m s)
  | .vslideup vd vs2 s1 m, s => some (vslideupOp vd vs2 s1 m s)
  | .vslidedn vd vs2 s1 m, s => some (vslidednOp vd vs2 s1 m s)
  | .vperm vd vs2 vs1 m, s => some (vpermOp vd vs2 vs1 m s)
  | .vcompress vd vs2 ms1, s => some (vcompressOp vd vs2 ms1 s)
  | .vexpand vd vs2 ms1, s => some (vexpandOp vd vs2 ms1 s)
  | .vmvxs rd vs2 s1, s => some (vmvxsOp rd vs2 s1 s)
  | .vmvsx vd s1, s => some (vmvsxOp vd s1 s)
  | .vnzscan f vd vs2 m, s => some (vnzscanOp f vd vs2 m s)
  | .vtopk f byval vd vi vs2 s1 m, s => some (vtopkOp f byval vd vi vs2 s1 m s)
  | .vsegscan f vd vs2 ms1 m, s => some (vsegscanOp f vd vs2 ms1 m s)
  | .vpivdiv vd vs2 xp m, s => some (vpivdivOp vd vs2 xp m s)
  | .vpivsel f rd vs2 m, s => some (vpivselOp f rd vs2 m s)
  | .vsend rel q vs2, s => some (vsendOp rel q vs2 s)
  | .vrecv acq vd q, s => some (vrecvOp acq vd q s)
  | .mopa acc a b int8 fwd, s => some (mopaOp acc a b int8 fwd s)
  | .mops acc a b int8 fwd, s => some (mopsOp acc a b int8 fwd s)
  | .mzero acc, s => some (mzeroOp acc s)
  | .mtrd vd acc origin m, s => some (mtrdOp vd acc origin m s)
  | .mtwr acc vs origin m, s => some (mtwrOp acc vs origin m s)
  | .mtld acc xb vi t fmt, s => some (mtldOp acc xb vi t fmt s)
  | .mtst acc xb vi t fmt, s => some (mtstOp acc xb vi t fmt s)
  | .mtsend rel t q acc fmt, s => some (mtsendOp rel t q acc fmt s)
  | .mtrecv acq acc q, s => some (mtrecvOp acq acc q s)
  | _, _ => none

/-- Members that stand last: cross-element ones and writers of x registers (R145), and whole matrix members (R393). -/
def lastOnly : Instr → Bool
  | .vredsum .. | .vredosum .. | .vredmax .. | .vredmin .. | .vredand .. | .vredor .. => true
  | .vpopc .. | .vfirst .. | .viota .. => true
  | .vslideup .. | .vslidedn .. | .vperm .. | .vcompress .. | .vexpand .. | .vmvxs .. | .vmvsx .. => true
  | .vnzscan .. | .vtopk .. | .vsegscan .. | .vpivsel .. => true
  | .mopa .. | .mops .. | .mzero .. | .mtld .. | .mtst .. | .mtsend .. | .mtrecv .. => true
  | _ => false

/-- Matrix members, which stand last whole and keep their progress when they trap (R393). -/
def isTileOp : Instr → Bool
  | .mopa .. | .mops .. | .mzero .. | .mtld .. | .mtst .. | .mtsend .. | .mtrecv .. => true
  | _ => false

/-- MTRECV, before which a VRECV member's entry is consumed (R372). -/
def isMtrecv : Instr → Bool
  | .mtrecv .. => true
  | _ => false

/-- Unit codes that a member's class permits (R144). -/
def unitsOf (w : BitVec 64) : Instr → List Nat
  | .vpivdiv .. => [7]
  | .vpivsel .. => [6]
  | .mopa _ (.v _) (.v _) _ _ | .mops _ (.v _) (.v _) _ _ => [8]
  | _ =>
    match fld w 2 6 with
    | 0x01 => [1] | 0x02 => [2] | 0x03 => [3, 4] | 0x04 => [3, 4, 5] | 0x05 => [5] | 0x06 => [7] | 0x07 => [3, 4]
    | 0x08 => [6] | 0x09 => [3, 4] | 0x0A => [6] | 0x0B => [6] | 0x0E => [9] | 0x12 => [8] | _ => []

/-- A decoded member: its number, first parcel, unit code and word. -/
structure Member where
  ix   : Nat
  word : BitVec 64
  unit : Nat
  ins  : Instr
  deriving DecidableEq, Repr

/-- A member's first parcel. -/
def memberParcel (w : BitVec 64) : Parcel := w.extractLsb' 0 32

/-- Unit code of a header's slot (R287). -/
def slotUnit (h : Parcel) (i : Nat) : Nat := fld (h.setWidth 64) (5 + 4 * i) 4

/-- A header's own fields and the kinds of its members (R287, R145). -/
def headerOk (h : Parcel) (ws : List (BitVec 64)) : Bool :=
  let n := convoyCount h
  decide (fld (h.setWidth 64) 29 3 = 0) && decide (2 ≤ n) && decide (n ≤ 6) && decide (ws.length = n)
  && (List.range 6).all (fun i => let u := slotUnit h i; if i < n then decide (1 ≤ u) && decide (u ≤ 9) else decide (u = 0))
  && ws.all fun w => decide (fld w 0 2 = 3)

/-- Decode the members in order; the first that no form defines is answered. -/
def decodeMembers (h : Parcel) : List (BitVec 64) → Nat → Except (BitVec 64) (List Member)
  | [], _ => .ok []
  | w :: ws, i =>
    match decode64 w with
    | .error _ => .error w
    | .ok ins =>
      match decodeMembers h ws (i + 1) with
      | .ok r => .ok ({ ix := i, word := w, unit := slotUnit h i, ins } :: r)
      | .error e => .error e

/-- Units are distinct and permitted; no member writes what an earlier one reads; only the last stands last (R144, R145). -/
def membersOk (s : State) : List Member → List Nat → List (Nat × Nat) → List Nat → Bool
  | [], _, _, _ => true
  | m :: ms, used, vread, mread =>
    match memberOp m.ins s with
    | none => false
    | some o =>
      !used.contains m.unit && (unitsOf m.word m.ins).contains m.unit
      && o.writes.all (fun g => vread.all fun r => !s.groupsMeet g r) && o.mwrites.all (fun r => !mread.contains r)
      && (!lastOnly m.ins || ms.isEmpty)
      && membersOk s ms (m.unit :: used) (o.reads ++ vread) (o.mreads ++ mread)

/-! ### The checks of all members (R224, R292, R393) -/

/-- The hart as a member sees it: its own first parcel for TVAL, the convoy's bound, and VSTART. -/
def asMember (m : Member) (bound : Option Nat) (v : Nat) (s : State) : State :=
  (s.onHart fun h => { h with conv := some m.ix, ir := memberParcel m.word, limit := bound }).setVstart v

/-- A member breaks no limit and no state condition (R292 steps 6 and 7). -/
def VOp.legal (o : VOp) (s : State) : Bool :=
  match (o.checkLimits >>= fun _ => o.checkStates true) s with
  | .ok _ => true
  | .error _ => false

/-- Run a step of every member in order. -/
def eachMember (a : VOp → Act Unit) (v : Nat) : List Member → State → Except Exit State
  | [], s => .ok s
  | m :: ms, s =>
    let s' := asMember m none v s
    match memberOp m.ins s' with
    | none => .ok s
    | some o =>
      match a o s' with
      | .ok (_, t) => eachMember a v ms t
      | .error e => .error e

/-- Order of the operand-state causes (R224 step 5). -/
def causeRank : Cause → Nat
  | .accDisabled => 0 | .streamUnconfig => 1 | .queueUnbound => 2 | .linkDown => 3 | .barrierScope => 4 | .streamUnderrun => 5
  | .shapeMismatch => 6 | _ => 7

/-- The operand-state cause reported: the first in R224's order, then the earliest member's. A member that breaks a
limit or a state condition is passed over: that trap is reported when the member is reached (R147; log 52). -/
def worstOperand (v : Nat) : List Member → State → Option (Nat × Exit)
  | [], _ => none
  | m :: ms, s =>
    let s' := asMember m none v s
    match memberOp m.ins s' with
    | none => none
    | some o =>
      if !o.legal s' then worstOperand v ms s
      else
      match o.checkOperands s' with
      | .ok (_, t) => worstOperand v ms (t.consume o.port s.nElems)
      | .error e =>
        let k := match e with | .trap _ c _ _ => causeRank c | _ => 7
        match worstOperand v ms s with
        | some (k', e') => if k' < k then some (k', e') else some (k, e)
        | none => some (k, e)

/-! ### Element groups (R146, R147) -/

/-- The widest element any member touches, in bytes. -/
def widest (s : State) (ms : List Member) : Nat :=
  ms.foldl (fun w m => match memberOp m.ins s with | some o => (o.reads ++ o.writes).foldl (fun w g => Nat.max w g.2) w | none => w) s.ebytes

/-- One member, from VSTART `v` to a bound; with no element left it does nothing (R306), but that a stream it names
delivers or takes the elements of this execution again (R150, R340, R373). -/
def runMember (v b : Nat) (m : Member) (s : State) : Except Exit State :=
  let s' := asMember m (some b) v s
  match memberOp m.ins s' with
  | none => .ok s
  | some o =>
    if s.nElems ≤ v ∧ (s.nElems = 0 ∨ (o.port = none ∧ o.appends = false)) then .ok s
    else
      match o.body s' with
      | .ok (_, t) => .ok t
      | .error e => .error e

/-- Every member in order, up to a bound. -/
def runGroup (v b : Nat) : List Member → State → Except Exit State
  | [], s => .ok s
  | m :: ms, s =>
    match runMember v b m s with
    | .ok t => runGroup v b ms t
    | .error e => .error e

/-- What the members together do: they reach the bound, perhaps with the fault at which it stands; or one of them waits. -/
inductive Joint where
  | reached (b : Nat) (t : State) (e : Option Exit)
  | held (e : Exit)

/-- The lowest fault: members run to a bound, which each fault found lowers to its element (R224). -/
def joint (ms : List Member) (s : State) (v : Nat) : Nat → Nat → Option Exit → Joint
  | 0, b, x => .reached b s x
  | k + 1, b, x =>
    match runGroup v b ms s with
    | .ok t => .reached b t x
    | .error e =>
      match e with
      | .trap t .. => joint ms s v k (Nat.min b t.vstart) (some e)
      | .host t .. => joint ms s v k (Nat.min b t.vstart) (some e)
      | e => .held e

/-- The state after a convoy stops at an element: committed below it, at the header, its streams at their first elements
(R150). -/
def atHeader (s : State) (b : Nat) (t : State) : State :=
  (t.onHart fun h => { h with
    conv := none, ir := s.hart.ir, limit := s.hart.limit
    ds := Vector.ofFn fun i => { h.ds[i] with st := s.hart.ds[i].st, pos := s.hart.ds[i].pos, buf := s.hart.ds[i].buf, pend := s.hart.ds[i].pend } }).setVstart b

/-- What an exit leaves beside its trap: refusals logged, copy faults reported, and the record of a matrix member (R223,
R393). -/
def keepLogs (e : State) (t : State) : State :=
  { t with drops := e.drops, dropLost := e.dropLost
           hart := { t.hart with cp := e.hart.cp, csr := { t.hart.csr with mstart := e.hart.csr.mstart } } }

/-- An exit taken at another state. -/
def Exit.at_ (t : State) : Exit → Exit
  | .trap s c sub v => .trap (keepLogs s t) c sub v
  | .host s k a v => .host (keepLogs s t) k a v
  | .wait s => .wait { t with hart := { t.hart with cp := s.hart.cp } }
  | .ask _ k o => .ask t k o

/-- The convoy has begun and the hart goes on with it at `n` parcels from its program counter: the lane group is not
given to another hart until it is done (R95). -/
def State.keepConvoy (s : State) (n : Nat) : State :=
  s.onCrew fun c => { c with convoy := some (s.hart.idx, s.hart.pc, s.hart.pc + nw (4 * (n - 1))) }

/-- The hart's convoy has ended. -/
def State.dropConvoy (s : State) : State :=
  s.onCrew fun c => { c with convoy := c.convoy.filter fun v => decide (v.1 ≠ s.hart.idx) }

/-- A hart is executing the convoy that holds the lane group. -/
def inConvoy (h : Hart) (v : Nat × Word × Word) : Bool := decide (v.1 = h.idx ∧ v.2.1 ≤ h.pc ∧ h.pc ≤ v.2.2)

/-- How a convoy ends early, from a state `t` it reaches, `s` being the one it began with: a trap waits for everything
older (R136). -/
def endConvoy (s t : State) (e : Exit) : Res :=
  match e.at_ t with
  | .trap t c sub v => .next ((Exit.trap t.dropConvoy c sub v).inOrder s).state
  | .host t k a v => .next ((Exit.host t.dropConvoy k a v).inOrder s).state
  | e => .next e.state

/-- The convoy retires, each member counted (R297). -/
def retireConvoy (n : Nat) (s : State) : State :=
  { s with hart := { s.hart with
      pc := s.hart.pc + nw (4 + 8 * n), asked := [], answers := []
      csr := { s.hart.csr with instret := s.hart.csr.instret + nw n } } }

/-! ### Serial mode (R146) -/

/-- The span of a load's or a store's element addresses from VSTART on; a member that breaks a limit has none. -/
def spanOf (o : VOp) (s : State) : Option (Bool × Nat × Nat) :=
  match o.mem, o.checkLimits s with
  | none, _ | _, .error _ => none
  | some (st, w, addr), .ok _ =>
    let as := (upFrom s.vstart (s.nElems - s.vstart)).filterMap fun i => match addr i s with | .ok (a, _) => some a.toNat | .error _ => none
    match as with
    | [] => none
    | a :: r => some (st, r.foldl Nat.min a, r.foldl Nat.max a + w)

/-- Whether a store member's range meets a load member's. -/
def serial (s : State) (ms : List Member) : Bool :=
  let spans := ms.filterMap fun m => match memberOp m.ins s with | some o => spanOf o s | none => none
  spans.any fun a => a.1 && spans.any fun b => !b.1 && decide (a.2.1 < b.2.2) && decide (b.2.1 < a.2.2)

/-! ### The convoy -/

/-- The members that go by element groups, and the last one where it runs alone. -/
def splitLast (ms : List Member) : List Member × Option Member :=
  (ms.filter fun m => !lastOnly m.ins, ms.find? fun m => lastOnly m.ins)

/-- Everything after every element is committed: releases, the last member, and the queue members' effects (R147, R372,
R393). A last member that traps leaves nothing of what it did, but for a matrix member's progress; that one takes the
pre-emption points it takes alone (R99, R264, R393). -/
def convoyEnd (s t : State) (n count : Nat) (ms : List Member) (last : Option Member) : Res :=
  let done := (atHeader s n t).keepConvoy 1
  let waiting (e : Exit) : Res := endConvoy s done e
  let finish (ms : List Member) (t : State) : Except Exit State := eachMember (·.finish) 0 ms t
  let close (t : State) : Res :=
    .next (retireConvoy count (((t.onHart fun h => { h with conv := none, limit := s.hart.limit })).setVstart 0)).dropConvoy
  match eachMember (·.settle) n ms t with
  | .error e => waiting e
  | .ok t =>
    match last with
    | none =>
      match finish (if s.nElems = 0 then [] else ms) t with
      | .ok t => close t
      | .error e => waiting e
    | some m =>
      let ms := if s.nElems = 0 then [] else ms
      let early := isMtrecv m.ins
      let stop := if isTileOp m.ins then s.hart.limit else none
      match finish (if early then ms.filter fun q => decide (fld q.word 42 6 = 1) else []) t with
      | .error e => waiting e
      | .ok t =>
        let t' := asMember m stop 0 t
        match memberOp m.ins t' with
        | none => .next s
        | some o =>
          match (o.checkLimits >>= fun _ => o.checkStates true >>= fun _ => o.run) t' with
          | .ok (true, t) =>
            match finish (if early then ms.filter fun q => decide (fld q.word 42 6 ≠ 1) else ms) t with
            | .ok t => close t
            | .error e => waiting e
          | .ok (false, t) => .next ((atHeader s n t).keepConvoy 1)
          | .error e =>
            match e with
            | .trap t' .. | .host t' .. => endConvoy s (if isTileOp m.ins && !early then atHeader s n t' else done) e
            | e => waiting e

/-- CONVOY: a header and its members. -/
def execConvoy (header : Parcel) (members : List (BitVec 64)) (s : State) : Res :=
  let stop (e : Exit) : Res := endConvoy s s e
  let trap (c : Cause) (sub : Nat) (v : Parcel) : Res := stop (.trap s c sub (v.setWidth 64))
  if !headerOk header members then trap .illegalConvoy 0 header
  else
    match decodeMembers header members 0 with
    | .error w => trap .illegal 0 (memberParcel w)
    | .ok ms =>
      if !membersOk s ms [] [] [] then trap .illegalConvoy 0 header
      else
        let v := s.vstart
        let n := s.nElems
        match eachMember (·.resync) v ms s with
        | .error e => stop e
        | .ok _ =>
        let (es, last) := splitLast ms
        let alone := decide (n ≤ s.mvl) && serial s ms
        -- in serial mode each member makes its own checks when it runs (log 52)
        match eachMember (fun o => o.checkLimits) v (if alone then [] else es) s with
        | .error e => stop e
        | .ok _ =>
        match eachMember (fun o => o.checkStates false) v (if alone then [] else es) s with
        | .error e => stop e
        | .ok _ =>
        match worstOperand v ms s with
        | some (_, e) => stop e
        | none =>
        if alone then .next (({ s with hart := { s.hart with pc := s.hart.pc + 4 } } : State).keepConvoy (2 * members.length))
        else
          match (if n = 0 then .ok s else eachMember (·.before) v es s) with
          | .error e => stop e
          | .ok t =>
            -- a credit that a VSEND member has taken stays with its endpoint
            let s := { s with crew := t.crew }
            let e := s.groupE (widest s ms)
            let b := match s.hart.limit with | some b => if v < b ∧ b < n ∧ b % e = 0 then b else n | none => n
            match joint es s v (es.length + 1) b none with
            | .held x => endConvoy s s x
            | .reached b t none => if b < n then .next ((atHeader s b t).keepConvoy 1) else convoyEnd s t n members.length es last
            | .reached b _ (some x) =>
              let k := Nat.max (b / e * e) v
              match runGroup v k es s with
              | .ok t => endConvoy s (atHeader s k t) x
              | .error x => endConvoy s s x

/-! ### Undefined encodings and instruction fetch (R223, R285, R292) -/

/-- An undefined encoding: ILLEGAL, SUB 0, with its first parcel, once everything older has completed (R136). -/
def execUndefinedEncoding (parcel : Parcel) (s : State) : Res :=
  whenQuiet s (s.takeTrap .illegal 0 (parcel.setWidth 64) s.hart.pc false)

/-- An instruction fetch that faults at an address: refused, a translation fault of a kind, a retired page or poison. -/
def execFetchFault (va : Word) (sub : BitVec 4) (s : State) : Res :=
  whenQuiet s (if sub = 0 then s.takeTrap .fetchFault 0 va s.hart.pc false
    else if sub = 5 then s.takeTrap .poison 0 va s.hart.pc false
    else s.translationFault sub.toNat 2 va)

end Sys2Proof.Machine
end

