-- ==== Sys2Proof/Machine/Power.lean ====
section
/-!
DEFINITION. Power-on, power-off, trips, the class record, secure boot, measurements, mailbox commands, attestation and the dump
(01_package R14 to R21, 03_host_launch R59, R72 to R80).
-/
namespace Sys2Proof.Machine

open State

/-! ### Octet strings -/

/-- The octets of a digest, the most significant first. -/
def digestOctets (d : BitVec 512) : List Byte := (List.range 64).map fun i => BitVec.ofNat 8 (d.toNat / 2 ^ (8 * (63 - i)))

/-- Bytes [at + n − 1 : at] of an octet string. -/
def octets (bs : List Byte) (at_ n : Nat) : List Byte := (bs.drop at_).take n

/-! ### The class record (R15) -/

/-- A copy of the class record is valid. -/
def classValid (r : List Byte) : Bool :=
  let f (at_ n : Nat) : Nat := ofBytesLE (octets r at_ n)
  decide (r.length = 64) && decide (f 0 4 = 0x4C43584A) && decide (f 4 1 = 1) && (decide (f 5 1 = 1) || decide (f 5 1 = 2))
  && decide (f 6 2 = 0) && decide (f 16 44 = 0) && decide (f 60 4 = crc32c (r.take 60))

def classSeq (r : List Byte) : Nat := ofBytesLE (octets r 12 4)

/-- SEQ `a` is `b` or later, modulo 2^32 as R66 compares counters. -/
def seqReaches (a b : Nat) : Bool := decide ((a + 2 ^ 32 - b % 2 ^ 32) % 2 ^ 32 < 2 ^ 31)

/-- The valid copy with the later SEQ, true for the second copy: the copy in force when step 3 reads it, the newest one when
READCLASS does. Of two valid copies with equal SEQ the first is taken, and where the SEQs lie 2^31 apart, so that neither is
later, the second: DESIGN CHOICE (log 62). -/
def State.classInForce (s : State) : Option Bool :=
  match classValid s.pkg.classA, classValid s.pkg.classB with
  | true, true => some (!seqReaches (classSeq s.pkg.classA) (classSeq s.pkg.classB))
  | true, false => some false
  | false, true => some true
  | false, false => none

def State.classCopy (s : State) (b : Bool) : List Byte := if b then s.pkg.classB else s.pkg.classA

/-- The record with another SEQ and its CRC. -/
def classWith (r : List Byte) (seq : Nat) : List Byte :=
  let body := (r.take 12) ++ bytesLE 4 seq ++ (octets r 16 44)
  body ++ bytesLE 4 (crc32c body)

/-! ### Firmware images (R72, R73) -/

/-- The boot ROM accepts an image. -/
def imageOk (img : List Byte) (svnMin : Nat) : Bool :=
  let f (at_ n : Nat) : Nat := ofBytesLE (octets img at_ n)
  let slot := f 6 2
  let body := octets img 512 (f 16 8)
  decide (f 0 4 = 0x3445584A) && decide (f 4 2 = 1) && decide (f 12 4 = 0) && decide (f 24 8 = 0) && decide (f 229 3 = 0)
  && decide (f 364 148 = 0) && decide (slot ≤ 3) && !Config.keyRevoked slot
  && decide (Config.sha512 (octets img 96 133) = Config.keyDigest slot) && decide (svnMin ≤ f 8 4)
  && decide (f 16 8 ≤ 0x1000000) && decide (body.length = f 16 8)
  && decide (digestOctets (Config.sha512 body) = octets img 32 64)
  && Config.p521Verify (octets img 96 133) (octets img 232 132) (Config.sha512 (img.take 232))

/-- The copy that boots, A before B, true for B. -/
def State.bootImage (s : State) : Option Bool :=
  if imageOk (Config.flashImage false) s.pkg.svnMin then some false
  else if imageOk (Config.flashImage true) s.pkg.svnMin then some true
  else none

/-- SVN of an image. -/
def imageSvn (img : List Byte) : Nat := ofBytesLE (octets img 8 4)

namespace State

/-! ### Measurements (R74) -/

def meas (s : State) (k : Nat) : BitVec 512 := FMap.getD 0 k s.pkg.meas

/-- Extend register `k` with a component. -/
def extendMeas (s : State) (k : Nat) (c : List Byte) : State :=
  let v := Config.sha512 (digestOctets (s.meas k) ++ digestOctets (Config.sha512 c))
  { s with pkg := { s.pkg with meas := FMap.setD 0 k v s.pkg.meas } }

/-! ### Resets -/

/-- Everything but the management controller's own state returns to its reset value; registers that satisfy a test stay. -/
def coreReset (s : State) (keep : Nat → Bool) : State :=
  { State.reset with
    time := s.time, moves := s.moves, input := s.input, freeCtr := s.freeCtr, out := s.out, nextUid := s.nextUid
    nextTag := s.nextTag, bpl := s.bpl, bplBusy := s.bplBusy, bplTemp := s.bplTemp, pkg := s.pkg
    regs := FMap.keep keep s.regs }

/-- Registers the management controller keeps on VAUX (R21, R56, R111). -/
def onVaux (k : Nat) : Bool :=
  [rMCSTAT, rPWRSTAT, rDUMPSTAT, rMBSTAT, rDEVENERGY].contains k || inArr k (rTSENS 0) 8 72 || inArr k rMBDATA 8 512

/-! ### Rails (R11, R16, R18 to R20). A rail of index i is bit i of a mask. -/

/-- Drive the VR_EN pins. -/
def drive (s : State) (en : Nat) : State := ({ s with pkg := { s.pkg with vrEn := en } } : State).emit (.rails en)

/-- The rails in the order in which power-off removes them, the reverse of R16: VCORE1, VCORE0, VDRAMQ, VDRAMC, VUNC1, VUNC0,
VLINK, VAUX. -/
def offOrder : List Nat := [7, 6, 4, 5, 2, 1, 3, 0]

/-- Drop the rails that are enabled, all but VAUX, one after the other in reverse order (R18). -/
def dropRails (s : State) : State :=
  offOrder.foldl (fun (s : State) i => if i ≠ 0 ∧ s.pkg.vrEn.testBit i then s.drive (s.pkg.vrEn - 2 ^ i) else s) s

/-- Without the rails crews, memory and fabric state are gone, and a dump that was being written stays unwritten (R20,
R78). -/
def lightsOut (s : State) : State :=
  let s := s.coreReset onVaux
  (({ s with pkg := { s.pkg with up := false, linkUp := false, step7 := none, dumpCrews := [], dumpHarts := [] } } : State).setRegFld
    rDUMPSTAT 62 1 0).setMcstat 63 1 0

/-- A thermal trip (R20, R128): every rail but VAUX drops at once, THERMTRIP_N stays asserted until VAUX is cycled. -/
def tripDevice (s : State) : State :=
  if !s.pkg.vaux then s
  else
    let s := s.lightsOut.drive 1
    let s : State := { s with pkg := { s.pkg with trip := true, stopped := true, vrPg := 1 } }
    s.setMcstat 40 8 4

/-- Reset of the physical function: the device as power-on step 8 leaves it (R59, R80, R238). MCSTAT and DEVENERGY stay (R56,
R111), and of MEMSTAT what training and the bad-page list made it; every other register takes its reset value. Memory keeps
its contents (log 14). -/
def resetPf (s : State) : State :=
  let t := s.coreReset fun k => decide (k = rMCSTAT) || decide (k = rDEVENERGY) || decide (k = rMEMSTAT)
  let t : State := { t with
    mem := s.mem, pois := s.pois
    pkg := { s.pkg with fatal := false, mb := none, dumpCrews := [], dumpHarts := [], held := [] } }
  let t := ((t.setRegFld rPWRSTAT 48 1 (b2n s.pkg.w65)).setRegFld rPWRSTAT 49 1 (b2n (decide (s.classCeiling = 14))))
  (t.setMcstat 56 1 0).setRegFld rSCHCFG 63 1 1

/-! ### Power-on (R16 to R18) -/

/-- VAUX reaches regulation. -/
def vauxRise (s : State) : State :=
  if s.pkg.vaux then s
  else
    let p : Pkg := { Pkg.reset with
      vaux := true, step := 1, vrEn := 1, vrPg := 1, perst := s.pkg.perst, svnMin := s.pkg.svnMin, classA := s.pkg.classA
      classB := s.pkg.classB, dumpSeq := s.pkg.dumpSeq }
    let t := s.coreReset fun _ => false
    let t : State := { t with time := 0, pkg := p, bplBusy := none }
    (t.setMcstat 48 4 1).extendMeas 0 Config.romVersion

/-- Step 8: scheduler and launch ports enabled, READY asserted; a missing class record raises vector 2 (R14, R58; log 67). -/
def step8 (s : State) : State :=
  let s : State := { s with pkg := { s.pkg with up := true, step := 8 } }
  let s := ((s.setMcstat 48 4 8).setMcstat 63 1 1).setRegFld rSCHCFG 63 1 1
  if s.mcstat 61 1 = 1 then s.msix 0 2 else s

/-- The rails of a step, in the order in which it enables them: VLINK, then VUNC0 and VUNC1; VDRAMC, then VDRAMQ;
VCORE0, then VCORE1. -/
def stepRails : Nat → List Nat
  | 3 => [0x08, 0x06]
  | 4 => [0x20, 0x10]
  | 5 => [0x40, 0x80]
  | _ => []

/-- The limit of the step in progress has passed (R16). Those of steps 1, 2 and 6 count from VAUX's regulation, when
`time` is 0; that of a rail in steps 3 to 5 from its enabling (log 67). Step 7's stops nothing; that of step 8 is
`overTotal`. -/
def overLimit (s : State) : Bool :=
  match s.pkg.step with
  | 1 => decide (5000 < s.time)
  | 2 => decide (60000 < s.time)
  | 3 | 4 | 5 => decide (s.pkg.stepAt + 10000 < s.time)
  | 6 => decide (400000 < s.time)
  | _ => false

/-- Step 8 is later than 900 ms after VAUX's regulation and after the deassertion of PERST_N (R16, R17). -/
def overTotal (s : State) : Bool := decide ((if s.pkg.perst then 0 else s.pkg.perstAt) + 900000 < s.time)

/-- Enable rails. VCORE0 and VCORE1 come up at step 5 with no voltage commanded, since R16 names no operating point to
boot at: the model's choice (log 67). -/
def enable (s : State) (rails : Nat) : State :=
  ({ s with pkg := { s.pkg with stepAt := s.time } } : State).drive (s.pkg.vrEn ||| rails)

/-- Begin a power-on step, with the first rails it enables. -/
def beginStep (s : State) (n : Nat) : State :=
  let s : State := { s with pkg := { s.pkg with step := n, stepAt := s.time } }
  let s := s.setMcstat 48 4 n
  match stepRails n with
  | r :: _ => s.enable r
  | [] => s

/-- What step 3 reads: the class record (R14, R15). MEAS2 is extended once, with the fuses and the record, or with the
fuses alone (R74; log 74). -/
def readClass (s : State) : State :=
  let used := s.classInForce
  let rec_ := match used with
    | some b => s.classCopy b
    | none => []
  let w65 := decide (ofBytesLE (octets rec_ 5 1) = 2)
  let s : State := { s with pkg := { s.pkg with w65, inForce := used } }
  let s := (s.setMcstat 61 1 (b2n used.isNone)).setMcstat 60 1 (b2n w65)
  let s := (s.setRegFld rPWRSTAT 48 1 (b2n w65)).setRegFld rPWRSTAT 49 1 (b2n (decide (s.classCeiling = 14)))
  s.extendMeas 2 (Config.fuseRecord ++ rec_)

/-- Step 6 has passed: MEMSTAT and STACKLOST (R165). -/
def trained (s : State) (lost : Nat) : State :=
  let deg := decide (lost ≠ 0)
  let m := BitVec.ofNat 64 ((255 - lost) * 2 ^ 56 + b2n deg * 2 ^ 55 + (if deg then 344064 else 393216))
  (s.setReg rMEMSTAT m).setMcstat 32 8 lost

/-- Whether all of some rails are good. -/
def pgAll (pg rails : Nat) : Bool := decide (pg &&& rails = rails)

/-- The temperatures of all eight stacks have been read as VALID (R16, R122). -/
def stacksValid (s : State) : Bool :=
  decide (0 < s.gov.sample) && (List.range 8).all fun k => decide (fld (s.reg (rTSENS (64 + k))) 62 2 = 0)

/-- The boot ROM boots an image (R73 to R75): it is measured, and the alias key pair is derived. -/
def boot (s : State) (b : Bool) : State :=
  let img := Config.flashImage b
  let t := ((s.setMcstat 59 1 (b2n b)).setMcstat 0 32 (imageSvn img)).extendMeas 1 (img.take (512 + ofBytesLE (octets img 16 8)))
  { t with pkg := { t.pkg with aliasKey := Config.aliasKey Config.identityKey (t.meas 1) } }

/-- Stacks lost to training: none, or one (R18). -/
def lostCount (lost : Nat) : Nat := ((List.range 8).filter fun i => lost.testBit i).length

/-- Power-on stops (R18): the rails already enabled drop in reverse order, FAULT_N is asserted, step and cause recorded. -/
def stopPower (s : State) (cause lost : Nat) : State :=
  let t := s.dropRails.lightsOut
  let t : State := { t with pkg := { t.pkg with stopped := true, vrPg := 1 } }
  let t := ((t.setMcstat 48 4 s.pkg.step).setMcstat 40 8 cause).setMcstat 62 1 1
  if s.pkg.step = 6 then t.setMcstat 32 8 lost else t

/-- Step 8's limit is exceeded. -/
def stop8 (s : State) : State := ({ s with pkg := { s.pkg with step := 8 } } : State).stopPower 1 0

/-- What follows once the rails enabled are good: the step's next rails, or the next step. -/
def railStep (s : State) (ready : Bool) : State :=
  if !pgAll s.pkg.vrPg s.pkg.vrEn then s
  else
    match (stepRails s.pkg.step).find? (fun r => !pgAll s.pkg.vrEn r) with
    | some r => s.enable r
    | none => if ready then s.beginStep (s.pkg.step + 1) else s

/-- Training has passed, but for one stack at most. -/
def step6Done (s : State) (lost : Nat) : State :=
  let t := (s.trained lost).beginStep 7
  { t with pkg := { t.pkg with step7 := if t.pkg.perst then none else some t.time } }

/-- The condition of the step in progress holds, and the next rails or the next step follow (R16). -/
def powerStep (s : State) (pg lost : Nat) : State :=
  if !s.pkg.vaux ∨ s.pkg.stopped ∨ s.pkg.off ∨ s.pkg.up then s
  else if s.overLimit then s.stopPower 1 lost
  else
    let t : State := { s with pkg := { s.pkg with vrPg := pg } }
    match s.pkg.step with
    | 1 => t.beginStep 2
    | 2 =>
      match s.bootImage with
      | none => s
      | some b => ((t.boot b).beginStep 3).readClass
    | 3 => t.railStep true
    | 4 => t.railStep s.stacksValid
    | 5 => t.railStep true
    | 6 => if lostCount lost < 2 then t.step6Done lost else s
    | 7 =>
      let late := match s.pkg.step7 with
        | some b => decide (b + 100000 ≤ s.time)
        | none => true
      if s.overTotal then s.stop8
      else if s.pkg.linkUp || s.pkg.perst || late then
        let t := t.step8
        if !s.pkg.linkUp && !s.pkg.perst then t.setMcstat 58 1 1 else t
      else s
    | _ => s

/-- A step's limit is exceeded, the signature fails, or training fails on two stacks or more: power-on stops (R18). Training
that fails on one stack is no stop: the device comes up without it. -/
def powerStop (s : State) (lost : Nat) : State :=
  if !s.pkg.vaux ∨ s.pkg.stopped ∨ s.pkg.off ∨ s.pkg.up then s
  else if s.pkg.step = 2 ∧ s.bootImage = none then s.stopPower 2 lost
  else if s.pkg.step = 6 ∧ 2 ≤ lostCount lost then s.stopPower 3 lost
  else if s.pkg.step = 6 ∧ lostCount lost = 1 then s.step6Done lost
  else if s.overLimit then s.stopPower 1 lost
  else if s.pkg.step = 7 ∧ s.overTotal then s.stop8
  else s

/-- PERST_N is deasserted: step 7 begins once step 6 is complete (R17). -/
def perstOff (s : State) : State :=
  let s : State := { s with pkg := { s.pkg with perst := false, perstAt := if s.pkg.perst then s.time else s.pkg.perstAt } }
  if 7 ≤ s.pkg.step ∧ !s.pkg.stopped ∧ !s.pkg.off ∧ s.pkg.step7 = none then { s with pkg := { s.pkg with step7 := some s.time } } else s

/-- PERST_N is asserted: the host link is held off. -/
def perstOn (s : State) : State := { s with pkg := { s.pkg with perst := true, linkUp := false, step7 := none } }

/-- The PCI Express link trains; LINKFAIL clears. -/
def linkTrained (s : State) : State :=
  if s.pkg.step7.isSome && !s.pkg.perst && !s.pkg.stopped && !s.pkg.off then
    ({ s with pkg := { s.pkg with linkUp := true } } : State).setMcstat 58 1 0
  else s

/-- 100 ms have passed since step 7 began and the link has not trained. -/
def linkTimeout (s : State) : State :=
  match s.pkg.step7 with
  | none => s
  | some b =>
    if s.pkg.linkUp ∨ s.time < b + 100000 ∨ s.pkg.stopped ∨ s.pkg.off then s
    else if !s.pkg.up ∧ s.overTotal then s.stop8
    else
      let s := if s.pkg.up then s else s.step8
      s.setMcstat 58 1 1

/-- BAR4's size in GiB (R55). -/
def bar4Gib (s : State) (fn : Nat) : Nat := 2 ^ FMap.getD 0 fn s.bar4Size

/-- What configuration space says of a function (R53, R55): vendor, device and revision, and the capabilities. SR-IOV
and DOE are the physical function's (R76). -/
def configSpace (s : State) (fn : Nat) : ConfigAnswer :=
  .space 0x1F3D (if fn = 0 then 0x0940 else 0x0941) Config.stepping.toNat
    ([.msix, .resizableBar (s.bar4Gib fn), .aer, .flr] ++ (if fn = 0 then [.sriov, .doe] else []))

/-- A configuration request arrives: Retry Status until step 8 completes (R17); then the function answers, and a write of its
Resizable BAR control has sized BAR4. -/
def configRequest (s : State) (fn : Nat) (size : Option (BitVec 4)) : State :=
  if !s.pkg.linkUp ∨ 16 ≤ fn then s
  else if !s.pkg.up then s.emit (.config fn .retry)
  else
    let s : State := match size with
      | some z => if z.toNat ≤ 9 then { s with bar4Size := FMap.setD 0 fn z.toNat s.bar4Size } else s
      | none => s
    s.emit (.config fn (s.configSpace fn))

/-- VAUX is gone. Flash and fuses keep what they hold; bad-page entries that flash does not hold are gone (R190). -/
def vauxOff (s : State) : State :=
  let t := s.coreReset fun _ => false
  { t with
    bpl := s.bpl.filter fun e => !(s.bplTemp.contains e || decide (s.bplBusy = some e)), bplTemp := [], bplBusy := none
    pkg := { Pkg.reset with perst := s.pkg.perst, svnMin := s.pkg.svnMin, classA := s.pkg.classA, classB := s.pkg.classB
                            dumpSeq := s.pkg.dumpSeq } }

/-- Power-off (R19): the next rail in reverse order goes down once the power-good of every rail removed before it has fallen,
VAUX last. The first call stops the device. -/
def powerOff (s : State) (pg : Nat) : State :=
  if !s.pkg.vaux then s
  else
    let s : State := if s.pkg.off then s else s.lightsOut
    let s : State := { s with pkg := { s.pkg with off := true, vrPg := pg } }
    if pg ||| s.pkg.vrEn ≠ s.pkg.vrEn then s
    else
      match offOrder.find? (fun i => s.pkg.vrEn.testBit i) with
      | some (i + 1) => s.drive (s.pkg.vrEn - 2 ^ (i + 1))
      | _ => (s.drive 0).vauxOff

/-! ### The adjustable rails (R11) -/

/-- The range of an adjustable rail in mV, by rail select: VCORE0, VCORE1, VUNC0, VUNC1. -/
def voltRange (select : Nat) : Nat × Nat := if select < 2 then (600, 950) else (700, 900)

/-- A command on the AVSBus: the device sets a rail's voltage within its range, reads its status or sets its power mode. -/
def avs (s : State) (select : Nat) (c : AvsCmd) : State :=
  if h : select < 4 then
    if !s.pkg.vaux then s
    else
      match c with
      | .voltage mv =>
        let r := voltRange select
        if r.1 ≤ mv ∧ mv ≤ r.2 then
          ({ s with pkg := { s.pkg with volts := s.pkg.volts.set select (some mv) } } : State).emit (.avs select c)
        else s
      | _ => s.emit (.avs select c)
  else s

/-- A regulator's alert: the AVSBus status of every adjustable rail is read and the alert recorded (R11, R56). -/
def vrAlert (s : State) : State :=
  if s.pkg.vaux then [0, 1, 2, 3].foldl (fun (s : State) k => s.avs k .status) (s.setMcstat 57 1 1) else s

/-- Firmware extends MEAS3 with the system-mode runtime that the host installs (R74): the device is up. -/
def installRuntime (s : State) (c : List Byte) : State := if s.pkg.up then s.extendMeas 3 c else s

/-! ### Mailbox commands (R77) -/

/-- The first `n` bytes of MBDATA. -/
def mbBytes (s : State) (n : Nat) : List Byte :=
  ((List.range 512).flatMap fun i => bytesLE 8 (s.reg (rMBDATA + 8 * i)).toNat).take n

/-- Write the first 64 bytes of MBDATA. -/
def setMbBytes (s : State) (bs : List Byte) : State :=
  (List.range 8).foldl (fun s i => s.setReg (rMBDATA + 8 * i) (BitVec.ofNat 64 (ofBytesLE (octets bs (8 * i) 8)))) s

/-- The certificate chain of slot 0 (R75): root, device identity certificate, and the alias certificate of this boot. -/
def certChain (s : State) : List Byte := Config.certBase ++ Config.certify Config.identityKey s.pkg.aliasKey

/-- Measurement blocks 1 to 8: MEAS0 to MEAS7 (R76). -/
def measBlocks (s : State) : List (Nat × BitVec 512) := (List.range 8).map fun k => (k + 1, s.meas k)

/-- Answer a CHALLENGE with a signature of the alias key, over the nonce and the measurements (R76; log 7). -/
def answerChallenge (s : State) (nonce : List Byte) : State :=
  let msg := nonce ++ (s.measBlocks.flatMap fun b => digestOctets b.2)
  s.emit (.spdm (.challengeAuth (Config.sha512 s.certChain) nonce (Config.p521Sign s.pkg.aliasKey msg)))

/-- What a command does when it ends: RESULT, VALUE and the state after it. It reads MBDATA now, so a write made while
it ran counts (log 62). WRITECLASS writes the copy that step 3 did not read, with SEQ one above that one; where step 3
found no valid copy, or has not yet read them, the first, with SEQ 1 (log 62). SOURCE comes before BADARG (log 27). VALUE is 0 for the commands for which R77 names none (log 62). -/
def mbEffect (s : State) (c : MbCmd) (flashOk : Bool) : Nat × Nat × State :=
  match c.op with
  | 1 =>
    if c.side then (6, 0, s)
    else if c.arg < 4 ∨ 7 < c.arg ∨ 4096 < c.len ∨ c.value ≠ 0 then (2, 0, s)
    else (0, 0, s.extendMeas c.arg (s.mbBytes c.len))
  | 2 =>
    if c.side then (6, s.pkg.svnMin, s)
    else if c.arg ≠ 0 ∨ c.len ≠ 0 ∨ 64 < c.value then (2, s.pkg.svnMin, s)
    else if s.mcstat 0 32 < c.value then (4, s.pkg.svnMin, s)
    else
      let m := Nat.max s.pkg.svnMin c.value
      (0, m, { s with pkg := { s.pkg with svnMin := m } })
  | 3 =>
    let r := s.mbBytes 64
    if c.arg ≠ 0 ∨ c.len ≠ 0 ∨ c.value ≠ 0 then (2, 0, s)
    else if !classValid r then (5, 0, s)
    else if !flashOk then (3, 0, s)
    else
      let seq := match s.pkg.inForce with
        | some b => (classSeq (s.classCopy b) + 1) % 2 ^ 32
        | none => 1
      let toB := decide (s.pkg.inForce = some false)
      let w := classWith r seq
      (0, 0, { s with pkg := if toB then { s.pkg with classB := w } else { s.pkg with classA := w } })
  | 4 =>
    if c.arg ≠ 0 ∨ c.len ≠ 0 ∨ c.value ≠ 0 then (2, 0, s)
    else
      match s.classInForce with
      | none => (5, 0, s)
      | some b => (0, classSeq (s.classCopy b), s.setMbBytes (s.classCopy b))
  | _ => (1, 0, s)

/-- A running command ends: RESULT is set and BUSY falls; a CHALLENGE held meanwhile is answered. -/
def mbEnd (s : State) (flashOk : Bool) : State :=
  match s.pkg.mb with
  | none => s
  | some c =>
    let (r, v, t) := s.mbEffect c flashOk
    let t := t.setReg rMBSTAT (BitVec.ofNat 64 (r * 2 ^ 48 + v % 2 ^ 32))
    let held := t.pkg.held
    let t : State := { t with pkg := { t.pkg with mb := none, held := [] } }
    held.foldl (fun s n => s.answerChallenge n) t

/-! ### Attestation (R76) -/

/-- An SPDM answer over the DOE mailbox of the physical function. -/
def spdm (s : State) (r : SpdmRsp) : State := if s.hostUp then s.emit (.spdm r) else s

/-- CHALLENGE waits while measurements are extended. -/
def challenge (s : State) (nonce : List Byte) : State :=
  if !s.hostUp then s
  else
    match s.pkg.mb with
    | some c => if c.op = 1 then { s with pkg := { s.pkg with held := s.pkg.held ++ [nonce] } } else s.answerChallenge nonce
    | none => s.answerChallenge nonce

/-! ### Fatal errors and the dump (R78 to R80, R237, R238) -/

/-- Base of the dump region. -/
def dumpBase (s : State) : Nat := s.dramBytes - 0x10000000

/-- The hardware harts of a list of crews, by core × 32 + position; the crews of a core take positions in order of uid
(log 13). -/
def hartPlaces (cs : List Crew) : FMap (Nat × Crew) :=
  cs.foldl (fun (m : FMap (Nat × Crew)) c =>
    let below := ((cs.filter fun d => decide (d.core = c.core) && decide (d.uid < c.uid)).map (·.hg)).foldl (· + ·) 0
    (List.range c.hg).foldl (fun (m : FMap (Nat × Crew)) i => FMap.insert (c.core * 32 + below + i) (slotOf c.uid i, c) m) m) []

/-- Words as bytes, cut or filled with zeros to `n` bytes. -/
def recordBytes (n : Nat) (ws : List Nat) : List Byte :=
  let bs := ws.flatMap fun w => bytesLE 8 w
  (bs ++ List.replicate (n - bs.length) 0).take n

/-- A record of section HARTS. -/
def hartRecord (s : State) (h : Hart) (c : Crew) : List Byte :=
  let r := h.csr
  recordBytes 512 ([h.pc, r.tvec, r.tpc, r.tcause, r.tval, r.tstat, r.tscratch, r.vl, r.vtype, r.vstart, r.mstart, r.mgstate].map
    (·.toNat) ++ [c.crewId % 2 ^ 32, s.launchId c.launch])

/-- The code of a launch's state in section SCHED (log 13). -/
def stateCode : LState → Nat
  | .queued => 0 | .wait => 1 | .ready => 2 | .placing => 3 | .running => 4 | .completing => 5 | .done => 6

/-- A sensor's history. -/
def sensHist (s : State) (n : Nat) : SensorHist := FMap.getD { runs := [], stats := [], passed := 0 } n s.gov.hist

/-- The contents of a section of a dump (R79). The order of the words inside a record is the model's (log 13). -/
def dumpSection (s : State) (type : Nat) : List Byte :=
  match type with
  | 1 => s.errs.flatMap fun e => recordBytes 64 [e.time, e.site, e.at_, b2n e.correctable]
  | 2 =>
    (s.launches.flatMap fun p => recordBytes 128
        ([p.2.id, p.2.queue, p.2.fn, p.2.asid, stateCode p.2.st, p.2.cls, p.2.started.length, p.2.ended.length] ++ p.2.words.map (·.toNat)))
      ++ s.pkg.dumpCrews.flatMap fun c => recordBytes 64 [c.crewId % 2 ^ 32, s.launchId c.launch, c.tenant, c.core, c.baseLane, c.lanes, c.hg]
  | 3 =>
    let places := hartPlaces (s.pkg.dumpCrews.filter fun c => decide (c.place = .resident) || decide (c.place = .leaving))
    (List.range 5120).flatMap fun k =>
      match (FMap.find k places).bind fun p => (FMap.find p.1 s.pkg.dumpHarts).map fun h => (h, p.2) with
      | some p => s.hartRecord p.1 p.2
      | none => recordBytes 512 []
  | 4 => (List.range 72).flatMap fun n =>
      let h := s.sensHist n
      recordBytes 24 [(s.reg (rTSENS n)).toNat, h.runs.length, h.stats.length]
        ++ (h.runs.flatMap fun r => recordBytes 16 [modW r.1 16, r.2]) ++ h.stats.flatMap fun r => recordBytes 16 [r.1, r.2]
  | 5 => s.events.flatMap fun e => recordBytes 32 [e.time, e.code]
  | 6 => (List.range 8).flatMap fun k => (FMap.getD [] k s.faq).flatMap fun r =>
      recordBytes 16 [2 ^ 63 + r.type * 2 ^ 60 + Nat.min 255 r.count * 2 ^ 52 + r.pa % 2 ^ 39, r.pch * 2 ^ 56 + r.time % 2 ^ 48]
  | 7 => ((List.range 6).flatMap fun n => recordBytes 16 [(s.reg (rIXPSTAT n)).toNat, (s.reg (rIXPCNT n)).toNat])
      ++ s.drops.flatMap fun w => recordBytes 8 [w.toNat]
  | _ => []

/-- The sections of a dump with their TRUNCATED marks. A dump cut short ends in section `cut`, which keeps its first
`keep` bytes; the sections after it hold none. -/
def dumpSections (s : State) (truncated : Bool) (cut keep : Nat) : List (Nat × Bool × List Byte) :=
  (List.range 7).map fun i =>
    let bs := s.dumpSection (i + 1)
    if !truncated ∨ i < cut then (i + 1, false, bs)
    else (i + 1, true, if i = cut then bs.take (keep % (bs.length + 1)) else [])

/-- The bytes of a dump: header, directory, sections (R79). Where one is cut short is open (log 13). -/
def dumpBytes (s : State) (truncated : Bool) (free : Nat) : List Byte :=
  let d := s.reg rDUMPSTAT
  let secs := s.dumpSections truncated (free % 7) (free / 7)
  let offs := secs.foldl (fun (a : Nat × List Nat) p => (a.1 + p.2.2.length, a.2 ++ [a.1])) (64 + 16 * 7, [])
  let entry (i : Nat) (p : Nat × Bool × List Byte) : List Byte :=
    bytesLE 2 p.1 ++ bytesLE 2 (b2n p.2.1) ++ bytesLE 4 p.2.2.length ++ bytesLE 4 (offs.2.getD i 0) ++ bytesLE 4 (crc32c p.2.2)
  let dir := (List.range 7).flatMap fun i => entry i (secs.getD i (0, false, []))
  bytesLE 4 0x504D4458 ++ bytesLE 2 1 ++ bytesLE 2 7 ++ bytesLE 2 (fld d 32 16) ++ bytesLE 2 s.pkg.dumpSource
    ++ bytesLE 4 (fld d 0 32) ++ bytesLE 8 s.time ++ bytesLE 8 (Nat.min offs.1 0x10000000) ++ bytesLE 32 0
    ++ dir ++ secs.flatMap (·.2.2)

/-- The dump is written or cut short: VALID is set, vector 0 sent, FAULT_N asserted. -/
def dumpDone (s : State) (truncated : Bool) : State :=
  if !bit (s.reg rDUMPSTAT) 62 then s
  else
    let (cut, s) := s.takeFree
    let s := s.writeBytes s.dumpBase ((s.dumpBytes truncated cut.toNat).take 0x10000000)
    let s := ((s.setRegFld rDUMPSTAT 63 1 1).setRegFld rDUMPSTAT 62 1 0).setRegFld rDUMPSTAT 61 1 (b2n truncated)
    let s : State := { s with pkg := { s.pkg with dumpSeq := s.pkg.dumpSeq + 1 } }
    ((s.setMcstat 56 1 1).setMcstat 62 1 1).msix 0 0

/-- A fatal error: every crew ends and every port stops, and the dump begins; one that occurs while a dump is being written
ends that dump. -/
def fatal (s : State) (cause source : Nat) : State :=
  if !s.pkg.up then s
  else if bit (s.reg rDUMPSTAT) 62 then s.dumpDone true
  else if s.pkg.fatal then s
  else
    let s := s.flush
    let n := s.pkg.dumpSeq + 1
    let s : State := { s with
      hart := Hart.reset, crew := Crew.reset, cur := 0, harts := [], crews := [], mnet := [], cregs := [], lqTags := [], mcTags := []
      invals := s.invals.filter (·.host), dir := [], wire := []
      pkg := { s.pkg with fatal := true, dumpSource := source, dumpHarts := s.harts
                          dumpCrews := s.crewsOf fun c => decide (c.place ≠ .ended) } }
    s.setReg rDUMPSTAT (BitVec.ofNat 64 (2 ^ 62 + cause % 2 ^ 16 * 2 ^ 32 + n % 2 ^ 32))

end State

end Sys2Proof.Machine
end

