-- ==== Sys2Proof/Machine/HostOps.lean ====
section
/-!
DEFINITION. What the host does through BARs and how its answers reach the device: launch packets, BAR4, function-level reset,
aperture responses (03_host_launch R59 to R71).
-/
namespace Sys2Proof.Machine

open State

namespace State

/-! ### Accesses that wait for fills (R34, R61, R159) -/

/-- Whether an access from outside stays behind one that waits, so that those of one source chip to one slice (R34), of
a multicast group (R39), and a BAR4 access behind a BAR4 write, of whatever function, as PCI Express orders requests
(R61), keep their order. -/
def staysBehind (i : Input) (h : Held) : Bool :=
  let source (i : Input) : Option (Nat × Nat) := match i with
    | .remoteRequest r => some (r.src, sliceOf r.off)
    | .scatterPair p => some (p.src, sliceOf p.off)
    | _ => none
  let host (i : Input) : Bool := match i with
    | .bar4Read .. | .bar4Write .. => true
    | _ => false
  match h with
  | .landing _ _ => false
  | .event q =>
    match q with
    | .bar4Write .. => host i
    | _ => (source i).isSome && decide (source i = source q)

/-- Whether an access from outside stays behind one that waits and came before the number `k`. -/
def behindHeld (s : State) (k : Nat) (i : Input) : Bool := s.held.any fun h => decide (h.1 < k) && staysBehind i h.2

/-! ### Launch packets (R60, R64) -/

/-- A write that touches a port's packet window. -/
def launchPacket (s : State) (fn p : Nat) (whole : Bool) (ws : List Word) : State :=
  if !s.hostUp ∨ 64 ≤ p then s
  else if !whole ∨ ws.length ≠ 8 then s.portReject p 0x01
  else
    let c := s.reg (lpKey p 0x110)
    let cause := s.validate fn p ws (decide (s.portOwner p = fn) && bit c 31 && s.tenEn fn)
    if cause ≠ 0 then s.portReject p cause
    else
      let n := lpKey p 0x108
      let s := s.setRegFld (lpKey p 0x100) 0 32 s.nextId
      let s := s.setRegFld n 32 32 (Nat.min (2 ^ 32 - 1) (fld (s.reg n) 32 32 + 1))
      s.enqueue fn (fld c 0 12) p ws

/-! ### BAR4 (R61, R62) -/

/-- Record a BAR4 error. -/
def w4Error (s : State) (fn off kind : Nat) (write : Bool) : State :=
  let k := fnKey fn rW4ERR
  let w := s.reg k
  if bit w 63 then s.setRegFld k 48 11 (Nat.min 2047 (fld w 48 11 + 1))
  else (s.setReg k (BitVec.ofNat 64 (2 ^ 63 + kind * 2 ^ 60 + b2n write * 2 ^ 59 + off % 2 ^ 39))).msix fn 3

/-- Whether a virtual address of a function reaches the dump region. -/
def vaInDump (s : State) (tenant asid va : Nat) : Bool :=
  match (match s.tlbFind tenant asid (va / 2 ^ 17) with
         | some l => Except.ok l
         | none => s.walk tenant asid va) with
  | .ok l => decide (s.dumpBase ≤ l.frame) && decide (l.frame < s.dramBytes)
  | .error _ => false

/-- Where a BAR4 access of `n` bytes at an offset goes: a physical address of memory, or the kind of its error, 0 for a
walk that waits for a fill. The window of the shared store is no crew's here and gives kind 1 (log 15). -/
def bar4Reach (s : State) (fn off n : Nat) (write : Bool) : Except Nat Nat :=
  let c := s.reg (fnKey fn rW4CFG)
  let place_ (pa : Nat) : Except Nat Nat :=
    match s.place pa with
    | .mem pa => if s.isMem (pa + n - 1) then .ok pa else .error 7
    | .aperture _ => .error 2
    | .control _ => .error 3
    | .remote _ _ => .error 4
    | .mcast _ _ _ => .error 4
    | .hole => .error 7
  if bit c 63 then place_ off
  else
    let va := fld c 17 36 * 2 ^ 17 + off
    if inWindow va then .error 1
    else
      match s.translate fn (fld c 0 12) false (if write then .write else .read) va with
      | .ok pa => place_ pa
      | .error k => .error (if k = 0 then 0 else if k = 4 ∧ fn ≠ 0 ∧ s.vaInDump fn (fld c 0 12) va then 5 else 1)

/-- Bytes of a BAR4 read request inside one page, or its error, with the state after the accesses made. -/
def bar4Get (fn off : Nat) : List (Nat × Nat × Nat) → State → Except Nat (List Byte) × State
  | [], s => (.ok [], s)
  | (o, _, n) :: ps, s =>
    match s.bar4Reach fn o n false with
    | .error k => (.error k, s)
    | .ok pa =>
      let s := s.touch pa n
      if s.poisonedAny pa n then (.error 6, s)
      else
        match bar4Get fn off ps s with
        | (.ok bs, t) => (.ok (s.bytesAt pa n ++ bs), t)
        | (.error k, t) => (.error k, t)

/-- The physical pieces of a BAR4 write, or its error. -/
def bar4Put (s : State) (fn : Nat) (bs : List Byte) : List (Nat × Nat × Nat) → Except Nat (List (Nat × List Byte))
  | [] => .ok []
  | (o, at_, n) :: ps =>
    match s.bar4Reach fn o n true with
    | .error k => .error k
    | .ok pa =>
      match bar4Put s fn bs ps with
      | .ok r => .ok ((pa, octets bs at_ n) :: r)
      | .error k => .error k

/-- The part of a BAR4 access where pages divide it, by offset. -/
def bar4Pieces (s : State) (fn off n : Nat) : List (Nat × Nat × Nat) :=
  let base := fld (s.reg (fnKey fn rW4CFG)) 17 36 * 2 ^ 17
  (pieces (base + off) n).map fun p => (off + p.2.1, p.2.1, p.2.2)

/-- A BAR4 request lies inside the BAR (R55). -/
def inBar4 (s : State) (fn off n : Nat) : Bool := decide (off + n ≤ s.bar4Gib fn * 2 ^ 30)

/-- Whether a BAR4 access meets a line that a copy has registered and not filled (R159). -/
def bar4Meets (s : State) (fn off n : Nat) (write : Bool) : Bool :=
  (s.bar4Pieces fn off n).any fun p => match s.bar4Reach fn p.1 p.2.2 write with
    | .ok pa => !(s.unfilled pa p.2.2).isEmpty
    | .error k => decide (k = 0)

/-- Perform a host read: data, or all ones with the error recorded. An error on a later page of the request is recorded
with the request's first offset: DESIGN CHOICE (log 65). -/
def bar4ReadDo (s : State) (fn off len : Nat) : State :=
  match bar4Get fn off (s.bar4Pieces fn off len) s with
  | (.error k, s) => (s.w4Error fn off k false).emit (.hostData fn off (List.replicate len 0xFF))
  | (.ok bs, s) => s.emit (.hostData fn off bs)

/-- Perform a host write, or drop it with the error recorded. -/
def bar4WriteDo (s : State) (fn off : Nat) (bs : List Byte) : State :=
  match s.bar4Put fn bs (s.bar4Pieces fn off bs.length) with
  | .error k => s.w4Error fn off k true
  | .ok ws => ws.foldl (fun s w => (s.touch w.1 w.2.length).writeCover w.1 w.2) s

/-- A host read through BAR4: it waits where it meets an unfilled line, and behind a write that waits. -/
def bar4Read (s : State) (fn off len : Nat) : State :=
  if !s.hostUp ∨ len = 0 ∨ 4096 < len ∨ !s.inBar4 fn off len then s
  else if s.bar4Meets fn off len false ∨ s.behindHeld s.nextHeld (.bar4Read fn off len) then s.hold (.event (.bar4Read fn off len))
  else s.bar4ReadDo fn off len

/-- A host write through BAR4. -/
def bar4Write (s : State) (fn off : Nat) (bs : List Byte) : State :=
  if !s.hostUp ∨ bs = [] ∨ 4096 < bs.length ∨ !s.inBar4 fn off bs.length then s
  else if s.bar4Meets fn off bs.length true ∨ s.behindHeld s.nextHeld (.bar4Write fn off bs) then s.hold (.event (.bar4Write fn off bs))
  else s.bar4WriteDo fn off bs

/-! ### Function-level reset of a virtual function (R59) -/

/-- What R59 lists; the function's own registers, MSI-X masks and pending bits stay (log 29). -/
def resetVf (s : State) (fn : Nat) : State :=
  if !s.hostUp ∨ fn = 0 ∨ 16 ≤ fn then s
  else
    let cs := s.crewsOf fun c => decide (c.tenant = fn)
    let s := cs.foldl (fun s c => s.scrub c.uid) s
    let s : State := { s with
      launches := s.launches.filter fun p => decide (p.2.fn ≠ fn)
      ctrs := s.ctrs.filter fun p => decide (s.ctrOwner p.1 ≠ fn)
      recs := s.recs.filter fun r => decide (r.tenant ≠ fn)
      fq := FMap.erase fn s.fq, fqWait := s.fqWait.filter fun p => decide (p.1 ≠ fn) }
    (s.markWaits).settle

/-! ### Answers to requests (R33, R34, R71, R226) -/

/-- A channel of a hart becomes FAULTED at an address (R401). -/
def copyStop (s : State) (slot ch cause fva : Nat) : State :=
  s.modHart slot fun h =>
    if hc : ch < 4 then { h with cp := h.cp.set ch { h.cp[ch] with st := 2, cause, fva, reported := false, unit := 0 } } else h

/-- Posted destination bytes of a channel have been performed: the watermark passes them (R208). -/
def copyPassed (s : State) (slot ch : Nat) : State :=
  s.modHart slot fun h =>
    if hc : ch < 4 then
      let c := h.cp[ch]
      { h with cp := h.cp.set ch { c with done := c.done + c.unit, unit := 0 } }
    else h

/-- Forget a posted store. -/
def unpost (s : State) (slot : Nat) (p : Posted) : State := s.modHart slot fun h => { h with posted := h.posted.erase p }

/-- An answer to a store or update that was posted; the flags an update raised enter VFLAGS (R264). A poisoned target is
reported at once; a refusal of an instruction's store is kept until the instruction's every completion has come (R226),
one of a channel reported at once. -/
def endPosted (s : State) (slot : Nat) (p : Posted) (ok poisoned : Bool) (flags : Nat) : State :=
  if ok || poisoned then
    let s := (s.unpost slot p).modHart slot fun h => { h with csr := { h.csr with vflags := h.csr.vflags ||| BitVec.ofNat 64 flags } }
    let s := if poisoned then (s.reportImp slot .poison 0 (BitVec.ofNat 64 p.va)).poisonWb slot else s
    match p.by_ with
    | .chan k => s.copyPassed slot k
    | _ => s.settlePosted slot
  else
    match p.by_ with
    | .hart | .stream _ => (s.modHart slot fun h => { h with posted := h.posted.map fun q => if q = p then { q with bad := true } else q }).settlePosted slot
    | .chan k => ((s.unpost slot p).reportImp slot .storeFault 0 (BitVec.ofNat 64 p.va)).copyStop slot k 5 p.va

/-- Channels of a hart with the answer to a source read. -/
def copyAnswer (h : Hart) (tag : Nat) (a : Answer) : Hart :=
  { h with cp := h.cp.map fun c => if c.ask = some tag then { c with ask := none, ans := some a } else c }

/-- An answer to a link-queue message: the error response to a tile or an AWAY (R33, R49). -/
def answerLq (s : State) (t : LqTag) (ok : Bool) : State :=
  let s : State := { s with lqTags := s.lqTags.erase t }
  if ok then s
  else if t.away then s.putEnd t.crew t.q { s.lqEnd t.crew t.q with st := .down, credit := 0, kept := none, leaving := false }
  else
    let e := s.lqEnd t.crew t.q
    let s := if e.st = .bound then s.putEnd t.crew t.q { e with credit := Nat.min 4 (e.credit + 1) } else s
    s.reportImp (slotOf t.crew t.hart) .linkDown 0 (BitVec.ofNat 64 t.q)

/-- A copy of a multicast store was refused or lost: reported once for its instruction; a channel that wrote it becomes
FAULTED (R50, R226; log 77). -/
def answerMcast (s : State) (t : McTag) : State :=
  let s : State := { s with mcTags := s.mcTags.filter fun u => !(decide (u.slot = t.slot) && decide (u.by_ = t.by_) && decide (u.ins = t.ins)) }
  let s := s.reportImp t.slot .storeFault 0 (BitVec.ofNat 64 t.va)
  match t.by_ with
  | .chan k => s.copyStop t.slot k 5 t.va
  | _ => s

/-- An answer to a completion write (R68). -/
def answerDone (s : State) (l : Launch) (ok : Bool) : State :=
  if s.pkg.fatal then s
  else
    let s := s.modLaunch l.seq fun l => { l with doneTag := none }
    if ok then s.finishLaunch { l with doneTag := none } else s.failCompletion { l with doneTag := none }

/-- An answer comes back with a tag: to a waiting access, to a copy channel, to a posted store, to a completion write,
or to a link-queue message (R33, R68). -/
def answerTag (s : State) (tag : Nat) (ok poisoned : Bool) (dat : Nat) (flags : Nat := 0) : State :=
  let hs := s.flush.harts
  let a : Answer := if poisoned then .poisoned else if ok then .value dat else .refused
  match hs.find? (fun p => p.2.cp.toList.any fun c => decide (c.ask = some tag)) with
  | some (slot, _) => s.modHart slot fun h => copyAnswer h tag a
  | none =>
  match hs.find? (fun p => p.2.asked.any fun a => decide (a.tag = tag)) with
  | some (slot, _) =>
    s.modHart slot fun h =>
      match h.asked.find? (fun q => decide (q.tag = tag)) with
      | some q => { h with
          asked := h.asked.erase q, answers := FMap.insert q.key a h.answers }
      | none => h
  | none =>
    match hs.find? (fun p => p.2.posted.any fun a => decide (a.tag = tag)) with
    | some (slot, h) =>
      match h.posted.find? (fun a => decide (a.tag = tag)) with
      | some p => s.endPosted slot p ok poisoned flags
      | none => s
    | none =>
      match s.launchList.find? (fun l => decide (l.doneTag = some tag)) with
      | some l => s.answerDone l ok
      | none =>
        match s.lqTags.find? (fun t => decide (t.tag = tag)) with
        | some t => s.answerLq t ok
        | none =>
          match s.mcTags.find? (fun t => decide (t.tag = tag)) with
          | some t => s.answerMcast t
          | none => s

end State

end Sys2Proof.Machine
end

