-- ==== Sys2Proof/Machine/EvPower.lean ====
section
/-!
DEFINITION. The events of power-on and the package, of the management mailbox, of attestation, and of fatal errors
(01_package R11, R16 to R21, 03_host_launch R59, R74 to R80, 05_power_thermal R128, 09_traps R237).
-/
namespace Sys2Proof.Machine

open State

/-- What an event answers. -/
abbrev EvRes := Host.Outcome State Fault Refusal

/-! ### Power-on and the package -/

def execVauxUp (s : State) : EvRes := .next (match s.input with | some .vauxUp => s.vauxRise | _ => s)

def execPowerOnStep (s : State) : EvRes :=
  .next (match s.input with | some (.powerOnStep pg lost) => s.powerStep pg.toNat lost.toNat | _ => s)

def execPowerOnStop (s : State) : EvRes :=
  .next (match s.input with | some (.powerOnStop lost) => s.powerStop lost.toNat | _ => s)

def execPerstNDeassert (s : State) : EvRes := .next (match s.input with | some .perstNDeassert => s.perstOff | _ => s)
def execPerstNAssert (s : State) : EvRes := .next (match s.input with | some .perstNAssert => s.perstOn | _ => s)
def execHostLinkTrained (s : State) : EvRes := .next (match s.input with | some .hostLinkTrained => s.linkTrained | _ => s)
def execLinkTrainingTimeout (s : State) : EvRes :=
  .next (match s.input with | some .linkTrainingTimeout => s.linkTimeout | _ => s)

def execConfigurationRequest (s : State) : EvRes :=
  .next (match s.input with | some (.configurationRequest fn size) => s.configRequest fn size | _ => s)

def execThermalTrip (s : State) : EvRes := .next (match s.input with | some .thermalTrip => s.tripDevice | _ => s)

/-- A stack's comparator trips the device as a junction comparator does (R128). -/
def execStackTripComparator (s : State) : EvRes :=
  .next (match s.input with | some (.stackTripComparator k) => if k < 8 then s.tripDevice else s | _ => s)

def execVrAlert (s : State) : EvRes := .next (match s.input with | some .vrAlert => s.vrAlert | _ => s)
def execPowerOff (s : State) : EvRes := .next (match s.input with | some (.powerOff pg) => s.powerOff pg.toNat | _ => s)

def execDynamicAddressAssign (s : State) : EvRes :=
  .next (match s.input with
    | some (.dynamicAddressAssign a) => if s.pkg.vaux then { s with pkg := { s.pkg with i3c := some a } } else s
    | _ => s)

/-! ### The management mailbox (R77) -/

/-- The word written to MBCMD. -/
def mbWord (op arg len value : Nat) : Word := BitVec.ofNat 64 (op * 2 ^ 56 + arg * 2 ^ 48 + len * 2 ^ 32 + value)

/-- A command from the sideband, while VAUX is up, or from the physical function. -/
def State.mbFrom (s : State) (side : Bool) (v : Word) : State :=
  if (if side then s.pkg.vaux else s.hostUp) then s.mbStart side v else s

def execExtend (s : State) : EvRes :=
  .next (match s.input with | some (.extend side arg len) => s.mbFrom side (mbWord 1 arg.toNat len.toNat 0) | _ => s)
def execRaisesvn (s : State) : EvRes :=
  .next (match s.input with | some (.raisesvn side v) => s.mbFrom side (mbWord 2 0 0 v.toNat) | _ => s)
def execWriteclass (s : State) : EvRes :=
  .next (match s.input with | some (.writeclass side) => s.mbFrom side (mbWord 3 0 0 0) | _ => s)
def execReadclass (s : State) : EvRes :=
  .next (match s.input with | some (.readclass side) => s.mbFrom side (mbWord 4 0 0 0) | _ => s)
def execMailboxCommandEnd (s : State) : EvRes :=
  .next (match s.input with | some (.mailboxCommandEnd ok) => s.mbEnd ok | _ => s)

/-! ### Attestation (R76) -/

def execGetVersion (s : State) : EvRes := .next (match s.input with | some .getVersion => s.spdm .version | _ => s)
def execGetCapabilities (s : State) : EvRes :=
  .next (match s.input with | some .getCapabilities => s.spdm .capabilities | _ => s)
def execNegotiateAlgorithms (s : State) : EvRes :=
  .next (match s.input with | some .negotiateAlgorithms => s.spdm (.algorithms .ecdsaP521 .sha512) | _ => s)
def execGetDigests (s : State) : EvRes :=
  .next (match s.input with
    | some .getDigests => s.spdm (.digests (Config.sha512 s.certChain))
    | _ => s)
def execGetCertificate (s : State) : EvRes :=
  .next (match s.input with | some .getCertificate => s.spdm (.certificate s.certChain) | _ => s)
def execChallenge (s : State) : EvRes := .next (match s.input with | some (.challenge n) => s.challenge n | _ => s)

/-- Measurement blocks 1 to 8 return MEAS0 to MEAS7, always all of them and unsigned (log 74). -/
def execGetMeasurements (s : State) : EvRes :=
  .next (match s.input with
    | some .getMeasurements => s.spdm (.measurements s.measBlocks)
    | _ => s)

/-- ERROR with code UnsupportedRequest. -/
def execSpdmUnsupportedRequest (s : State) : EvRes :=
  .next (match s.input with | some .spdmUnsupportedRequest => s.spdm .unsupportedRequest | _ => s)

/-! ### Fatal errors (R78 to R80, R237) -/

def execFatalError (s : State) : EvRes :=
  .next (match s.input with | some (.fatalError c u) => s.fatal c.toNat u.toNat | _ => s)
def execDumpComplete (s : State) : EvRes := .next (match s.input with | some (.dumpComplete t) => s.dumpDone t | _ => s)

end Sys2Proof.Machine
end

