-- ==== Sys2Proof/Machine/EvHost.lean ====
section
/-!
DEFINITION. The events by which the host acts: launches, BAR4, counters, function-level reset, scheduler commands, queues it
reads, invalidations, the bad-page list, ports, cache ways and plain registers (03_host_launch, 04_scheduler R101,
07_memory R182 to R190, 02_torus_links R51, R52, 05_power_thermal R112, R129). A host access reaches the device only once
power-on is complete and the link is up (R17).
-/
namespace Sys2Proof.Machine

open State

/-- What the host does, where it reaches the device. -/
def State.asHost (s : State) (t : State) : State := if s.hostUp then t else s

/-- A host read of a register, whose data goes back. -/
def State.hostReg (s : State) (fn off : Nat) : State :=
  if s.hostUp then
    let (v, t) := s.barRead fn off
    t.emit (.hostData fn off (bytesLE 8 v.toNat))
  else s

/-! ### Launches, BAR4 and counters -/

def execLaunchPacket (s : State) : EvRes :=
  .next (match s.input with | some (.launchPacket fn p whole ws) => s.launchPacket fn p whole ws | _ => s)
def execBar4Read (s : State) : EvRes :=
  .next (match s.input with | some (.bar4Read fn off n) => s.bar4Read fn off n | _ => s)
def execBar4Write (s : State) : EvRes :=
  .next (match s.input with | some (.bar4Write fn off bs) => s.bar4Write fn off bs | _ => s)

/-- A host write of a counter its function owns (R65). -/
def execCounterWrite (s : State) : EvRes :=
  .next (match s.input with
    | some (.counterWrite fn n v) => if n < 1024 then s.asHost (s.barWrite fn (rCTR + 8 * n) (v.setWidth 64)) else s
    | _ => s)

def execCounterAdd (s : State) : EvRes :=
  .next (match s.input with
    | some (.counterAdd fn n v) => if n < 1024 then s.asHost (s.barWrite fn (rCTRADD + 8 * n) (v.setWidth 64)) else s
    | _ => s)

def execFunctionLevelResetVf (s : State) : EvRes :=
  .next (match s.input with | some (.functionLevelResetVf fn) => s.resetVf fn | _ => s)
def execFunctionLevelResetPf (s : State) : EvRes :=
  .next (match s.input with | some .functionLevelResetPf => s.asHost s.resetPf | _ => s)
def execHostApertureResponse (s : State) : EvRes :=
  .next (match s.input with | some (.hostApertureResponse tag ok d) => s.answerTag tag ok false d | _ => s)

/-! ### Scheduler commands (R101) -/

/-- The word written to SCHCMD. -/
def schWord (op : Nat) (done : Bool) (launch : Nat) : Word :=
  BitVec.ofNat 64 (op * 2 ^ 60 + b2n done * 2 ^ 59 + launch % 2 ^ 32)

def execResume (s : State) : EvRes :=
  .next (match s.input with | some (.resume fn l) => s.asHost (s.schCmd fn (schWord 1 false l)) | _ => s)
def execAbort (s : State) : EvRes :=
  .next (match s.input with | some (.abort fn l d) => s.asHost (s.schCmd fn (schWord 2 d l)) | _ => s)
def execPreempt (s : State) : EvRes :=
  .next (match s.input with | some (.preempt fn l) => s.asHost (s.schCmd fn (schWord 3 false l)) | _ => s)
def execSchedulerCommandEnd (s : State) : EvRes :=
  .next (match s.input with | some (.schedulerCommandEnd fn) => s.schCmdEnd fn | _ => s)

/-! ### Fault queues, drop log, fault-address queues, launch energy -/

def execFqresume (s : State) : EvRes :=
  .next (match s.input with | some (.fqresume fn c l) => s.asHost (s.fqResume fn c l) | _ => s)
def execFqdata0Read (s : State) : EvRes :=
  .next (match s.input with | some (.fqdata0Read fn) => s.hostReg fn (rFQDATA 0) | _ => s)
def execIxdropRead (s : State) : EvRes := .next (match s.input with | some .ixdropRead => s.hostReg 0 rIXDROP | _ => s)
def execFaultAddressQueueRead (s : State) : EvRes :=
  .next (match s.input with | some (.faultAddressQueueRead k) => if k < 8 then s.hostReg 0 (rFAQ k) else s | _ => s)
def execEnlq (s : State) : EvRes :=
  .next (match s.input with | some (.enlq fn v) => s.asHost (s.barWrite fn rENLQ v) | _ => s)

/-! ### Invalidations (R182) and the bad-page list (R190) -/

def execTlbinvTenant (s : State) : EvRes :=
  .next (match s.input with | some (.tlbinvTenant t) => s.asHost (s.tlbInvStart 1 t 0) | _ => s)
def execTlbinvAsid (s : State) : EvRes :=
  .next (match s.input with | some (.tlbinvAsid t a) => s.asHost (s.tlbInvStart 2 t a) | _ => s)
def execTlbinvPage (s : State) : EvRes :=
  .next (match s.input with | some (.tlbinvPage t a) => s.asHost (s.tlbInvStart 3 t a) | _ => s)
def execInvalidationComplete (s : State) : EvRes :=
  .next (match s.input with | some .invalidationComplete => s.invDone | _ => s)
def execBpladd (s : State) : EvRes := .next (match s.input with | some (.bpladd f) => s.asHost (s.bplAdd f) | _ => s)
def execBplFlashWriteDone (s : State) : EvRes := .next (match s.input with | some (.bplFlashWriteDone ok) => s.bplDone ok | _ => s)

/-! ### Ports, cache ways and other registers -/

def execAdmindown (s : State) : EvRes := .next (match s.input with | some (.admindown n v) => s.asHost (s.adminDown n v) | _ => s)
def execClrcnt (s : State) : EvRes := .next (match s.input with | some (.clrcnt n) => s.asHost (s.clrCnt n) | _ => s)
def execWayreq (s : State) : EvRes := .next (match s.input with | some (.wayreq k w) => s.asHost (s.wayRequest k w) | _ => s)

/-- A write of a register by a function, or of an index over the sideband (function 16) (R5, R21). -/
def execRegisterWrite (s : State) : EvRes :=
  .next (match s.input with
    | some (.registerWrite fn off v) => if fn < 16 then s.asHost (s.barWrite fn off v) else s.sideWrite off v
    | _ => s)

end Sys2Proof.Machine
end

