-- ==== Sys2Proof/Machine/EvLink.lean ====
section
/-!
DEFINITION. The events of the fabric: ports, routing, remote requests and answers, multicast, scattered pairs and link-queue
messages (02_torus_links R22 to R52).
-/
namespace Sys2Proof.Machine

open State

namespace State

/-! ### Ports (R23 to R26, R52) -/

/-- Add to a saturating counter field. -/
def addSat (s : State) (k lo len n : Nat) : State := s.setRegFld k lo len (Nat.min (2 ^ len - 1) (fld (s.reg k) lo len + n))

/-- The lane numbered `k` among the active ones of a width: lanes 7 to 0, 15 to 8, or all (R23, R52). -/
def activeLane (width k : Nat) : Nat := if width = 1 then k % 8 else if width = 2 then 8 + k % 8 else k % 16

/-- Equalisation finds the worst active lane and its margin, open values (R52, log 4). -/
def equalise (s : State) (n : Nat) : State :=
  let (m, s) := s.takeFree
  let k := rIXPSTAT n
  (s.setRegFld k 48 10 (fld m 0 10)).setRegFld k 44 4 (activeLane (fld (s.reg k) 58 2) (fld m 10 4))

/-- The adaptation of a port that is UP finds another margin. -/
def adaptPort (s : State) (n : Nat) : State := if n < 6 ∧ s.portState n = 2 then s.equalise n else s

/-- Flits after the last one acknowledged. -/
def afterAck (ack : Nat) : List TxFlit → Option (List TxFlit)
  | [] => none
  | q :: qs => if q.wire.hdr.seq = ack then some qs else afterAck ack qs

/-- The messages that a received flit completes, as they arrive, with what the flit's header says of them (R24, R29). -/
def arrivals (h : FlitHdr) (n : Nat) : Arrival → List Input
  | .request r => [.remoteRequest { r with src := h.src, tenant := h.tenant, hops := h.hops, core := h.core }]
  | .pairs ps => ps.map fun p => .scatterPair { p with src := h.src, tenant := h.tenant, hops := h.hops, core := h.core }
  | .response r => [.remoteResponse { r with src := h.src, tenant := h.tenant, hops := h.hops }]
  | .lq k m => [lqInput k { m with chip := h.src, tenant := h.tenant, hops := h.hops, core := h.core, viaPort := true }]
  | .tile m => [.tileMessage { m with chip := h.src, tenant := h.tenant, hops := h.hops, core := h.core, viaPort := true }]
  | .mcast m => [.multicastMessage n { m with group := h.dest, src := h.src, tenant := h.tenant, hops := h.hops, core := h.core, vc := h.vc, slot := 0 }]
  | .transit m => [.routerForward { m with mclass := h.mclass, dest := h.dest, src := h.src, tenant := h.tenant, hops := h.hops, core := h.core }]

/-- Times within the last millisecond. -/
def lastMs (now : Nat) (ts : List Nat) : List Nat := ts.filter fun t => decide (now ≤ t + 1000)

/-- Replay every flit that has not been acknowledged (R25). -/
def replayPort (s : State) (n : Nat) : State :=
  let fs := (s.port n).replay.map (·.wire)
  if fs = [] then s
  else
    let s := s.modPort n fun q => { q with replays := s.time :: lastMs s.time q.replays }
    (s.addSat (rIXPCNT n) 0 16 fs.length).emit (.flits n fs)

/-- A flit arrives at a port (R25): codewords are counted; one whose CRC fails is answered with NAK; an acknowledgement frees
the replay buffer; a NAK replays from it; a flit in order is acknowledged, and the message it completes arrives; one received
before is not delivered again; one of no message (NFLIT 0) only acknowledges. -/
def flitIn (s : State) (n : Nat) (f : Flit) : State :=
  if 6 ≤ n ∨ s.portState n ≠ 2 then s
  else
    let s := (s.addSat (rIXPCNT n) 32 32 f.corr).addSat (rIXPCNT n) 16 16 f.uncorr
    let s := if f.uncorr = 0 then s else s.modPort n fun q =>
      { q with uncs := (s.time, f.uncorr) :: q.uncs.filter fun u => decide (s.time ≤ u.1 + 1000) }
    let h := f.wire.hdr
    let last := (s.port n).ackSeq
    if f.wire.crc ≠ flitCrc h f.wire.payload then s.sayAck n true
    else
      let s := s.modPort n fun q => { q with replay := (afterAck h.ackseq q.replay).getD q.replay }
      let s := (if h.nak then s.replayPort n else s).drain n
      let ahead := (h.seq + 4096 - last % 4096) % 4096
      if h.nflit = 0 then s
      else if ahead = 1 then
        let s := (s.modPort n fun q => { q with ackSeq := h.seq }).sayAck n false
        match h.last, f.msg with
        | true, some m => { s with wire := s.wire ++ arrivals h n m }
        | _, _ => s
      else s.sayAck n (decide (1 < ahead) && decide (ahead < 2048))

/-- Whether a port has cause to leave UP (R26): too many replays or uncorrectable codewords within 1 ms, or lost block
lock. -/
def retrainDue (s : State) (n : Nat) : RetrainCause → Bool
  | .replays => decide (16 < (lastMs s.time (s.port n).replays).length)
  | .uncorrectable =>
    decide (64 < (((s.port n).uncs.filter fun u => decide (s.time ≤ u.1 + 1000)).map (·.2)).foldl (· + ·) 0)
  | .blockLock => true

/-- A port leaves UP for RETRAIN (R26). -/
def portRetrain (s : State) (n : Nat) (why : RetrainCause) : State :=
  if 6 ≤ n ∨ s.portState n ≠ 2 ∨ !s.retrainDue n why then s
  else
    let s := (s.setPortState n 3).addSat (rIXPSTAT n) 32 12 1
    s.modPort n fun q => { q with
      retrainAt := some s.time, replays := [], uncs := []
      retrains := (s.time :: q.retrains).filter fun t => decide (s.time ≤ t + 1000000) }

/-- Whether the route to a chip uses a port. -/
def routeUses (s : State) (n chip : Nat) : Bool := decide (s.route chip = some n)

/-- Drop a message in transit: logged, and a request is answered with an error response; so is a link-queue message,
unless its hops are what it is dropped for (R28, R33, R50). -/
def transitDrop (s : State) (m : Transit) (cause : Nat) : State :=
  let s := s.logDrop cause m.tenant m.src m.dest m.hops
  if m.mclass = 0 ∨ (m.mclass = 2 ∧ cause ≠ 1) then s.respond m.src { tag := m.tag, ok := false, tenant := m.tenant } else s

/-- The error response to a multicast message goes to its source (R33, R50, R226). -/
def mcastAnswer (s : State) (m : McastMsg) : State :=
  if m.src = s.chipId then s.answerTag m.tag false false 0 else s.respond m.src { tag := m.tag, ok := false, tenant := m.tenant }

/-- A message that a port's failure has lost or that can no longer leave by it (R50): what this device issued is
answered as by an error response; a request or link-queue message in transit is answered with one. -/
def loseMsg (s : State) : Output → State
  | .request _ r => s.answerTag r.tag false false 0
  | .scatter _ ps => ps.foldl (fun (s : State) p => s.answerTag p.tag false false 0) s
  | .tile _ m => s.answerTag m.tag false false 0
  | .lq _ _ m => s.answerTag m.tag false false 0
  | .forward _ _ m => if m.mclass = 0 ∨ m.mclass = 2 then s.respond m.src { tag := m.tag, ok := false, tenant := m.tenant } else s
  | .mcast _ m => (s.logDrop 4 m.tenant m.src m.group m.hops).mcastAnswer m
  | _ => s

/-- Drop a message that waits for a port that has failed: logged, and answered; a multicast copy is only logged (R33,
R50). -/
def refuseMsg (s : State) (o : Output) : State :=
  match s.packetOf o, o with
  | none, _ => s
  | some k, .mcast .. => s.logDrop 4 k.tenant k.src k.dest k.hops
  | some k, _ => (s.logDrop 4 k.tenant k.src k.dest k.hops).loseMsg o

/-- Whether a retrain has lasted longer than 100 ms, or is the third that has started within 1 s (R26). -/
def retrainFails (s : State) (n : Nat) : Bool :=
  let p := s.port n
  decide (3 ≤ p.retrains.length) || match p.retrainAt with
    | some t => decide (t + 100000 < s.time)
    | none => false

/-- A port enters DOWN, and so do endpoints whose route uses it (R26, R46, R50). Messages whose last flit no one has
acknowledged are lost; those that wait are refused. -/
def portDies (s : State) (n : Nat) : State :=
  let p := s.port n
  let s := s.modPort n fun _ => Port.reset
  let s := ((s.setPortState n 4).setRegFld (rIXPSTAT n) 58 2 0).setRegFld (rIXPSTAT n) 1 1 1
  let s := (s.lqDownIf (s.routeUses n)).msix 0 1
  let lost := (p.replay.filter fun f => f.wire.hdr.last).map (·.msg)
  p.waiting.foldl refuseMsg (lost.foldl loseMsg s)

/-- A retrain that has lasted too long, or is one too many, ends in DOWN (R26). -/
def portFails (s : State) (n : Nat) : State :=
  if 6 ≤ n ∨ s.portState n ≠ 3 ∨ !s.retrainFails n then s else s.portDies n

/-- A port finishes training: UP at the width reached, with the margin its adaptation finds; what waited for it leaves.
A retrain that has failed ends in DOWN. A port that ADMINDOWN holds does not train; one that is DOWN waits for ADMINDOWN
(R26). -/
def portTrained (s : State) (n : Nat) (width : BitVec 2) : State :=
  let st := s.portState n
  let r := s.reg (rIXPSTAT n)
  if 6 ≤ n ∨ width = 0 ∨ !s.pkg.up ∨ bit r 2 ∨ !([0, 1, 3].contains st) then s
  else if st = 3 ∧ s.retrainFails n then s.portDies n
  else
    let s := ((s.setPortState n 2).setRegFld (rIXPSTAT n) 58 2 width.toNat).equalise n
    (s.modPort n fun q => { q with retrainAt := none }).drain n

/-! ### Routing (R28, R29) -/

/-- The virtual channel of the hop to `port`: 1 once the message has crossed the dateline of its dimension. -/
def hopVc (s : State) (src port : Nat) : Nat :=
  let d := port / 2
  let a := coord s.chipId d
  let b := coord src d
  let crossed := if port % 2 = 0 then decide (a < b) else decide (b < a)
  b2n (s.datelineHop port || (s.dimWrap d && crossed))

/-- A unicast message for another chip passes this router. -/
def forward (s : State) (m : Transit) : State :=
  if m.dest = s.chipId ∨ !s.pkg.up then s
  else if 64 < m.hops then s.transitDrop m 1
  else if !s.faben then s.transitDrop m 6
  else
    match s.route m.dest with
    | none => s.transitDrop m 6
    | some p =>
      if s.portState p = 4 then s.transitDrop m 4
      else s.emitNet (.forward p (s.hopVc m.src p) { m with hops := m.hops + 1 })

/-! ### Remote requests at their target (R31, R33, R187) -/

/-- Whether a request that comes from another chip is refused (R28, R33), with the drop-log cause. -/
def remoteRefused (s : State) (tenant off width hops : Nat) : Option Nat :=
  if 64 < hops then some 1 else if s.isMem (off + width - 1) then s.tgtRefuses tenant off else some 6

/-- Refuse a request that came from another chip. -/
def refuseRemote (s : State) (cause tenant src hops tag : Nat) : State :=
  (s.logDrop cause tenant src s.chipId hops).respond src { tag, ok := false, tenant }

/-- Perform a remote load, store or atomic at its home. -/
def remoteDo (s : State) (r : RemoteReq) : State :=
  match s.remoteRefused r.tenant r.off r.width r.hops with
  | some c => s.refuseRemote c r.tenant r.src r.hops r.tag
  | none =>
    let answer (s : State) (poisoned : Bool) (dat width : Nat) : State :=
      s.respond r.src { tag := r.tag, ok := true, poisoned, dat, width, tenant := r.tenant }
    let s := s.touch r.off r.width
    match r.kind with
    | .read => if s.poisonedAny r.off r.width then answer s true 0 0 else answer s false (s.readHome r.off r.width) r.width
    | .write => answer (s.writeCover r.off (bytesLE r.width r.dat)) false 0 0
    | .atomic op =>
      match s.homeUpdate r.off r.width op r.dat r.cmp with
      | none => answer s true 0 0
      | some (old, flags, s') => s'.respond r.src { tag := r.tag, ok := true, dat := old, width := r.width, tenant := r.tenant, flags }

/-- Add a scattered pair at its owner (R42, R187). -/
def scatterDo (s : State) (p : PairMsg) : State :=
  match s.remoteRefused p.tenant p.off p.width p.hops with
  | some c => s.refuseRemote c p.tenant p.src p.hops p.tag
  | none =>
    let s := s.touch p.off p.width
    match s.homeUpdate p.off p.width (if p.fp then .fadd else .add) p.v 0 with
    | none => s.respond p.src { tag := p.tag, ok := true, poisoned := true, tenant := p.tenant }
    | some (_, flags, s') => s'.respond p.src { tag := p.tag, ok := true, tenant := p.tenant, flags }

/-- A remote request arrives: it waits where it meets an unfilled line, and behind one that waits (R34, R159). -/
def remoteReq (s : State) (r : RemoteReq) : State :=
  if !s.pkg.up then s
  else if !(s.unfilled r.off r.width).isEmpty ∨ s.behindHeld s.nextHeld (.remoteRequest r) then s.hold (.event (.remoteRequest r))
  else s.remoteDo r

/-- A scattered pair arrives. -/
def scatterIn (s : State) (p : PairMsg) : State :=
  if !s.pkg.up then s
  else if !(s.unfilled p.off p.width).isEmpty ∨ s.behindHeld s.nextHeld (.scatterPair p) then s.hold (.event (.scatterPair p))
  else s.scatterDo p

/-- A multicast message comes in by a port (R37); a device whose FABEN is 0 refuses it (R33). -/
def mcastIn (s : State) (n : Nat) (m : McastMsg) : State :=
  if !s.pkg.up then s
  else if !s.faben then (s.logDrop 6 m.tenant m.src m.group m.hops).mcastAnswer m
  else s.mcastRoute (some n) m

/-- A response arrives (R28, R33). -/
def responseIn (s : State) (r : RemoteRsp) : State :=
  if 64 < r.hops then s.logDrop 1 r.tenant r.src s.chipId r.hops else s.answerTag r.tag r.ok r.poisoned r.dat r.flags

/-- Whether what waits under a number still meets an unfilled line or stays behind another. -/
def heldWaits (s : State) (k : Nat) : Held → Bool
  | .landing m pa => !(s.unfilled pa m.data.length).isEmpty || s.held.any fun h => decide (h.1 < k) && landsBehind m h.2
  | .event i =>
    s.behindHeld k i
    || match i with
      | .remoteRequest r => !(s.unfilled r.off r.width).isEmpty
      | .scatterPair p => !(s.unfilled p.off p.width).isEmpty
      | .bar4Read fn off n => s.bar4Meets fn off n false
      | .bar4Write fn off bs => s.bar4Meets fn off bs.length true
      | _ => false

/-- Perform what waits under a number, if nothing holds it back any more (R159). -/
def retryHeld (s : State) (k : Nat) : State :=
  match FMap.find k s.held with
  | none => s
  | some h =>
    if s.heldWaits k h then s
    else
      let s : State := { s with held := FMap.erase k s.held }
      match h with
      | .landing m pa => (s.touch pa m.data.length).writeCover pa m.data
      | .event i =>
        match i with
        | .remoteRequest r => s.remoteDo r
        | .scatterPair p => s.scatterDo p
        | .bar4Read fn off n => s.bar4ReadDo fn off n
        | .bar4Write fn off bs => s.bar4WriteDo fn off bs
        | _ => s

/-- A PENDING endpoint sends BIND again (R46). -/
def lqResend (s : State) (uid q : Nat) : State :=
  let e := s.lqEnd uid q
  if e.st = .pending then s.lqSay uid q .bind else s

end State

/-! ### The events -/

def execLinkPortTrained (s : State) : EvRes :=
  .next (match s.input with | some (.linkPortTrained n w) => s.portTrained n w | _ => s)
def execFlitReceive (s : State) : EvRes := .next (match s.input with | some (.flitReceive n f) => s.flitIn n f | _ => s)
def execRetrain (s : State) : EvRes := .next (match s.input with | some (.retrain n why) => s.portRetrain n why | _ => s)
def execPortDown (s : State) : EvRes := .next (match s.input with | some (.portDown n) => s.portFails n | _ => s)
def execRouterForward (s : State) : EvRes := .next (match s.input with | some (.routerForward m) => s.forward m | _ => s)
def execRemoteRequest (s : State) : EvRes := .next (match s.input with | some (.remoteRequest r) => s.remoteReq r | _ => s)
def execRemoteResponse (s : State) : EvRes :=
  .next (match s.input with | some (.remoteResponse r) => s.responseIn r | _ => s)
def execMulticastMessage (s : State) : EvRes :=
  .next (match s.input with | some (.multicastMessage n m) => s.mcastIn n m | _ => s)
def execScatterPair (s : State) : EvRes :=
  .next (match s.input with | some (.scatterPair p) => s.scatterIn p | _ => s)
def execBind (s : State) : EvRes := .next (match s.input with | some (.bind m) => s.lqAdmit m (·.onBind m) | _ => s)
def execBindack (s : State) : EvRes := .next (match s.input with | some (.bindack m) => s.lqAdmit m (·.onBindack m) | _ => s)
def execNack (s : State) : EvRes := .next (match s.input with | some (.nack m) => s.lqAdmit m (·.onNack m) | _ => s)
def execUnbind (s : State) : EvRes := .next (match s.input with | some (.unbind m) => s.lqAdmit m (·.onUnbind m) | _ => s)
def execBindResend (s : State) : EvRes := .next (match s.input with | some (.bindResend c q) => s.lqResend c q | _ => s)
def execTileMessage (s : State) : EvRes := .next (match s.input with | some (.tileMessage m) => s.onTile m | _ => s)
def execCreditReturn (s : State) : EvRes :=
  .next (match s.input with | some (.creditReturn m) => s.lqAdmit m (·.onCredit m) | _ => s)
def execAway (s : State) : EvRes := .next (match s.input with | some (.away m) => s.lqAdmit m (·.onAway m) | _ => s)
def execAwayack (s : State) : EvRes := .next (match s.input with | some (.awayack m) => s.lqAdmit m (·.onAwayack m) | _ => s)
def execBack (s : State) : EvRes := .next (match s.input with | some (.back m) => s.lqAdmit m (·.onBack m) | _ => s)

end Sys2Proof.Machine
end

