-- ==== Sys2Proof/Machine/EvSched.lean ====
section
/-!
DEFINITION. The events of the scheduler: placement, crew end, completion, pre-emption and return, fairness, ageing and the
watchdog (03_host_launch R68, 04_scheduler R81 to R104).
-/
namespace Sys2Proof.Machine

open State

namespace State

/-- A READY head with a zero count completes without crews, its queue entry freed at once (R82, R83, R114): also with
SCHCFG.EN 0, and once RESUMEd where it is HELD (log 75). -/
def zeroCount (s : State) (seq : Nat) : State :=
  match FMap.find seq s.launches with
  | none => s
  | some l =>
    if s.isHead l ∧ l.st = .ready ∧ !l.held ∧ pkInstances l.words = 0 ∧ !s.budgetSpent l.fn ∧ !s.pkg.fatal then
      ((s.modLaunch seq fun l => { l with st := .completing }).complete { l with st := .completing }).settle
    else s

/-- A resident crew whose harts have all halted ends (R102). -/
def crewEnds (s : State) (uid : Nat) : State :=
  match s.getCrew uid with
  | none => s
  | some c => if c.place = .resident ∧ s.crewDone c then s.endCrew c else s

/-- A launch whose every crew has ended completes (R68). -/
def launchCompletes (s : State) (seq : Nat) : State :=
  match FMap.find seq s.launches with
  | none => s
  | some l => if l.st = .completing ∧ !s.pkg.fatal then s.complete l else s

/-! ### Pre-emption on behalf of a waiter (R98) -/

/-- Whether a head could place a crew on a core, were there room, and none is being made there. -/
def couldPlace (s : State) (l : Launch) (k : Nat) : Bool :=
  s.fitsTenant l k && !s.fits l k && !s.making l.claim (launchNeed l) k
  && (List.range (pkInstances l.words)).any fun n =>
    startable l n && [0, 1].any fun z => (coresThat l n z fun _ => true).contains k

/-- A READY head that fits nowhere displaces crews of one core where it could then run; with COSCHED, once for each core
it needs. -/
def waiterPreempts (s : State) (seq core : Nat) : State :=
  match FMap.find seq s.launches with
  | none => s
  | some l =>
    if !s.isHead l ∨ !s.placeable l ∨ pkClass l.words = 7 ∨ s.fitsNow (fun _ => true) l
        ∨ (!pkCosched l.words ∧ l.claim.any (s.making l.claim (launchNeed l))) then s
    else s.preemptLaunch l core fun k => if s.couldPlace l k then s.victims l.cls l.starving k else []

/-- A crew that waits to return and fits nowhere displaces crews of one core of its die where it could then run. -/
def returnerPreempts (s : State) (uid core : Nat) : State :=
  match s.getCrew uid with
  | none => s
  | some c =>
    let need := crewNeed c
    if (List.range 160).any (s.returnable c) ∨ c.claim.any (s.making c.claim.toList need) then s
    else
      match s.preemptFor need core (fun k => if s.returnOk c k then s.victims (s.crewClass c) false k else []) with
      | some s' => s'.modCrew uid fun c => { c with claim := some core }
      | none => s

def preemptFrom (s : State) (core : Nat) : PreemptWhy → State
  | .waiter seq => s.waiterPreempts seq core
  | .returning uid => s.returnerPreempts uid core

/-! ### Saving and returning (R97, R100, R101, R104) -/

/-- A crew's save is done. A crew whose launch was aborted meanwhile is scrubbed instead. -/
def saveDone (s : State) (uid : Nat) : State :=
  match s.getCrew uid with
  | none => s
  | some c =>
    let aborted := match FMap.find c.launch s.launches with
      | some (l : Launch) => decide (l.st = LState.done)
      | none => true
    if aborted then (if c.place = CrewPlace.leaving ∧ s.lqGone uid ∧ s.quiet c then (s.scrub uid).settle else s)
    else s.saveCrew uid

/-- Whether another pre-empted crew that fits is served before this one on a core: by class, then by time away, but not
before the crew that a pre-emption there was made for (R97 step 1, R98). -/
def returnsLater (s : State) (c : Crew) (core : Nat) : Bool :=
  s.allCrews.any fun d =>
    (decide (s.crewClass d < s.crewClass c) || (decide (s.crewClass d = s.crewClass c) && decide (c.away < d.away)))
    && (decide (d.claim = some core) || decide (c.claim ≠ some core)) && (List.range 160).any (s.mayReturn d)

def crewReturns (s : State) (uid core : Nat) : State :=
  match s.getCrew uid with
  | none => s
  | some c =>
    if s.returnsLater c core then s
    else
      let t := s.restoreCrew uid core
      if s.crewClass c = 7 ∧ t ≠ s then { t with gov := { t.gov with ballast := .crew uid :: t.gov.ballast } } else t

/-! ### Fairness and ageing (R96, R97) -/

/-- Deficits at a quantum boundary, in lane-µs: each tenant's weight is added and what its crews held is taken. -/
def quantumDeficits (s : State) : State :=
  let d := (List.range 16).foldl (fun (m : FMap Int) t =>
    let w : Int := (1000 * fld (s.reg (rSCHTW t)) 0 8 : Nat)
    FMap.setD 0 t (FMap.getD 0 t m + w - (FMap.getD 0 t s.gov.laneUs : Nat)) m) s.gov.deficit
  { s with gov := { s.gov with deficit := d, laneUs := [] } }

/-- Crews of a core that a head of a tenant in credit may displace: of its packet's class (log 30), of the tenant with the
lowest deficit, resident for 1 ms. -/
def quantumVictims (s : State) (l : Launch) (core : Nat) : List Crew :=
  let cs := s.allCrews.filter fun c => decide (c.place = .resident) && decide (s.crewClass c = pkClass l.words)
  let d (t : Nat) : Int := FMap.getD 0 t s.gov.deficit
  let low := cs.foldl (fun (a : Int) c => min a (d c.tenant)) (d l.fn)
  cs.filter fun c => decide (c.core = core) && decide (d c.tenant = low) && decide (c.tenant ≠ l.fn) && decide (1000 ≤ c.stay)

/-- Insert a head into a list of heads in the order of R97. -/
def insertHead (s : State) (l : Launch) : List Launch → List Launch
  | [] => [l]
  | m :: ms => if s.before m l then m :: insertHead s l ms else l :: m :: ms

/-- On behalf of a head of a tenant in credit that fits nowhere, crews of one core are displaced. -/
def quantumHead (s : State) (l : Launch) : State :=
  let vs (k : Nat) : List Crew := if s.couldPlace l k then s.quantumVictims l k else []
  if s.fitsNow (fun _ => true) l then s
  else
    match (List.range 160).find? (fun k => (s.preemptFor (launchNeed l) k vs).isSome) with
    | some k => s.preemptLaunch l k vs
    | none => s

/-- A quantum boundary, 1 ms after the last (R81): deficits are updated, and the heads of tenants in credit that fit
nowhere displace crews, in the order of R97. -/
def quantum (s : State) : State :=
  if s.time < s.gov.quantumAt + 1000 then s
  else
    let s := { s with gov := { s.gov with quantumAt := s.time } }.quantumDeficits
    let heads := s.launchList.filter fun l =>
      s.isHead l && s.placeable l && decide (pkClass l.words < 7) && decide (0 < FMap.getD 0 l.fn s.gov.deficit)
    (heads.foldr s.insertHead []).foldl quantumHead s

/-- A READY head has waited its class's threshold (R96). -/
def ageing (s : State) (seq : Nat) : State :=
  match FMap.find seq s.launches with
  | none => s
  | some l =>
    let a := fld (s.reg rAGETHR) (8 * l.cls) 8
    if !s.isHead l ∨ l.st ≠ .ready ∨ l.cls = 0 ∨ 7 ≤ l.cls ∨ a = 0 ∨ l.waitedAt < 1000 * a then s
    else if l.cls = 1 then s.modLaunch seq fun l => { l with starving := true }
    else s.modLaunch seq fun l => { l with cls := l.cls - 1, waitedAt := 0 }

/-! ### The watchdog (R81, R103, R104) -/

/-- A window expires: the crew and its spatial set are saved and marked HUNG, with their launch (log 79). -/
def watchdog (s : State) (uid : Nat) : State :=
  match s.getCrew uid with
  | none => s
  | some c =>
    match FMap.find c.launch s.launches with
    | none => s
    | some l =>
      let w := pkWdog l.words
      if w = 0 ∨ !c.issued ∨ c.hung ∨ (c.place ≠ .resident ∧ c.place ≠ .leaving) ∨ c.window < 1000 * 2 ^ (w - 1) then s
      else
        let s := s.preemptSet c
        let s := s.pushFq c.tenant false (crewRecord c l.id 0x20 0 3 0 0)
        ((s.setOf c).foldl (fun (s : State) d => s.modCrew d.uid fun d => { d with hung := true }) s).modLaunch l.seq fun l => { l with hung := true }

end State

/-! ### The events -/

def execCrewPlacement (s : State) : EvRes :=
  .next (match s.input with | some (.crewPlacement l pick z) => s.place_ l pick (b2n z) false | _ => s)
def execZeroCountLaunch (s : State) : EvRes :=
  .next (match s.input with | some (.zeroCountLaunch l) => s.zeroCount l | _ => s)
def execCrewEnd (s : State) : EvRes := .next (match s.input with | some (.crewEnd c) => s.crewEnds c | _ => s)
def execLaunchCompletion (s : State) : EvRes :=
  .next (match s.input with | some (.launchCompletion l) => s.launchCompletes l | _ => s)
def execPreemption (s : State) : EvRes := .next (match s.input with | some (.preemption k why) => s.preemptFrom k why | _ => s)
def execContextSaveDone (s : State) : EvRes :=
  .next (match s.input with | some (.contextSaveDone c) => s.saveDone c | _ => s)
def execCrewRestore (s : State) : EvRes := .next (match s.input with | some (.crewRestore c k) => s.crewReturns c k | _ => s)
def execFairnessQuantum (s : State) : EvRes := .next (match s.input with | some .fairnessQuantum => s.quantum | _ => s)
def execAgeingThreshold (s : State) : EvRes := .next (match s.input with | some (.ageingThreshold l) => s.ageing l | _ => s)
def execWatchdogExpiry (s : State) : EvRes := .next (match s.input with | some (.watchdogExpiry c) => s.watchdog c | _ => s)

end Sys2Proof.Machine
end

