-- ==== Sys2Proof/Machine/EvGov.lean ====
section
/-!
DEFINITION. The events of the governor: energy, caps and budgets, ballast, sensors, thermal states, refresh, and the adaptive loops
(05_power_thermal R109 to R132).
-/
namespace Sys2Proof.Machine

open State

namespace State

/-! ### Energy (R109 to R114) -/

/-- Package power averages as PWRSTAT shows them. -/
def setAverages (s : State) (t : Telemetry) : State :=
  (s.setRegFld rPWRSTAT 0 16 (Nat.min 65535 t.avg1)).setRegFld rPWRSTAT 16 16 (Nat.min 65535 t.avg10)

/-- Add to a 64-bit energy counter. -/
def addEnergy (s : State) (k n : Nat) : State := s.setReg k (s.reg k + BitVec.ofNat 64 n)

/-- Charge an energy register: what reads have shown since the last calibration is part of the amount (R109). -/
def chargeReg (s : State) (k n : Nat) : State :=
  ({ s with gov := { s.gov with est := FMap.erase k s.gov.est } } : State).addEnergy k (n - FMap.getD 0 k s.gov.est)

/-- Charge a crew's share of a millisecond; share 0 is the synthetic ballast's (R111). What its ENERGY has shown since
the last calibration is part of the share. -/
def chargeCrew (s : State) (uid uj : Nat) : State :=
  if uid = 0 then s.addEnergy rBALENERGY uj
  else
    let s' := s.modCrew uid fun c => { c with energy := c.energy + BitVec.ofNat 64 (uj - c.est), est := 0 }
    let who : Option (Nat × Bool) := match s.gov.left.find? (fun d => decide (d.uid = uid)) with
      | some d => some (d.tenant, d.ballast)
      | none => (s.getCrew uid).map fun c => (c.tenant, decide (s.crewClass c = 7))
    match who with
    | none => s
    | some (t, b) =>
      let s := s'.addEnergy (rTENUSED t) uj
      if b then s.addEnergy rBALENERGY uj else s

/-- Whether an estimate names something that energy is charged to: a crew on a core, one that has left it since the last
calibration, or the synthetic ballast. -/
def charged (s : State) (uid : Nat) : Bool :=
  decide (uid = 0) || s.gov.left.any (fun d => decide (d.uid = uid)) || match s.getCrew uid with
    | some c => decide (c.place = .resident) || decide (c.place = .leaving)
    | none => false

/-- Scale estimates to a total, rounded down; the first takes what rounding leaves (R109). -/
def scaleShares (total : Nat) (es : List (Nat × Nat)) : List (Nat × Nat) :=
  let sum := (es.map (·.2)).foldl (· + ·) 0
  let scaled := es.map fun p => (p.1, if sum = 0 then 0 else p.2 * total / sum)
  match scaled with
  | [] => []
  | p :: ps => (p.1, p.2 + (total - (scaled.map (·.2)).foldl (· + ·) 0)) :: ps

/-- What reads of the registers of tenants and of ballast have shown is taken out before the shares enter, and no
register falls (R109). -/
def settleEst (before : State) (s : State) (k : Nat) : State :=
  let shown := FMap.getD 0 k before.gov.est
  let added := (s.reg k - before.reg k).toNat
  (s.setReg k (before.reg k + BitVec.ofNat 64 (added - shown)))

/-- A calibration, 1 ms after the last: the estimates of crews' shares, scaled to what the core and DRAM rails measured
less the energy of idle domains, enter the counters (R109). -/
def calibrate (s : State) (t : Telemetry) (shares : List (Nat × Nat)) : State :=
  if !s.pkg.vaux ∨ s.time < s.gov.calibAt + 1000 then s
  else
    let s := ({ s with gov := { s.gov with calibAt := s.time } } : State)
    let u := ((s.chargeReg rDEVENERGY t.dev).setAverages t)
    let v := (scaleShares (t.core - t.idle) (shares.filter fun p => s.charged p.1)).foldl (fun (s : State) p => s.chargeCrew p.1 p.2) u
    let w := (rBALENERGY :: (List.range 16).map rTENUSED).foldl (settleEst s) v
    { w with gov := { w.gov with est := [], left := [] } }

/-- Energy of a launch's crews, ended ones included. -/
def launchEnergy (s : State) (l : Launch) : Nat :=
  l.energy + ((s.launchCrews l.seq).map (·.energy.toNat)).foldl (· + ·) 0

/-- A launch has reached its cap (R113). -/
def energyCapHit (s : State) (seq : Nat) : State :=
  match FMap.find seq s.launches with
  | none => s
  | some l =>
    let e := pkEcap l.words
    if e = 0 ∨ l.noCap ∨ l.st = .done ∨ s.launchEnergy l < e * 100000 then s
    else
      let s := s.pushFq l.fn false (launchRecord l 0x23 0)
      (s.modLaunch seq fun l => { l with noCap := true }).holdLaunch l

/-! ### The cap level (R117) -/

/-- Move to a cap level: ways are gated or released, and runs across the change are not measured. -/
def setCapLevel (s : State) (n : Nat) : State :=
  let s := s.setRegFld rPWRSTAT 59 5 n
  (List.range 8).foldl (fun (s : State) k => s.gateWays k) (s.spoilRuns fun _ => true)

def capRaise (s : State) : State :=
  if s.pkg.up ∧ s.capLevel < 24 ∧ fld (s.reg rPWRCFG) 0 16 < fld (s.reg rPWRSTAT) 0 16 then s.setCapLevel (s.capLevel + 1) else s

def capLower (s : State) : State :=
  if s.pkg.up ∧ 0 < s.capLevel ∧ fld (s.reg rPWRSTAT) 16 16 * 100 < fld (s.reg rPWRCFG) 0 16 * 97 then s.setCapLevel (s.capLevel - 1)
  else s

/-! ### Ballast (R121) -/

/-- Start a class-7 crew, if one may start anywhere. -/
def admitBallast (s : State) : Option State :=
  let heads := s.launchList.filter fun l => s.isHead l && s.placeable l && decide (pkClass l.words = 7) && s.fitsNow (s.openTo l) l
  match heads.find? (fun l => heads.all fun m => decide (m.seq = l.seq) || !s.before m l) with
  | none => none
  | some l =>
    let try_ (z : Nat) : Option State :=
      let t := s.place_ l.seq 0 z true
      if t.nextUid = s.nextUid then none
      else some { t with gov := { t.gov with
        ballast := ((upFrom s.nextUid (t.nextUid - s.nextUid)).map Ballast.crew).reverse ++ t.gov.ballast } }
    match try_ 0 with
    | some t => some t
    | none => try_ 1

/-- Start the synthetic ballast on a lane group of four lanes, the lowest that is idle on a core not in throttle and not at
the safe point; which group is the model's choice (log 17). -/
def admitSynth (s : State) : State :=
  let cool (core : Nat) : Bool := decide (s.thermState (dieOf core) < 2) && !s.safePoint (dieOf core)
  let free (core lane : Nat) : Bool :=
    (s.residents core).all (fun c => decide (c.baseLane + c.lanes ≤ lane) || decide (lane + 4 ≤ c.baseLane))
    && !s.gov.ballast.contains (.synth core lane 4)
  match ((List.range 160).filter cool).findSome? (fun k =>
      (((List.range 8).map (· * 4)).find? (free k)).map fun l => (k, l)) with
  | none => s
  | some (k, l) => { s with gov := { s.gov with ballast := .synth k l 4 :: s.gov.ballast } }

/-- Ballast that runs, the most recent first. -/
def liveBallast (s : State) : List Ballast := s.gov.ballast.filter fun b => match b with
  | .synth _ _ _ => true
  | .crew uid => match s.getCrew uid with
    | some c => decide (c.place = .resident)
    | none => false

/-- Evict the ballast started most recently; a crew with no room for its context stays. -/
def evictBallast (s : State) : State :=
  match s.liveBallast with
  | [] => { s with gov := { s.gov with ballast := [] } }
  | .synth _ _ _ :: bs => { s with gov := { s.gov with ballast := bs } }
  | .crew uid :: bs =>
    match s.getCrew uid with
    | none => s
    | some c =>
      if s.ctxRoomFor (s.setOf c) then ({ s with gov := { s.gov with ballast := bs } } : State).preemptSet c else s

def ballast (s : State) : State :=
  let cfg := s.reg rPWRCFG
  let sp := Nat.min (fld cfg 16 16) (fld cfg 0 16)
  let avg := fld (s.reg rPWRSTAT) 16 16
  if !s.pkg.up ∨ s.pkg.fatal ∨ fld cfg 16 16 = 0 ∨ s.capLevel ≠ 0 then s
  else if avg * 100 < sp * 98 then
    match s.admitBallast with
    | some t => t
    | none =>
      let ready := s.launchList.any fun l => s.isHead l && decide (l.st = .ready) && decide (pkClass l.words = 7)
      if bit cfg 33 && !ready then s.admitSynth else s
  else if sp * 102 < avg * 100 then s.evictBallast
  else s

/-! ### Sensors (R122 to R124). Temperatures are in 1/16 °C. -/

def sensRaw (s : State) (n : Nat) : Int := sextI (fld (s.reg (rTSENS n)) 0 16) 16
def sensEff (s : State) (n : Nat) : Int := sextI (fld (s.reg (rTSENS n)) 32 16) 16
def sensValid (s : State) (n : Nat) : Bool := decide (fld (s.reg (rTSENS n)) 62 2 = 0)

/-- The junction sensors of a sensor's die, but itself. -/
def sensMates (n : Nat) : List Nat := (upFrom (n / 32 * 32) 32).filter fun k => decide (k ≠ n)

/-- Neighbours of a sensor: three to six of its die from the fuses, or the other stacks of the die. -/
def sensNear (n : Nat) : List Nat :=
  if n < 64 then
    let l := ((Config.sensorNeighbours n).filter (sensMates n).contains).eraseDups.take 6
    if 3 ≤ l.length then l else (l ++ (sensMates n).filter fun k => !l.contains k).take 3
  else ([64, 65, 66, 67, 68, 69, 70, 71]).filter fun k => decide (k ≠ n) && decide ((k - 64) / 4 = (n - 64) / 4)

/-- The die of a sensor. -/
def sensDie (n : Nat) : Nat := if n < 64 then n / 32 else (n - 64) / 4

/-- Insert into a rising list. -/
def insertInt (x : Int) : List Int → List Int
  | [] => [x]
  | y :: ys => if x ≤ y then x :: y :: ys else y :: insertInt x ys

/-- Twice the median. -/
def median2 (xs : List Int) : Int :=
  let ys := xs.foldr insertInt []
  let n := ys.length
  if n % 2 = 1 then 2 * ys.getD (n / 2) 0 else ys.getD (n / 2 - 1) 0 + ys.getD (n / 2) 0

/-- The reading of a history at a sample, if the history reaches back to it. -/
def histAt {α : Type} (runs : List (α × Nat)) (k : Nat) : Option α := (runs.find? fun r => decide (r.2 ≤ k)).map (·.1)

/-- Readings of a history from sample `k` on. -/
def histFrom {α : Type} (k : Nat) : List (α × Nat) → List α
  | [] => []
  | r :: rs => if r.2 ≤ k then [r.1] else r.1 :: histFrom k rs

/-- A history with a new reading, without what lies before sample `k`. -/
def histAdd {α : Type} [DecidableEq α] (runs : List (α × Nat)) (v : α) (now k : Nat) : List (α × Nat) :=
  let runs := match runs with
    | r :: rs => if r.1 = v then r :: rs else (v, now) :: r :: rs
    | [] => [(v, now)]
  let rec trim : List (α × Nat) → List (α × Nat)
    | [] => []
    | r :: rs => if r.2 ≤ k then [r] else r :: trim rs
  trim runs

/-- The power history of a die. -/
def diePower (s : State) (d : Nat) : List (Nat × Nat) := if d = 0 then s.gov.power[0] else s.gov.power[1]

/-- The STATUS the checks of R123 give sensor `n`, none where every check passes. `raws` are this sample's readings; the
histories include them. -/
def sensCheck (s : State) (raws : Nat → Int) (now n : Nat) : Option Nat :=
  let raw := raws n
  let runs := (s.sensHist n).runs
  let near := (sensNear n).filter s.sensValid
  let jump := match (if 100 ≤ now then histAt runs (now - 100) else none) with
    | some old => decide (800 < raw - old) || decide (800 < old - raw)
    | none => false
  let stuck :=
    if now < 50000 then false
    else
      let vs := histFrom (now - 50000) runs
      let ps := histFrom (now - 50000) (s.diePower (sensDie n))
      match histAt runs (now - 50000), histAt (s.diePower (sensDie n)) (now - 50000) with
      | some _, some p0 =>
        decide (vs.foldl max raw - vs.foldl min raw ≤ 1) && ps.any fun p => decide (p0 < 5 * (p - p0)) || decide (p0 < 5 * (p0 - p))
      | _, _ => false
  let m := median2 (near.map raws)
  if raw < -640 ∨ 2400 < raw then some 3
  else if jump then some 1
  else if stuck then some 2
  else if 3 ≤ near.length ∧ (480 < 2 * raw - m ∨ 480 < m - 2 * raw) then some 1
  else none

/-- EFF and SUBST of a sensor (R124), from this sample's statuses and readings. -/
def sensEffect (s : State) (n : Nat) : Int × Bool :=
  let hottest (l : List Nat) : Option Int :=
    match l.map s.sensRaw with
    | [] => none
    | x :: xs => some (xs.foldl max x)
  if s.sensValid n then (s.sensRaw n, false)
  else
    let group := (List.range 72).filter fun k => decide (k ≠ n) && decide ((k < 64) = (n < 64)) && decide (sensDie k = sensDie n)
    match hottest ((sensNear n).filter s.sensValid) with
    | some t => (t + 80, true)
    | none =>
      match hottest (group.filter s.sensValid) with
      | some t => (t + 80, true)
      | none => (if n < 64 then 2400 else 1616, true)

/-- Write EFF and SUBST of every sensor. -/
def setEffects (s : State) : State :=
  (List.range 72).foldl (fun (t : State) n =>
    let e := s.sensEffect n
    t.setReg (rTSENS n) (setFld (setFld (t.reg (rTSENS n)) 32 16 (modW e.1 16)) 61 1 (b2n e.2))) s

/-- Read every sensor, check it, and set STATUS and EFF (R123, R124). -/
def readSensors (s : State) (raw : List (BitVec 16)) (t : Telemetry) : State :=
  let now := s.gov.sample + 1
  let raws (n : Nat) : Int := (raw.getD n 0).toInt
  let s1 : State := { s with gov := { s.gov with
    sample := now
    power := Vector.ofFn fun d : Fin 2 => histAdd s.gov.power[d] (if d = 0 then t.die0 else t.die1) now (now - 50000)
    hist := (List.range 72).foldl (fun m n => FMap.insert n { s.sensHist n with runs := histAdd (s.sensHist n).runs (raws n) now (now - 100000) } m)
      s.gov.hist } }
  let res := (List.range 72).map fun n => (n, s1.sensCheck raws now n)
  let s2 := res.foldl (fun (u : State) (r : Nat × Option Nat) =>
    let w := setFld (u.reg (rTSENS r.1)) 0 16 (raw.getD r.1 0).toNat
    let w := match r.2 with
      | some st => setFld w 62 2 st
      | none => w
    let h := u.sensHist r.1
    let h := { h with passed := if r.2.isSome then 0 else h.passed + 1, stats := histAdd h.stats (fld w 62 2) now (now - 100000) }
    ({ u with gov := { u.gov with hist := FMap.insert r.1 h u.gov.hist } } : State).setReg (rTSENS r.1) w) s1
  s2.setEffects

/-- A sensor that has passed every check for 1 s is VALID again. -/
def sensReturn (s : State) (n : Nat) : State :=
  let h := s.sensHist n
  if n < 72 ∧ 10000 ≤ h.passed then
    let w := s.reg (rTSENS n)
    s.setReg (rTSENS n) (setFld (setFld (setFld w 62 2 0) 61 1 0) 32 16 (fld w 0 16))
  else s

/-! ### Safe point and thermal states (R125, R126) -/

/-- Ballast leaves the cores of a die: synthetic ballast, and with `crews` class-7 crews as well. One that finds no room
for its context stays until a later sample of a critical die (R98). -/
def coolBallast (s : State) (die : Nat) (crews : Bool) : State :=
  let s : State := { s with gov := { s.gov with ballast := s.gov.ballast.filter fun b => match b with
    | .synth k _ _ => decide (dieOf k ≠ die)
    | .crew _ => true } }
  if crews then
    (s.crewsOf fun c => decide (s.crewClass c = 7) && decide (dieOf c.core = die) && decide (c.place = .resident)).foldl
      (fun (s : State) c => if s.ctxRoomFor (s.setOf c) then s.preemptSet c else s) s
  else s

/-- Either condition of R125 holds for a die. -/
def safeCond (s : State) (die : Nat) : Bool :=
  let js := upFrom (32 * die) 32
  decide (4 < (js.filter fun n => !s.sensValid n).length)
  || (upFrom (32 * die) 4).any fun n => !(sensNear n).isEmpty && (sensNear n).all fun k => !s.sensValid k

/-- The safe point after a sample: entered while a condition holds. -/
def safeUpdate (s : State) (die : Nat) : State :=
  if !s.safeCond die then s
  else
    let l := s.gov.safeLast
    let s : State := { s with gov := { s.gov with safeLast := if die = 0 then l.set 0 s.gov.sample else l.set 1 s.gov.sample } }
    if s.safePoint die then s
    else (((s.setRegFld rPWRSTAT (50 + die) 1 1).spoilRuns fun c => decide (dieOf c.core = die)).coolBallast die false).msix 0 2

/-- A die leaves its safe point after 1 s in which neither condition held; SafeCeiling is 15 again (log 18). -/
def safeExit (s : State) (die : Nat) : State :=
  let last := if die = 0 then s.gov.safeLast[0] else s.gov.safeLast[1]
  if !s.safePoint die ∨ s.safeCond die ∨ s.gov.sample < last + 10000 then s
  else
    let c := s.gov.safe
    let s : State := { s with gov := { s.gov with safe := if die = 0 then c.set 0 15 else c.set 1 15 } }
    (s.setRegFld rPWRSTAT (50 + die) 1 0).spoilRuns fun c => decide (dieOf c.core = die)

/-- SafeCeiling falls while a die at its safe point draws more than 60 % of half the cap. -/
def safeStep (s : State) (die : Nat) : State :=
  let p := match s.diePower die with
    | r :: _ => r.1
    | [] => 0
  if !s.safePoint die ∨ 10 * p ≤ 3 * fld (s.reg rPWRCFG) 0 16 then s
  else
    let cs := s.gov.safe
    let s : State := { s with gov := { s.gov with safe := if die = 0 then cs.set 0 (cs[0] - 1) else cs.set 1 (cs[1] - 1) } }
    s.spoilRuns fun c => decide (dieOf c.core = die)

/-- The points of R126 in 1/16 °C: warn, throttle, critical. -/
def thermPoint (s : State) (k : Nat) : Int :=
  if s.pkg.w65 then (if k = 1 then 1680 else if k = 2 then 1760 else 1840)
  else (if k = 1 then 1520 else if k = 2 then 1600 else 1760)

/-- Leave states whose point lies 3 °C above the temperature. -/
def thermFall (s : State) (t : Int) : Nat → Nat
  | 0 => 0
  | n + 1 => if t ≤ s.thermPoint (n + 1) - 48 then thermFall s t n else n + 1

/-- The thermal state after a sample. -/
def thermUpdate (s : State) (die : Nat) : State :=
  let t := (upFrom (32 * die) 32).foldl (fun (a : Int) n => max a (s.sensEff n)) (-32768)
  let old := s.thermState die
  let up := if s.thermPoint 3 ≤ t then 3 else if s.thermPoint 2 ≤ t then 2 else if s.thermPoint 1 ≤ t then 1 else 0
  let new := Nat.max up (s.thermFall t old)
  if new = old then s
  else
    let crit := s.gov.critAt
    let at_ := if new = 3 then some s.gov.sample else none
    let s : State := { s with gov := { s.gov with critAt := if die = 0 then crit.set 0 at_ else crit.set 1 at_ } }
    let s := (s.setRegFld rPWRSTAT (52 + 2 * die) 2 new).spoilRuns fun c => decide (dieOf c.core = die)
    let s := if old = 0 then s.msix 0 2 else s
    if new = 2 then s.coolBallast die false else s

/-- ThermalCeiling falls in throttle and hotter, and rises after it. -/
def thermStep (s : State) (die : Nat) : State :=
  let cs := s.gov.therm
  let old := if die = 0 then cs[0] else cs[1]
  let new := if 2 ≤ s.thermState die then old - 1 else Nat.min 15 (old + 1)
  if new = old then s
  else
    let s : State := { s with gov := { s.gov with therm := if die = 0 then cs.set 0 new else cs.set 1 new } }
    s.spoilRuns fun c => decide (dieOf c.core = die)

/-- Critical has lasted 1 s: a fatal error of cause 5, reported by the die. -/
def critTimeout (s : State) (die : Nat) : State :=
  match (if die = 0 then s.gov.critAt[0] else s.gov.critAt[1]) with
  | none => s
  | some k => if k + 10000 ≤ s.gov.sample then s.fatal 5 (die * 2 ^ 15) else s

/-! ### Refresh and stack trip (R127, R128) -/

/-- REFLVL and its threshold in 1/16 °C, rising. -/
def reflSteps (s : State) : List (Nat × Int) :=
  if s.pkg.w65 then [(1, 1360), (2, 1520), (3, 1632), (4, 1696)] else [(1, 1360), (3, 1520), (4, 1696)]

/-- The refresh level of a stack after a sample: a step is entered above its threshold and left 2 °C below it. -/
def reflUpdate (s : State) (k : Nat) : State :=
  let e := s.sensEff (64 + k)
  let old := fld (s.reg (rSTKCTL k)) 0 3
  let new := s.reflSteps.foldl (fun (a : Nat) p => if p.2 < e ∨ (p.1 ≤ old ∧ p.2 - 32 < e) then p.1 else a) 0
  s.setRegFld (rSTKCTL k) 0 3 new

/-- A sample (R123 to R128). -/
def sample (s : State) (raw : List (BitVec 16)) (t : Telemetry) : State :=
  if !s.pkg.vaux ∨ raw.length ≠ 72 then s
  else
    let s := (s.readSensors raw t).setAverages t
    let s := (s.safeUpdate 0).safeUpdate 1
    let s := ((s.thermUpdate 0).thermUpdate 1)
    let s := [0, 1].foldl (fun (s : State) die => if s.thermState die = 3 then s.coolBallast die true else s) s
    let s := (List.range 8).foldl (fun (s : State) k => s.reflUpdate k) s
    if (List.range 8).any fun k => decide (1760 ≤ s.sensEff (64 + k)) then s.tripDevice else s

end State

/-! ### The events -/

def execEnergyCalibration (s : State) : EvRes :=
  .next (match s.input with | some (.energyCalibration t p) => s.calibrate t p | _ => s)
def execEnergyCap (s : State) : EvRes := .next (match s.input with | some (.energyCap l) => s.energyCapHit l | _ => s)

/-- TENUSED has reached BUDGET: placement stops by the comparison itself (R114), so nothing else changes. -/
def execTenantBudgetExhausted (s : State) : EvRes := .next s

/-- An interval boundary of a tenant, INTERVAL ms after the last (R114). -/
def State.budgetInterval (s : State) (t : Nat) : State :=
  if 16 ≤ t ∨ s.time < FMap.getD 0 t s.gov.tenAt + 1000 * fld (s.reg (rTENBUD t)) 32 16 then s
  else
    ({ s with gov := { s.gov with tenAt := FMap.setD 0 t s.time s.gov.tenAt, est := FMap.erase (rTENUSED t) s.gov.est } } : State).setReg
      (rTENUSED t) 0

def execTenantBudgetInterval (s : State) : EvRes :=
  .next (match s.input with | some (.tenantBudgetInterval t) => s.budgetInterval t | _ => s)

def execCapLevelRaise (s : State) : EvRes := .next (match s.input with | some .capLevelRaise => s.capRaise | _ => s)
def execCapLevelLower (s : State) : EvRes := .next (match s.input with | some .capLevelLower => s.capLower | _ => s)
def execBallastStep (s : State) : EvRes := .next (match s.input with | some .ballastStep => s.ballast | _ => s)
def execSensorSample (s : State) : EvRes := .next (match s.input with | some (.sensorSample r t) => s.sample r t | _ => s)
def execSensorReturnValid (s : State) : EvRes := .next (match s.input with | some (.sensorReturnValid n) => s.sensReturn n | _ => s)
def execSafePointExit (s : State) : EvRes := .next (match s.input with | some (.safePointExit d) => s.safeExit (b2n d) | _ => s)
def execSafeCeilingStep (s : State) : EvRes := .next (match s.input with | some (.safeCeilingStep d) => s.safeStep (b2n d) | _ => s)
def execThermalCeilingStep (s : State) : EvRes :=
  .next (match s.input with | some (.thermalCeilingStep d) => s.thermStep (b2n d) | _ => s)
def execCriticalTimeout (s : State) : EvRes :=
  .next (match s.input with | some (.criticalTimeout d) => s.critTimeout (b2n d) | _ => s)

/-- Stretched clocks change only timing; a stretched cycle counts once in CYCLE (R132). -/
def execDroopResponse (s : State) : EvRes := .next s

/-- Retraining holds a pseudo-channel's traffic for a moment: only timing (R132). -/
def execDramRetraining (s : State) : EvRes := .next s

end Sys2Proof.Machine
end

