-- ==== Sys2Proof/Machine/EvMem.lean ====
section
/-!
DEFINITION. Scrubbing, detected errors and cache evictions (07_memory R186 to R189, 08_ordering R205, 09_traps R226, R237).
-/
namespace Sys2Proof.Machine

open State

namespace State

/-- An error the daily scrub finds in a stack's DRAM (R188): a correctable one is rewritten; an uncorrectable one poisons the
line unless the memory-side cache holds it dirty, which is open (log 9). -/
def scrubOne (s : State) (k line : Nat) (correctable : Bool) : State :=
  let pa := line * 64
  if s.dramBytes ≤ pa ∨ s.stackOf pa ≠ k then s
  else if correctable then s.faqNote k 2 pa
  else
    let (b, s) := (s.faqNote k 4 pa).takeFree
    if bit b 0 then s.setPois line true else s

/-- An uncorrectable error in a line of a scalar data cache (R186): a clean line is fetched again; a dirty one is
poisoned when it is written back, with a record that names the hart whose access causes that (R226). -/
def dcacheError (s : State) (core line : Nat) : State :=
  match s.dline core line with
  | none => s
  | some d => if d.dirty.any id then s.putDline core line { d with bad := true } else s.dropDline core line

/-- A DRAM line that a copy has registered and not filled will be filled poisoned (R192). -/
def markFilling (s : State) (line : Nat) : State :=
  { s with cregs := s.cregs.map fun r =>
      if r.lo < r.hi ∧ r.lo / 64 ≤ line ∧ line * 64 < r.hi then { r with bad := line :: r.bad } else r }

/-- A fatal error whose reporting unit the manual leaves open (R79; log 4). -/
def fatalOpen (s : State) (cause : Nat) : State :=
  let (u, s) := s.takeFree
  s.fatal cause (u.toNat % 65536)

/-- How a dump's error records name a site: its kind, where, and whether it was corrected (R79, log 13). -/
def siteRecord : ErrSite → Nat × Nat × Bool
  | .dram line c => (1, line, c)
  | .homeLine line c => (2, line, c)
  | .dcache core line c => (3, dkey core line, c)
  | .icache core line => (4, dkey core line, true)
  | .vreg slot elem c => (5, slot * 2 ^ 32 + elem, c)
  | .acc slot elem c => (6, slot * 2 ^ 32 + elem, c)
  | .tlb index => (7, index, true)
  | .walk index => (8, index, true)
  | .table _ => (9, 0, false)
  | .hartState => (10, 0, false)

/-- Note an error for a dump. -/
def noteError (s : State) (e : ErrSite) : State :=
  let r := siteRecord e
  { s with errs := (s.errs ++ [({ time := s.time, site := r.1, at_ := r.2.1, correctable := r.2.2 } : ErrRec)]).drop (s.errs.length + 1 - 1024) }

/-- What a detected error does (R186, R237). Corrected errors leave nothing but the fault-address record of DRAM. -/
def eccEffect (s : State) : ErrSite → State
  | .dram line correctable =>
    let pa := line * 64
    if s.dramBytes ≤ pa then s
    else if correctable then s.faqNote (s.stackOf pa) 1 pa
    else ((s.faqNote (s.stackOf pa) 3 pa).setPois line true).markFilling line
  | .homeLine line correctable => if correctable ∨ !s.isMem (line * 64) then s else s.setPois line true
  | .dcache core line correctable => if correctable then s else s.dcacheError core line
  | .icache core line => { s with icache := FMap.erase (dkey core line) s.icache }
  | .vreg slot elem correctable =>
    if correctable then s
    else s.modHart slot fun h =>
      if elem * 4 < h.nreg * h.vlenb then { h with vpois := (upFrom (4 * elem) 4).foldl (fun m b => FMap.setD false b true m) h.vpois } else h
  | .acc slot elem correctable =>
    if correctable then s
    else s.modHart slot fun h => if elem < h.tiles * 4096 then { h with accPois := FMap.setD false elem true h.accPois } else h
  | .tlb index => { s with tlb := s.tlb.eraseIdx index }
  | .walk index => { s with walks := s.walks.eraseIdx index }
  | .table invariant => s.fatalOpen (if invariant then 4 else 1)
  | .hartState => s.fatalOpen 1

/-- An error is detected: it is noted, and acts. -/
def eccError (s : State) (e : ErrSite) : State := (s.noteError e).eccEffect e

end State

def execDramScrub (s : State) : EvRes :=
  .next (match s.input with
    | some (.dramScrub k found) => found.foldl (fun (s : State) p => s.scrubOne k p.1 p.2) s
    | _ => s)
def execEccError (s : State) : EvRes := .next (match s.input with | some (.eccError e) => s.eccError e | _ => s)
def execCacheEviction (s : State) : EvRes := .next (match s.input with | some (.cacheEviction k l) => s.evictAlone k l | _ => s)

end Sys2Proof.Machine
end

