-- ==== Sys2Proof/Machine/ScalarFp.lean ====
section
/-!
DEFINITION. Scalar floating point (13_scalar_system R316 to R320).
-/
namespace Sys2Proof.Machine

open State

/-- The format of a suffix. -/
def sfmt (d : Bool) : Fmt := if d then fp64 else fp32

/-- A scalar FP operand: .S reads bits [31:0] (R261). -/
def fpx (d : Bool) (w : Word) : Nat := if d then w.toNat else w.toNat % 2 ^ 32

/-- Write a result with its flags and retire (R320). -/
def fpOp (rd : Reg) (r : FRes) (s : State) : Res := regOp rd (nw r.1) (s.addFlags r.2)

def execFadd (d : Bool) (rd rs1 rs2 : Reg) (s : State) : Res :=
  fpOp rd (fpAdd (sfmt d) s.frm (fpx d (s.x rs1)) (fpx d (s.x rs2))) s
def execFsub (d : Bool) (rd rs1 rs2 : Reg) (s : State) : Res :=
  fpOp rd (fpSub (sfmt d) s.frm (fpx d (s.x rs1)) (fpx d (s.x rs2))) s
def execFmul (d : Bool) (rd rs1 rs2 : Reg) (s : State) : Res :=
  fpOp rd (fpMul (sfmt d) s.frm (fpx d (s.x rs1)) (fpx d (s.x rs2))) s
def execFdiv (d : Bool) (rd rs1 rs2 : Reg) (s : State) : Res :=
  fpOp rd (fpDiv (sfmt d) s.frm (fpx d (s.x rs1)) (fpx d (s.x rs2))) s
def execFsqrt (d : Bool) (rd rs1 : Reg) (s : State) : Res := fpOp rd (fpSqrt (sfmt d) s.frm (fpx d (s.x rs1))) s
def execFmin (d : Bool) (rd rs1 rs2 : Reg) (s : State) : Res :=
  fpOp rd (fpMinMax (sfmt d) false (fpx d (s.x rs1)) (fpx d (s.x rs2))) s
def execFmax (d : Bool) (rd rs1 rs2 : Reg) (s : State) : Res :=
  fpOp rd (fpMinMax (sfmt d) true (fpx d (s.x rs1)) (fpx d (s.x rs2))) s

/-- FCMP: 0 eq, 1 ne, 2 lt, 3 le; a condition of 4 to 15 is no encoding. -/
def execFcmp (d : Bool) (cond : BitVec 4) (rd rs1 rs2 : Reg) (s : State) : Res :=
  if 4 ≤ cond.toNat then trapHere .illegal 0 s.parcel s
  else
    let r := fpCompare (sfmt d) cond.toNat (fpx d (s.x rs1)) (fpx d (s.x rs2))
    fpOp rd (b2n r.1, r.2) s

def execFclass (d : Bool) (rd rs1 : Reg) (s : State) : Res := regOp rd (nw (fpClassify (sfmt d) (fpx d (s.x rs1)))) s

/-- The result of an FCVT kind as a 64-bit pattern, with flags (R318). -/
def fcvtOf (d : Bool) (rm kind : Nat) (a : Word) : FRes :=
  let f := sfmt d
  match kind with
  | 0 => fpToInt f rm true 64 (fpx d a)
  | 1 => fpToInt f rm false 64 (fpx d a)
  | 2 => let r := fpToInt f rm true 32 (fpx d a); ((sextW r.1 32).toNat, r.2)
  | 3 => fpToInt f rm false 32 (fpx d a)
  | 4 => intToFp f rm false a.toInt
  | 5 => intToFp f rm false a.toNat
  | 6 => intToFp f rm false (sextI a.toNat 32)
  | 7 => intToFp f rm false (a.toNat % 2 ^ 32 : Nat)
  | _ => fpCvt (sfmt !d) f rm false (fpx (!d) a)

def execFcvt (d : Bool) (kind : BitVec 4) (rd rs1 : Reg) (s : State) : Res :=
  if 9 ≤ kind.toNat then trapHere .illegal 0 s.parcel s
  else fpOp rd (fcvtOf d s.frm kind.toNat (s.x rs1)) s

def execFma (d : Bool) (rd rs1 rs2 rs3 : Reg) (s : State) : Res :=
  fpOp rd (fpFma (sfmt d) s.frm false false (fpx d (s.x rs1)) (fpx d (s.x rs2)) (fpx d (s.x rs3))) s

end Sys2Proof.Machine
end

