-- ==== Sys2Proof/Machine/Arbiter.lean ====
section
/-!
DEFINITION. The arbiter of a lane group: occupancies and the deficit round robin that shares it among a crew's harts (04_scheduler
R95; 06_core R134, R148).
-/
namespace Sys2Proof.Machine

open State

/-! ### Occupancy (R148) -/

/-- Occupancy of an instruction whose widest elements lie `e` to an element group. -/
def occOf (s : State) (e : Nat) (i : Instr) : Nat :=
  let groups := ceilDiv s.nElems e
  let steps := if shK s = 0 then 1 else ceilDiv (shK s) (if s.ebytes = 2 then 2 else 4)
  let elems (k extra : Nat) : Nat := if s.nElems = 0 then 1 else k * groups + extra
  match i with
  | .vdiv .. | .vrem .. | .vfdiv .. | .vfsqrt .. | .vpivdiv .. => elems 4 0
  | .vfrec .. | .vfrsq .. | .vfrecref .. | .vfrsqref .. | .vfexp2 .. | .vflog2 .. => elems 4 0
  | .vslideup .. | .vslidedn .. | .vperm .. | .vcompress .. | .vexpand .. => elems 2 0
  | .vredsum .. | .vredosum .. | .vredmax .. | .vredmin .. | .vredand .. | .vredor .. => elems 1 8
  | .viota .. | .vsegscan .. | .vnzscan .. | .vtopk .. => elems 1 8
  | .mopa .. | .mops .. | .mopag .. => steps
  | .mtrd .. | .mtwr .. => if s.nElems = 0 then 1 else s.vrc
  | .vld .. | .vlds .. | .vldx .. | .vldt .. | .vst .. | .vsts .. | .vstx .. | .vstt .. => elems 1 0
  | .vadd .. | .vsub .. | .vrsub .. | .vmul .. | .vmulh .. | .vmin .. | .vmax .. | .vand .. | .vor .. | .vxor .. | .vsll .. => elems 1 0
  | .vsrl .. | .vsra .. | .vsadd .. | .vssub .. | .vnclip .. | .vwmul .. | .vcmp .. | .vmerge .. | .vmv .. | .vbcast .. => elems 1 0
  | .vfadd .. | .vfsub .. | .vfmul .. | .vfmin .. | .vfmax .. | .vfsgn .. | .vfclass .. | .vfcmp .. | .vfma .. => elems 1 0
  | .vfcvt .. | .vfcvti .. | .vicvtf .. | .viext .. | .vmlogic .. => elems 1 0
  | _ => 1

/-- Occupancy of the instruction at the head of a vector queue: a convoy's is that of its longest member. -/
def occupancy (s : State) : Instr → Nat
  | .convoy h ws =>
    match decodeMembers h ws 0 with
    | .ok ms => ms.foldl (fun o m => Nat.max o (occOf s (s.groupE (widest s ms)) m.ins)) 1
    | .error _ => 1
  | i => occOf s (s.groupE (widest s [{ ix := 0, word := 0, unit := 0, ins := i }])) i

/-- Whether an instruction of `n` parcels goes through the vector queue (R134). -/
def queued (n : Nat) : Instr → Bool
  | .vsetl _ _ _ ds => ds.isSome
  | .vdecl .. | .dscfg .. | .dsclr .. | .xcopy .. | .xwait .. => false
  | .undefinedEncoding .. | .fetchFault .. => false
  | _ => decide (2 ≤ n)

/-! ### The arbiter (R95) -/

/-- What the arbiter does for the hart that is current: its head issues, its head stays where it is, or the visit
belongs to another hart, whose head it has seen issuable. -/
inductive Grant where
  | go (s : State)
  | stay (s : State)
  | other (slot : Nat)

/-- What the arbiter knows a head by: its address and the instructions retired before it. -/
def Hart.headKey (h : Hart) : Word × Word := (h.pc, h.csr.instret)

/-- The instruction has issued before and goes on. -/
def Hart.underWay (h : Hart) : Bool := !h.asked.isEmpty || !h.answers.isEmpty || h.lockRun.isSome || h.merging

/-- Another hart's convoy holds the lane group: a convoy is never interleaved with another hart's instructions. -/
def State.convoyHolds (s : State) : Bool :=
  match s.crew.convoy with
  | none => false
  | some v =>
    decide (v.1 ≠ s.hart.idx)
    && match s.getHart (slotOf s.crew.uid v.1) with
      | some h => inConvoy h v && !h.halted && !h.stopped
      | none => false

/-- The arbiter has seen a hart's head issuable and has not issued it. -/
def State.headWaits (s : State) (i : Nat) : Bool :=
  match s.getHart (slotOf s.crew.uid i) with
  | some h => decide (h.head = some (false, h.headKey)) && !h.halted && !h.stopped
  | none => false

/-- The deficit of a hart as the arbiter finds it: what a head that issued and then stalled had left is lost. -/
def Hart.found (h : Hart) : Nat := if h.head = some (true, h.headKey) then 0 else h.deficit

/-- Set what the arbiter keeps of the current hart. -/
def State.arbSet (s : State) (deficit : Nat) (granted : Bool) : State :=
  (s.onHart fun h => { h with deficit, head := some (granted, h.headKey) }).onCrew fun c => { c with arb := s.hart.idx }

/-- The arbiter at a turn of the current hart, whose head has an occupancy. While the arbiter is at the hart, its heads
issue for as long as its deficit lasts; else the arbiter goes round. The harts it passes have no issuable head and lose
their deficits; one whose head it has seen is visited first. Whether a head has come to a queue is a matter of timing,
which the schedule decides (log 2). -/
def arbiter (occ : Nat) (s : State) : Grant :=
  let d := s.hart.found
  if s.hart.underWay then .go s
  else if s.convoyHolds then .stay s
  else if s.crew.convoy.any (inConvoy s.hart) then .go s
  else if s.crew.arb = s.hart.idx ∧ s.hart.head ≠ some (false, s.hart.headKey) ∧ occ ≤ d then .go (s.arbSet (d - occ) true)
  else
    let ring := (upFrom (s.crew.arb + 1) s.crew.hg).map (· % s.crew.hg)
    match ring.find? fun i => decide (i = s.hart.idx) || s.headWaits i with
    | none => .stay s
    | some i =>
      if i ≠ s.hart.idx then .other (slotOf s.crew.uid i)
      else
        let passed := ring.takeWhile (· ≠ s.hart.idx)
        let s := passed.foldl (fun s i => s.modHart (slotOf s.crew.uid i) fun h => { h with deficit := 0, head := none }) s
        let d := d + 16 * s.hart.csr.hweight.toNat
        if occ ≤ d then .go (s.arbSet (d - occ) true) else .stay (s.arbSet d false)

end Sys2Proof.Machine
end

