-- ==== Sys2Proof/Machine/Sequence.lean ====
section
/-!
DEFINITION. What happens next: the schedule's moves (log 2), time, imprecise traps, instruction fetch and decoding (04 R81, R94, R97;
08 R209, R212; 09 R227; 12 R281, R282).
-/
namespace Sys2Proof.Machine

open State

/-- What a step comes to: an instruction or event to execute, nothing more to do, or a schedule that names no hart. -/
inductive Turn where
  | run (i : Instr) (s : State)
  | done (s : State)
  | stop (f : Fault)

/-! ### Time -/

/-- What passing time does to a crew (R81, R97, R103, R116); CYCLE counts at its core's effective point (R106, R107). -/
def ageCrew (s : State) (dt : Nat) (c : Crew) : Crew :=
  match c.place with
  | .resident | .leaving =>
    { c with window := c.window + dt, stay := c.stay + dt, runTime := c.runTime + dt, cyc := 0
             cycle := c.cycle + nw (dt * codeMHz (s.effPoint c.core).1 - c.cyc) }
  | .saved => { c with away := c.away + dt }
  | .ended => c

/-- What passing time does to a launch that waits at the head of its queue in READY (R96). -/
def ageLaunch (s : State) (dt : Nat) (l : Launch) : Launch :=
  if l.st = .ready ∧ s.isHead l then { l with waitedAt := l.waitedAt + dt } else l

/-- Lane-µs that tenants' crews hold (R97). -/
def ageLanes (s : State) (dt : Nat) : FMap Nat :=
  (s.allCrews.filter fun c => decide (c.place = .resident) || decide (c.place = .leaving)).foldl (fun (m : FMap Nat) c =>
    FMap.setD 0 c.tenant (FMap.getD 0 c.tenant m + dt * c.lanes) m) s.gov.laneUs

/-- `dt` µs pass. -/
def advanceTime (dt : Nat) (s : State) : State :=
  if dt = 0 then s
  else
    let lanes := ageLanes s dt
    { s with
      time := s.time + dt
      crew := ageCrew s dt s.crew
      crews := s.crews.map fun p => (p.1, ageCrew s dt p.2)
      launches := s.launches.map fun p => (p.1, ageLaunch s dt p.2)
      gov := { s.gov with laneUs := lanes } }

/-! ### A hart's step -/

/-- Whether the current hart issues instructions: its crew is on its core and neither it nor the crew has stopped; a
VLOCK that has begun its swaps, and an instruction that has sent an update, go on to their ends (R99, R216). -/
def canIssue (s : State) : Bool :=
  s.hart.live && !s.hart.halted && !s.hart.stopped
    && (s.hart.lockRun.isSome || (s.hart.mustFinish && decide (s.crew.place ≠ .saved)) || (!s.crew.faulted && decide (s.crew.place = .resident)))

/-- Whether a pending imprecise report is taken now: application mode, and no instruction has begun (R227). -/
def impDue (s : State) : Bool :=
  s.hart.imp.isSome && !s.sysMode && s.hart.asked.isEmpty && s.hart.answers.isEmpty && s.hart.lockRun.isNone && s.hart.barAt.isNone
    && !s.hart.barGo && !s.hart.merging

/-- The current hart is no longer blocked at a queue. -/
def State.unblock (s : State) : State :=
  s.onCrew fun c => { c with qs := c.qs.map fun q =>
    { q with wstop := q.wstop && decide (q.writer ≠ some s.hart.idx), rstop := q.rstop && decide (q.reader ≠ some s.hart.idx) } }

/-- IMPRECISE_TRAP: the report is taken before the next instruction, whose address TPC holds. -/
def execImpreciseTrap (s : State) : Res :=
  match s.hart.imp with
  | none => .next s
  | some r =>
    let s := s.onHart fun h => { h with imp := none, csr := { h.csr with tstat := setFld h.csr.tstat 7 1 0 } }
    .next ((s.takeTrap r.cause r.sub r.tval s.hart.pc true).unblock)

/-- What fetching an instruction's parcels gives. -/
inductive FetchedAll where
  | parcels (ps : List Parcel) (s : State)
  | fault (va sub : Nat)
  /-- a line that a copy has not filled (R159, R160) -/
  | stop (e : Exit)

/-- Fetch `n` parcels from an address on. -/
def fetchN (va : Nat) : Nat → State → FetchedAll
  | 0, s => .parcels [] s
  | n + 1, s =>
    match s.fetch (va % 2 ^ 64) with
    | .fault sub => .fault (va % 2 ^ 64) sub
    | .stop e => .stop e
    | .parcel p s =>
      match fetchN (va + 4) n s with
      | .parcels ps s => .parcels (p :: ps) s
      | e => e

/-- Fetch the instruction at the program counter: its first parcel says how many it has (R281, R282). -/
def fetchInstr (s : State) : FetchedAll :=
  let pc := s.hart.pc.toNat
  match fetchN pc 1 s with
  | .parcels (p :: _) s' =>
    match fetchN (pc + 4) (parcelCount p - 1) s' with
    | .parcels ps s'' => .parcels (p :: ps) s''
    | e => e
  | e => e

/-- The crew of a hart that issues: the watchdog's window begins at its first instruction (R81). -/
def State.noteIssue (s : State) : State := if s.crew.issued then s else s.onCrew fun c => { c with issued := true, window := 0 }

/-- A convoy that its hart has left, for a handler or another instruction, holds the lane group no longer (R95). -/
def State.leftConvoy (s : State) : State :=
  match s.crew.convoy with
  | some v => if v.1 = s.hart.idx ∧ !inConvoy s.hart v then s.onCrew fun c => { c with convoy := none } else s
  | none => s

/-- The instruction decoded from parcels, as the current hart executes it. A VLOCK's parcels stay with the hart until
its end. -/
def decoded (ps : List Parcel) (s : State) : Turn :=
  let s := s.noteIssue
  match decode ps with
  | .error _ => .run (.undefinedEncoding (ps.headD 0)) s
  | .ok (.vlock md xb vi m) =>
    let pc := s.hart.pc.toNat
    .run (.vlock md xb vi m) (s.onHart fun h => { h with
      ibuf := FMap.insert pc (ps.headD 0) (FMap.insert (pc + 4) (ps.getD 1 0) h.ibuf) })
  | .ok i => .run i s

/-- The instruction that stands at the program counter, as the current hart is to execute it. One for the vector queue
passes the arbiter; `other` is the turn of a hart whose head comes first (R95). -/
def issue (other : State → Turn) (s : State) : Turn :=
  match fetchInstr s with
  | .stop e => .done (e.inOrder s).state
  | .fault va sub => .run (.fetchFault (nw va) (BitVec.ofNat 4 sub)) s
  | .parcels ps s' =>
    let s' := s'.onHart fun h => { h with ir := ps.headD 0 }
    match decode ps with
    | .ok i =>
      if queued ps.length i then
        match arbiter (occupancy s' i) s' with
        | .go t => decoded ps t
        | .stay t => .done t
        | .other slot => match s.focus slot with | some t => other t | none => .done s
      else decoded ps s'
    | .error _ => decoded ps s'

/-- The current hart's turn: refused stores that are due are reported, and a report that is due is taken as a trap once
everything older has completed (R226, R227); else the next instruction executes. -/
def turnOf (other : State → Turn) (stop : Option Nat) (s : State) : Turn :=
  if !canIssue s then .done s
  else
    let s := ((s.settlePosted s.cur).leftConvoy).onHart fun h => { h with limit := stop }
    if impDue s then (if s.hart.pend.isEmpty then .run .impreciseTrap s else .done s) else issue other s

/-- The turn of the current hart, or of another of its crew that the arbiter visits first. -/
def hartTurn (stop : Option Nat) (s : State) : Turn := turnOf (turnOf .done none) stop s

/-! ### The other moves -/

/-- A hart fetches a parcel before its turn (R212). -/
def prefetchMove (slot va : Nat) (s : State) : State :=
  match s.focus slot with
  | none => s
  | some t =>
    if (FMap.find va t.hart.ibuf).isSome then s
    else
      match t.fetch va with
      | .parcel p t => t.onHart fun h => { h with ibuf := FMap.insert va p h.ibuf }
      | _ => s

/-- How many instructions younger than the one at the program counter may be under way: a convoy's header and members in
each of the 16 entries of the vector queue, and the 64 of the run-ahead window (R134, R135). -/
def runAhead : Nat := 17 * 7 + 64

/-- A load of a younger instruction reads local memory before its turn, one of two pages in its two parts (R135, R196). A
load of the hart to the same bytes that comes later in program order and has been performed does not stand (R195). -/
def earlyMove (slot ahead : Nat) (scalar : Bool) (va : Word) (n : Nat) (s : State) : State :=
  match s.focus slot with
  | none => s
  | some t =>
    if canIssue t && decide (0 < ahead ∧ ahead ≤ runAhead) && decide (0 < n ∧ n ≤ 8) && decide (va.toNat % 2 ^ 17 + n ≤ 2 ^ 17) then
      match (t.reach .read va.toNat n).toOption.map t.place with
      | some (.mem pa) =>
        match readMem scalar va pa n t with
        | .ok (v, t) =>
          let at_ := t.hart.csr.instret + nw ahead
          let stands (e : EarlyRead) : Bool := !meets e.pa e.n pa n || decide (2 ^ 63 ≤ (e.at_ - at_).toNat)
          t.onHart fun h => { h with early := { at_, scalar, pa, n, v } :: h.early.filter stands }
        | .error _ => s
      | _ => s
    else s

/-- A queued store is performed, if none before it is of its slice (R197). -/
def performMove (slot k : Nat) (s : State) : State :=
  match s.focus slot with
  | none => s
  | some t =>
    match t.hart.stq[k]? with
    | none => s
    | some q => if (t.hart.stq.take k).any (fun p => decide (sliceOf p.pa = sliceOf q.pa)) then s else t.performAll fun p => decide (p = q)

/-- The addresses of the table entries that a walk reads (R176 to R178). -/
def walkReads (s : State) (tenant asid va : Nat) : List Nat :=
  let i (l : Nat) : Nat := va / 2 ^ (17 + 12 * l) % 2 ^ 12
  match s.walkContext tenant asid with
  | .error _ => []
  | .ok root =>
    (fld (s.reg (rTENPT tenant)) 15 38 * 2 ^ 15 + 8 * asid) :: (root + 8 * i 2) :: match s.readEntry 2 root (i 2) va with
      | .ok (.inl t1) => (t1 + 8 * i 1) :: match s.readEntry 1 t1 (i 1) va with
        | .ok (.inl t0) => [t0 + 8 * i 0]
        | _ => []
      | _ => []

/-- A walk's reads are accesses to their lines (R172). -/
def walked (tenant asid va : Nat) (s : State) : State := (walkReads s tenant asid va).foldl (fun s a => s.touch a 8) s

/-- A translation is cached (R181); in a group marked CONTIG the entry of any member may serve (R180). -/
def tlbFillMove (tenant asid va member : Nat) (s : State) : State :=
  let page := va / 2 ^ 17
  let s := walked tenant asid va s
  let put (l : Leaf) (frame : Nat) : State :=
    { s with tlb := { tenant, asid, page, flags := l.flags, frame, reach := l.reach } :: s.tlb }
  let k := member % 32
  let other := (page / 32 * 32 + k) * 2 ^ 17
  match s.walk tenant asid other with
  | .ok l =>
    if l.reach = 1 then put l ((l.frame + (page % 32) * 2 ^ 17 + (2 ^ 53 - k * 2 ^ 17)) % 2 ^ 53)
    else
      match s.walk tenant asid va with
      | .ok l => put l l.frame
      | .error _ => s
  | .error _ =>
    match s.walk tenant asid va with
    | .ok l => put l l.frame
    | .error _ => s

/-- A table pointer is cached (R181). -/
def walkFillMove (tenant asid va level : Nat) (s : State) : State :=
  let s := walked tenant asid va s
  let put (index table : Nat) : State := { s with walks := { tenant, asid, level, index, table } :: s.walks }
  match s.walkContext tenant asid with
  | .error _ => s
  | .ok root =>
    if level = 3 then put 0 root
    else
      match s.readEntry 2 root (va / 2 ^ 41 % 2 ^ 12) va with
      | .ok (.inl t1) =>
        if level = 2 then put (va / 2 ^ 41) t1
        else
          match s.readEntry 1 t1 (va / 2 ^ 29 % 2 ^ 12) va with
          | .ok (.inl t0) => if level = 1 then put (va / 2 ^ 29) t0 else s
          | _ => s
      | _ => s

/-- Bytes that the read streams of the current crew's harts hold of an engine's strip buffer (R151). -/
def stripUsed (s : State) (engine : Nat) : Nat :=
  ((s.crewHarts s.crew).map fun h =>
    ((List.range 4).map fun j => match h.2.ds[engine * 4 + j]? with | some d => d.buf.length * d.width | none => 0).sum).sum

/-- A read stream fetches an element of its pattern that it does not hold, where its engine's 32 KiB strip buffer has
room (R149, R151, R209). A fault is kept for the port's next consumer. -/
def streamFetchMove (slot port elem : Nat) (s : State) : State :=
  match s.focus slot with
  | none => s
  | some t =>
    let p : BitVec 3 := BitVec.ofNat 3 port
    let d := t.stream p
    if d.st = .read ∧ d.pos ≤ elem ∧ elem < d.total ∧ FMap.find elem d.buf = none ∧ t.crew.place = .resident
        ∧ stripUsed t (p.toNat / 4) + d.width ≤ 32768 then
      match streamElem p (elem - d.pos) t with
      | .ok (v, t) => t.setStream p { t.stream p with buf := FMap.insert elem v d.buf }
      | .error (.trap ..) | .error (.host ..) => t.setStream p { d with fault := true }
      | .error _ => s
    else s

/-- A write stream writes its oldest appended element (R149, R209). -/
def streamWriteMove (slot port : Nat) (s : State) : State :=
  match s.focus slot with
  | none => s
  | some t =>
    let p : BitVec 3 := BitVec.ofNat 3 port
    match (t.stream p).pend with
    | [] => s
    | e :: es =>
      if t.crew.place = .resident then
        let (left, t) := writeOut p [e] t
        putPend p (left ++ es) t
      else s

/-- The code under which a dump lists an event of the scheduler or the governor (R79, log 13). -/
def eventCode : Input → Option Nat
  | .crewPlacement .. => some 1 | .zeroCountLaunch _ => some 2 | .crewEnd _ => some 3 | .launchCompletion _ => some 4
  | .preemption .. => some 5 | .contextSaveDone _ => some 6 | .crewRestore .. => some 7 | .fairnessQuantum => some 8
  | .ageingThreshold _ => some 9 | .watchdogExpiry _ => some 10 | .energyCalibration .. => some 11 | .energyCap _ => some 12
  | .tenantBudgetExhausted _ => some 13 | .tenantBudgetInterval _ => some 14 | .capLevelRaise => some 15
  | .capLevelLower => some 16 | .ballastStep => some 17 | .sensorSample .. => some 18 | .sensorReturnValid _ => some 19
  | .safePointExit _ => some 20 | .safeCeilingStep _ => some 21 | .thermalCeilingStep _ => some 22 | .criticalTimeout _ => some 23
  | _ => none

/-- An event happens; those of the scheduler and the governor are noted for a dump. -/
def eventTurn (i : Input) (s : State) : Turn :=
  .run i.instr { s with
    input := some i
    events := match eventCode i with
      | some code => (s.events ++ [({ time := s.time, code } : EvRec)]).drop (s.events.length + 1 - 4096)
      | none => s.events }

/-- The oldest link-queue message between endpoints of this device arrives (R46). -/
def deliverTurn (s : State) : Turn :=
  match s.wire with
  | [] => .done s
  | i :: r => eventTurn i { s with wire := r }

/-- One move of the schedule. -/
def moveTurn (m : Move) (s : State) : Turn :=
  match m with
  | .hart dt slot stop =>
    match (advanceTime dt s).focus slot with
    | none => .stop .noSuchHart
    | some s => hartTurn stop s
  | .event dt i => eventTurn i (advanceTime dt s)
  | .deliver dt => deliverTurn (advanceTime dt s)
  | .prefetch slot va => .done (prefetchMove slot va s)
  | .tlbFill tenant asid va member => .done (tlbFillMove tenant asid va member s)
  | .tlbDrop index => .done { s with tlb := s.tlb.eraseIdx index }
  | .walkFill tenant asid va level => .done (walkFillMove tenant asid va level s)
  | .iDrop core line => .done { s with icache := FMap.erase (dkey core line) s.icache }
  | .retry k => .done (s.retryHeld k)
  | .adapt port => .done (s.adaptPort port)
  | .early slot ahead scalar va n => .done (earlyMove slot ahead scalar va n s)
  | .late slot n => .done (s.modHart slot fun h => { h with late := n })
  | .perform slot k => .done (performMove slot k s)
  | .streamFetch slot port elem => .done (streamFetchMove slot port elem s)
  | .streamWrite slot port => .done (streamWriteMove slot port s)
  | .copyFill slot ch n => .done (copyProgress s slot ch n)
  | .side addr bytes read => .done (s.sideTransact addr bytes read)
  | .uartText text => .done (s.uartText text)
  | .uartIn _ => .done s
  | .avs select c => .done (s.avs select c)
  | .runtime c => .done (s.installRuntime c)
  | .msixMask fn vec masked => .done (s.setMsixMask fn vec masked)

/-! ### With no move named -/

/-- Harts that may issue, by slot. -/
def issuers (s : State) : List Nat :=
  let t := s.flush
  t.harts.filterMap fun p =>
    match t.focus p.1 with
    | some f => if canIssue f then some p.1 else none
    | none => none

/-- The hart after the current one in slot order, going round. -/
def nextHart (s : State) : Option Nat :=
  let hs := issuers s
  match hs.find? (fun k => decide (s.cur < k)) with
  | some k => some k
  | none => hs.head?

/-- An access that waits for a fill and may now be performed. -/
def readyHeld (s : State) : Option Nat := (s.held.find? fun h => !s.heldWaits h.1 h.2).map (·.1)

/-- A hart that has queued stores. -/
def queuedHart (s : State) : Option Nat := (s.flush.harts.find? fun h => !h.2.stq.isEmpty).map (·.1)

/-- Where the schedule names nothing, a message in flight arrives, an access that waited or queued stores are performed,
or else the next hart takes its turn. -/
def idleTurn (s : State) : Turn :=
  match s.wire with
  | _ :: _ => deliverTurn s
  | [] =>
    match readyHeld s with
    | some k => .done (s.retryHeld k)
    | none =>
      match queuedHart s with
      | some k => .done (performMove k 0 s)
      | none =>
        match nextHart s with
        | none => .done s
        | some k =>
          match s.focus k with
          | some s => hartTurn none s
          | none => .done s

/-- What the next step does. -/
def State.turn (s : State) : Turn :=
  match s.moves with
  | [] => idleTurn s
  | m :: ms => moveTurn m { s with moves := ms }

/-! ### Placing an instruction -/

/-- The hart that a placed instruction is for; the arbiter is at it. -/
def placeHart (s : State) : State :=
  let s := (s.onHart fun h => { h with
    live := true, halted := false, stopped := false, imp := none, ibuf := [], lockRun := none, deficit := 2 ^ 64
    head := none }).onCrew fun c =>
      { c with live := true, faulted := false, place := .resident, arb := s.hart.idx, convoy := none }
  { s with cur := slotOf s.crew.uid s.hart.idx, moves := [.hart 0 (slotOf s.crew.uid s.hart.idx) none] }

/-- Map the program counter's page and the next to the first two frames of die 0's shared store, with translation
enabled and nothing cached or poisoned there. -/
def placeMap (s : State) : State :=
  let page := s.hart.pc.toNat / 2 ^ 17
  let entry (k : Nat) : TlbEntry :=
    { tenant := s.crew.tenant, asid := s.crew.asid, page := page + k, flags := 0x3F, frame := 0x7000000000 + k * 2 ^ 17, reach := 0 }
  { s.setRegFld (rTENPT s.crew.tenant) 63 1 1 with tlb := entry 0 :: entry 1 :: s.tlb, icache := [], cregs := [], pois := [] }

/-- The bytes of an instruction whose bits are `w`, its parcels in order, each little-endian (R281). -/
def placeBytes (nbits w : Nat) (s : State) : State :=
  s.writeBytes (0x7000000000 + s.hart.pc.toNat % 2 ^ 17) (bytesLE 56 (w % 2 ^ nbits))

end Sys2Proof.Machine
end

