-- ==== Sys2Proof/Machine/Dispatch.lean ====
section
/-!
DEFINITION. What each step does: one arm per constructor of `Instr`.
-/
namespace Sys2Proof.Machine

/-- The effect of a decoded instruction or of an event of the opcode table. -/
def exec (i : Instr) (s : State) : Host.Outcome State Fault Refusal :=
  match i with
  | .convoy header members => Sys2Proof.Machine.execConvoy header members s
  | .add rd rs1 rs2 => Sys2Proof.Machine.execAdd rd rs1 rs2 s
  | .sub rd rs1 rs2 => Sys2Proof.Machine.execSub rd rs1 rs2 s
  | .and rd rs1 rs2 => Sys2Proof.Machine.execAnd rd rs1 rs2 s
  | .or rd rs1 rs2 => Sys2Proof.Machine.execOr rd rs1 rs2 s
  | .xor rd rs1 rs2 => Sys2Proof.Machine.execXor rd rs1 rs2 s
  | .sll rd rs1 rs2 => Sys2Proof.Machine.execSll rd rs1 rs2 s
  | .srl rd rs1 rs2 => Sys2Proof.Machine.execSrl rd rs1 rs2 s
  | .sra rd rs1 rs2 => Sys2Proof.Machine.execSra rd rs1 rs2 s
  | .slt rd rs1 rs2 => Sys2Proof.Machine.execSlt rd rs1 rs2 s
  | .sltu rd rs1 rs2 => Sys2Proof.Machine.execSltu rd rs1 rs2 s
  | .min rd rs1 rs2 => Sys2Proof.Machine.execMin rd rs1 rs2 s
  | .max rd rs1 rs2 => Sys2Proof.Machine.execMax rd rs1 rs2 s
  | .minu rd rs1 rs2 => Sys2Proof.Machine.execMinu rd rs1 rs2 s
  | .maxu rd rs1 rs2 => Sys2Proof.Machine.execMaxu rd rs1 rs2 s
  | .mul rd rs1 rs2 => Sys2Proof.Machine.execMul rd rs1 rs2 s
  | .mulh rd rs1 rs2 => Sys2Proof.Machine.execMulh rd rs1 rs2 s
  | .mulhu rd rs1 rs2 => Sys2Proof.Machine.execMulhu rd rs1 rs2 s
  | .div rd rs1 rs2 => Sys2Proof.Machine.execDiv rd rs1 rs2 s
  | .divu rd rs1 rs2 => Sys2Proof.Machine.execDivu rd rs1 rs2 s
  | .rem rd rs1 rs2 => Sys2Proof.Machine.execRem rd rs1 rs2 s
  | .remu rd rs1 rs2 => Sys2Proof.Machine.execRemu rd rs1 rs2 s
  | .addw rd rs1 rs2 => Sys2Proof.Machine.execAddw rd rs1 rs2 s
  | .subw rd rs1 rs2 => Sys2Proof.Machine.execSubw rd rs1 rs2 s
  | .sllw rd rs1 rs2 => Sys2Proof.Machine.execSllw rd rs1 rs2 s
  | .srlw rd rs1 rs2 => Sys2Proof.Machine.execSrlw rd rs1 rs2 s
  | .sraw rd rs1 rs2 => Sys2Proof.Machine.execSraw rd rs1 rs2 s
  | .mulw rd rs1 rs2 => Sys2Proof.Machine.execMulw rd rs1 rs2 s
  | .addi rd rs1 imm => Sys2Proof.Machine.execAddi rd rs1 imm s
  | .andi rd rs1 imm => Sys2Proof.Machine.execAndi rd rs1 imm s
  | .ori rd rs1 imm => Sys2Proof.Machine.execOri rd rs1 imm s
  | .xori rd rs1 imm => Sys2Proof.Machine.execXori rd rs1 imm s
  | .slti rd rs1 imm => Sys2Proof.Machine.execSlti rd rs1 imm s
  | .sltiu rd rs1 imm => Sys2Proof.Machine.execSltiu rd rs1 imm s
  | .slli rd rs1 sh => Sys2Proof.Machine.execSlli rd rs1 sh s
  | .srli rd rs1 sh => Sys2Proof.Machine.execSrli rd rs1 sh s
  | .srai rd rs1 sh => Sys2Proof.Machine.execSrai rd rs1 sh s
  | .ldd rd rs1 imm => Sys2Proof.Machine.execLdd rd rs1 imm s
  | .ldw rd rs1 imm => Sys2Proof.Machine.execLdw rd rs1 imm s
  | .ldwz rd rs1 imm => Sys2Proof.Machine.execLdwz rd rs1 imm s
  | .ldh rd rs1 imm => Sys2Proof.Machine.execLdh rd rs1 imm s
  | .ldhz rd rs1 imm => Sys2Proof.Machine.execLdhz rd rs1 imm s
  | .ldb rd rs1 imm => Sys2Proof.Machine.execLdb rd rs1 imm s
  | .ldbz rd rs1 imm => Sys2Proof.Machine.execLdbz rd rs1 imm s
  | .std rs2 rs1 imm => Sys2Proof.Machine.execStd rs2 rs1 imm s
  | .stw rs2 rs1 imm => Sys2Proof.Machine.execStw rs2 rs1 imm s
  | .sth rs2 rs1 imm => Sys2Proof.Machine.execSth rs2 rs1 imm s
  | .stb rs2 rs1 imm => Sys2Proof.Machine.execStb rs2 rs1 imm s
  | .beq rs1 rs2 imm => Sys2Proof.Machine.execBeq rs1 rs2 imm s
  | .bne rs1 rs2 imm => Sys2Proof.Machine.execBne rs1 rs2 imm s
  | .blt rs1 rs2 imm => Sys2Proof.Machine.execBlt rs1 rs2 imm s
  | .bge rs1 rs2 imm => Sys2Proof.Machine.execBge rs1 rs2 imm s
  | .bltu rs1 rs2 imm => Sys2Proof.Machine.execBltu rs1 rs2 imm s
  | .bgeu rs1 rs2 imm => Sys2Proof.Machine.execBgeu rs1 rs2 imm s
  | .jl rd imm => Sys2Proof.Machine.execJl rd imm s
  | .jlr rd rs1 imm => Sys2Proof.Machine.execJlr rd rs1 imm s
  | .lih rd imm => Sys2Proof.Machine.execLih rd imm s
  | .addpc rd imm => Sys2Proof.Machine.execAddpc rd imm s
  | .fadd d rd rs1 rs2 => Sys2Proof.Machine.execFadd d rd rs1 rs2 s
  | .fsub d rd rs1 rs2 => Sys2Proof.Machine.execFsub d rd rs1 rs2 s
  | .fmul d rd rs1 rs2 => Sys2Proof.Machine.execFmul d rd rs1 rs2 s
  | .fdiv d rd rs1 rs2 => Sys2Proof.Machine.execFdiv d rd rs1 rs2 s
  | .fsqrt d rd rs1 => Sys2Proof.Machine.execFsqrt d rd rs1 s
  | .fmin d rd rs1 rs2 => Sys2Proof.Machine.execFmin d rd rs1 rs2 s
  | .fmax d rd rs1 rs2 => Sys2Proof.Machine.execFmax d rd rs1 rs2 s
  | .fcmp d cond rd rs1 rs2 => Sys2Proof.Machine.execFcmp d cond rd rs1 rs2 s
  | .fclass d rd rs1 => Sys2Proof.Machine.execFclass d rd rs1 s
  | .fcvt d kind rd rs1 => Sys2Proof.Machine.execFcvt d kind rd rs1 s
  | .fma d rd rs1 rs2 rs3 => Sys2Proof.Machine.execFma d rd rs1 rs2 rs3 s
  | .amoadd d ord rd rs1 rs2 => Sys2Proof.Machine.execAmoadd d ord rd rs1 rs2 s
  | .amoand d ord rd rs1 rs2 => Sys2Proof.Machine.execAmoand d ord rd rs1 rs2 s
  | .amoor d ord rd rs1 rs2 => Sys2Proof.Machine.execAmoor d ord rd rs1 rs2 s
  | .amoxor d ord rd rs1 rs2 => Sys2Proof.Machine.execAmoxor d ord rd rs1 rs2 s
  | .amomin d ord rd rs1 rs2 => Sys2Proof.Machine.execAmomin d ord rd rs1 rs2 s
  | .amomax d ord rd rs1 rs2 => Sys2Proof.Machine.execAmomax d ord rd rs1 rs2 s
  | .amoswap d ord rd rs1 rs2 => Sys2Proof.Machine.execAmoswap d ord rd rs1 rs2 s
  | .amocas d ord rd rs1 rs2 => Sys2Proof.Machine.execAmocas d ord rd rs1 rs2 s
  | .amofadd d ord rd rs1 rs2 => Sys2Proof.Machine.execAmofadd d ord rd rs1 rs2 s
  | .csrr rd csr => Sys2Proof.Machine.execCsrr rd csr s
  | .csrw csr rs1 => Sys2Proof.Machine.execCsrw csr rs1 s
  | .csrs csr rs1 => Sys2Proof.Machine.execCsrs csr rs1 s
  | .csrc csr rs1 => Sys2Proof.Machine.execCsrc csr rs1 s
  | .svc n => Sys2Proof.Machine.execSvc n s
  | .bkpt => Sys2Proof.Machine.execBkpt s
  | .tret => Sys2Proof.Machine.execTret s
  | .halt => Sys2Proof.Machine.execHalt s
  | .pulse => Sys2Proof.Machine.execPulse s
  | .phase n => Sys2Proof.Machine.execPhase n s
  | .tinv op rs1 => Sys2Proof.Machine.execTinv op rs1 s
  | .fence kind scope => Sys2Proof.Machine.execFence kind scope s
  | .lsync scope => Sys2Proof.Machine.execLsync scope s
  | .ifence => Sys2Proof.Machine.execIfence s
  | .cwb rs1 imm => Sys2Proof.Machine.execCwb rs1 imm s
  | .cinv rs1 imm => Sys2Proof.Machine.execCinv rs1 imm s
  | .iinv rs1 imm => Sys2Proof.Machine.execIinv rs1 imm s
  | .qsend rel q rs2 => Sys2Proof.Machine.execQsend rel q rs2 s
  | .qrecv acq rd q => Sys2Proof.Machine.execQrecv acq rd q s
  | .qpeek rd q => Sys2Proof.Machine.execQpeek rd q s
  | .qpoll rd q => Sys2Proof.Machine.execQpoll rd q s
  | .bar launch id => Sys2Proof.Machine.execBar launch id s
  | .ctrwait rd rs1 ctr => Sys2Proof.Machine.execCtrwait rd rs1 ctr s
  | .ctradd rel rd rs1 ctr => Sys2Proof.Machine.execCtradd rel rd rs1 ctr s
  | .launch rd rs1 q => Sys2Proof.Machine.execLaunch rd rs1 q s
  | .clz rd rs1 => Sys2Proof.Machine.execClz rd rs1 s
  | .ctz rd rs1 => Sys2Proof.Machine.execCtz rd rs1 s
  | .popc rd rs1 => Sys2Proof.Machine.execPopc rd rs1 s
  | .bswap rd rs1 => Sys2Proof.Machine.execBswap rd rs1 s
  | .bfx rd rs1 pos width1 => Sys2Proof.Machine.execBfx rd rs1 pos width1 s
  | .bfi rd rs1 pos width1 => Sys2Proof.Machine.execBfi rd rs1 pos width1 s
  | .vsetl rd rs1 vt ds => Sys2Proof.Machine.execVsetl rd rs1 vt ds s
  | .vdecl rd nreg sew => Sys2Proof.Machine.execVdecl rd nreg sew s
  | .dscfg port xbase xcounts xstrides width out => Sys2Proof.Machine.execDscfg port xbase xcounts xstrides width out s
  | .dsclr port => Sys2Proof.Machine.execDsclr port s
  | .vld vd xb e lu ff m => Sys2Proof.Machine.execVld vd xb e lu ff m s
  | .vlds vd xb xs e lu ff m => Sys2Proof.Machine.execVlds vd xb xs e lu ff m s
  | .vldx vd xb vi iw lu ff m => Sys2Proof.Machine.execVldx vd xb vi iw lu ff m s
  | .vldt vd xb e lu t m => Sys2Proof.Machine.execVldt vd xb e lu t m s
  | .vst vs dst m => Sys2Proof.Machine.execVst vs dst m s
  | .vsts vs xb xs e m => Sys2Proof.Machine.execVsts vs xb xs e m s
  | .vstx vs xb vi iw m => Sys2Proof.Machine.execVstx vs xb vi iw m s
  | .vstt vs xb e m => Sys2Proof.Machine.execVstt vs xb e m s
  | .vadd vd vs2 s1 m => Sys2Proof.Machine.execVadd vd vs2 s1 m s
  | .vsub vd vs2 s1 m => Sys2Proof.Machine.execVsub vd vs2 s1 m s
  | .vrsub vd vs2 s1 m => Sys2Proof.Machine.execVrsub vd vs2 s1 m s
  | .vmul vd vs2 s1 m => Sys2Proof.Machine.execVmul vd vs2 s1 m s
  | .vmulh u vd vs2 s1 m => Sys2Proof.Machine.execVmulh u vd vs2 s1 m s
  | .vdiv u vd vs2 s1 m => Sys2Proof.Machine.execVdiv u vd vs2 s1 m s
  | .vrem u vd vs2 s1 m => Sys2Proof.Machine.execVrem u vd vs2 s1 m s
  | .vmin u vd vs2 s1 m => Sys2Proof.Machine.execVmin u vd vs2 s1 m s
  | .vmax u vd vs2 s1 m => Sys2Proof.Machine.execVmax u vd vs2 s1 m s
  | .vand vd vs2 s1 m => Sys2Proof.Machine.execVand vd vs2 s1 m s
  | .vor vd vs2 s1 m => Sys2Proof.Machine.execVor vd vs2 s1 m s
  | .vxor vd vs2 s1 m => Sys2Proof.Machine.execVxor vd vs2 s1 m s
  | .vsll vd vs2 s1 m => Sys2Proof.Machine.execVsll vd vs2 s1 m s
  | .vsrl vd vs2 s1 m => Sys2Proof.Machine.execVsrl vd vs2 s1 m s
  | .vsra vd vs2 s1 m => Sys2Proof.Machine.execVsra vd vs2 s1 m s
  | .vsadd u vd vs2 s1 m => Sys2Proof.Machine.execVsadd u vd vs2 s1 m s
  | .vssub u vd vs2 s1 m => Sys2Proof.Machine.execVssub u vd vs2 s1 m s
  | .vnclip u vd vs2 s1 m => Sys2Proof.Machine.execVnclip u vd vs2 s1 m s
  | .vwmul u vd vs2 s1 m => Sys2Proof.Machine.execVwmul u vd vs2 s1 m s
  | .vcmp u cond md vs2 s1 m => Sys2Proof.Machine.execVcmp u cond md vs2 s1 m s
  | .vmerge vd vs2 s1 mk => Sys2Proof.Machine.execVmerge vd vs2 s1 mk s
  | .vmv vd s1 m => Sys2Proof.Machine.execVmv vd s1 m s
  | .vbcast vd vs2 s1 m => Sys2Proof.Machine.execVbcast vd vs2 s1 m s
  | .vfadd vd vs2 s1 m => Sys2Proof.Machine.execVfadd vd vs2 s1 m s
  | .vfsub vd vs2 s1 m => Sys2Proof.Machine.execVfsub vd vs2 s1 m s
  | .vfmul vd vs2 s1 m => Sys2Proof.Machine.execVfmul vd vs2 s1 m s
  | .vfdiv vd vs2 s1 m => Sys2Proof.Machine.execVfdiv vd vs2 s1 m s
  | .vfsqrt vd vs2 m => Sys2Proof.Machine.execVfsqrt vd vs2 m s
  | .vfmin vd vs2 s1 m => Sys2Proof.Machine.execVfmin vd vs2 s1 m s
  | .vfmax vd vs2 s1 m => Sys2Proof.Machine.execVfmax vd vs2 s1 m s
  | .vfsgn inj vd vs2 s1 m => Sys2Proof.Machine.execVfsgn inj vd vs2 s1 m s
  | .vfclass vd vs2 m => Sys2Proof.Machine.execVfclass vd vs2 m s
  | .vfcmp cond md vs2 s1 m => Sys2Proof.Machine.execVfcmp cond md vs2 s1 m s
  | .vfma neg vd vs2 s1 vs3 m => Sys2Proof.Machine.execVfma neg vd vs2 s1 vs3 m s
  | .vfrec vd vs2 m => Sys2Proof.Machine.execVfrec vd vs2 m s
  | .vfrsq vd vs2 m => Sys2Proof.Machine.execVfrsq vd vs2 m s
  | .vfrecref vd vs2 s1 m => Sys2Proof.Machine.execVfrecref vd vs2 s1 m s
  | .vfrsqref vd vs2 s1 m => Sys2Proof.Machine.execVfrsqref vd vs2 s1 m s
  | .vfexp2 vd vs2 m => Sys2Proof.Machine.execVfexp2 vd vs2 m s
  | .vflog2 vd vs2 m => Sys2Proof.Machine.execVflog2 vd vs2 m s
  | .vfcvt vd vs2 src m => Sys2Proof.Machine.execVfcvt vd vs2 src m s
  | .vfcvti u vd vs2 src m => Sys2Proof.Machine.execVfcvti u vd vs2 src m s
  | .vicvtf vd vs2 src m => Sys2Proof.Machine.execVicvtf vd vs2 src m s
  | .viext vd vs2 src m => Sys2Proof.Machine.execViext vd vs2 src m s
  | .vredsum f vd vs2 s1 m => Sys2Proof.Machine.execVredsum f vd vs2 s1 m s
  | .vredosum vd vs2 s1 m => Sys2Proof.Machine.execVredosum vd vs2 s1 m s
  | .vredmax f u vd vs2 s1 m => Sys2Proof.Machine.execVredmax f u vd vs2 s1 m s
  | .vredmin f u vd vs2 s1 m => Sys2Proof.Machine.execVredmin f u vd vs2 s1 m s
  | .vredand vd vs2 s1 m => Sys2Proof.Machine.execVredand vd vs2 s1 m s
  | .vredor vd vs2 s1 m => Sys2Proof.Machine.execVredor vd vs2 s1 m s
  | .vmlogic op md ms2 ms1 => Sys2Proof.Machine.execVmlogic op md ms2 ms1 s
  | .vpopc rd ms2 m => Sys2Proof.Machine.execVpopc rd ms2 m s
  | .vfirst rd ms2 m => Sys2Proof.Machine.execVfirst rd ms2 m s
  | .viota vd ms2 m => Sys2Proof.Machine.execViota vd ms2 m s
  | .vslideup vd vs2 s1 m => Sys2Proof.Machine.execVslideup vd vs2 s1 m s
  | .vslidedn vd vs2 s1 m => Sys2Proof.Machine.execVslidedn vd vs2 s1 m s
  | .vperm vd vs2 vs1 m => Sys2Proof.Machine.execVperm vd vs2 vs1 m s
  | .vcompress vd vs2 ms1 => Sys2Proof.Machine.execVcompress vd vs2 ms1 s
  | .vexpand vd vs2 ms1 => Sys2Proof.Machine.execVexpand vd vs2 ms1 s
  | .vmvxs rd vs2 s1 => Sys2Proof.Machine.execVmvxs rd vs2 s1 s
  | .vmvsx vd s1 => Sys2Proof.Machine.execVmvsx vd s1 s
  | .vnzscan f vd vs2 m => Sys2Proof.Machine.execVnzscan f vd vs2 m s
  | .vtopk f byval vd vi vs2 s1 m => Sys2Proof.Machine.execVtopk f byval vd vi vs2 s1 m s
  | .vsegscan f vd vs2 ms1 m => Sys2Proof.Machine.execVsegscan f vd vs2 ms1 m s
  | .vpivdiv vd vs2 xp m => Sys2Proof.Machine.execVpivdiv vd vs2 xp m s
  | .vpivsel f rd vs2 m => Sys2Proof.Machine.execVpivsel f rd vs2 m s
  | .vamo op vd xb vi s1 m => Sys2Proof.Machine.execVamo op vd xb vi s1 m s
  | .vscatadd f xb vi s1 m => Sys2Proof.Machine.execVscatadd f xb vi s1 m s
  | .vscatacc f xb vi s1 m => Sys2Proof.Machine.execVscatacc f xb vi s1 m s
  | .vlock md xb vi m => Sys2Proof.Machine.execVlock md xb vi m s
  | .vunlock xb vi m => Sys2Proof.Machine.execVunlock xb vi m s
  | .vsend rel q vs2 => Sys2Proof.Machine.execVsend rel q vs2 s
  | .vrecv acq vd q => Sys2Proof.Machine.execVrecv acq vd q s
  | .mten n => Sys2Proof.Machine.execMten n s
  | .mtdis => Sys2Proof.Machine.execMtdis s
  | .mshape xs => Sys2Proof.Machine.execMshape xs s
  | .mpred s1 => Sys2Proof.Machine.execMpred s1 s
  | .mscale b vs nb => Sys2Proof.Machine.execMscale b vs nb s
  | .mopa acc a b int8 fwd => Sys2Proof.Machine.execMopa acc a b int8 fwd s
  | .mops acc a b int8 fwd => Sys2Proof.Machine.execMops acc a b int8 fwd s
  | .mopag gb acc s2 s1 xb int8 => Sys2Proof.Machine.execMopag gb acc s2 s1 xb int8 s
  | .mzero acc => Sys2Proof.Machine.execMzero acc s
  | .mtrd vd acc origin m => Sys2Proof.Machine.execMtrd vd acc origin m s
  | .mtwr acc vs origin m => Sys2Proof.Machine.execMtwr acc vs origin m s
  | .mtld acc xb vi t fmt => Sys2Proof.Machine.execMtld acc xb vi t fmt s
  | .mtst acc xb vi t fmt => Sys2Proof.Machine.execMtst acc xb vi t fmt s
  | .mtsend rel t q acc fmt => Sys2Proof.Machine.execMtsend rel t q acc fmt s
  | .mtrecv acq acc q => Sys2Proof.Machine.execMtrecv acq acc q s
  | .mgcfg xb mask => Sys2Proof.Machine.execMgcfg xb mask s
  | .mgin k vc vv m => Sys2Proof.Machine.execMgin k vc vv m s
  | .mgrun reuse rd xb xl => Sys2Proof.Machine.execMgrun reuse rd xb xl s
  | .mgdrain vc vv => Sys2Proof.Machine.execMgdrain vc vv s
  | .mgrst => Sys2Proof.Machine.execMgrst s
  | .xcopy lu twoD ch dst src len => Sys2Proof.Machine.execXcopy lu twoD ch dst src len s
  | .xwait ch xaddr => Sys2Proof.Machine.execXwait ch xaddr s
  | .undefinedEncoding parcel => Sys2Proof.Machine.execUndefinedEncoding parcel s
  | .fetchFault va sub => Sys2Proof.Machine.execFetchFault va sub s
  | .vauxUp => Sys2Proof.Machine.execVauxUp s
  | .powerOnStep => Sys2Proof.Machine.execPowerOnStep s
  | .powerOnStop => Sys2Proof.Machine.execPowerOnStop s
  | .perstNDeassert => Sys2Proof.Machine.execPerstNDeassert s
  | .perstNAssert => Sys2Proof.Machine.execPerstNAssert s
  | .hostLinkTrained => Sys2Proof.Machine.execHostLinkTrained s
  | .linkTrainingTimeout => Sys2Proof.Machine.execLinkTrainingTimeout s
  | .configurationRequest => Sys2Proof.Machine.execConfigurationRequest s
  | .thermalTrip => Sys2Proof.Machine.execThermalTrip s
  | .stackTripComparator => Sys2Proof.Machine.execStackTripComparator s
  | .vrAlert => Sys2Proof.Machine.execVrAlert s
  | .powerOff => Sys2Proof.Machine.execPowerOff s
  | .dynamicAddressAssign => Sys2Proof.Machine.execDynamicAddressAssign s
  | .extend => Sys2Proof.Machine.execExtend s
  | .raisesvn => Sys2Proof.Machine.execRaisesvn s
  | .writeclass => Sys2Proof.Machine.execWriteclass s
  | .readclass => Sys2Proof.Machine.execReadclass s
  | .mailboxCommandEnd => Sys2Proof.Machine.execMailboxCommandEnd s
  | .getVersion => Sys2Proof.Machine.execGetVersion s
  | .getCapabilities => Sys2Proof.Machine.execGetCapabilities s
  | .negotiateAlgorithms => Sys2Proof.Machine.execNegotiateAlgorithms s
  | .getDigests => Sys2Proof.Machine.execGetDigests s
  | .getCertificate => Sys2Proof.Machine.execGetCertificate s
  | .challenge => Sys2Proof.Machine.execChallenge s
  | .getMeasurements => Sys2Proof.Machine.execGetMeasurements s
  | .spdmUnsupportedRequest => Sys2Proof.Machine.execSpdmUnsupportedRequest s
  | .launchPacket => Sys2Proof.Machine.execLaunchPacket s
  | .bar4Read => Sys2Proof.Machine.execBar4Read s
  | .bar4Write => Sys2Proof.Machine.execBar4Write s
  | .counterWrite => Sys2Proof.Machine.execCounterWrite s
  | .counterAdd => Sys2Proof.Machine.execCounterAdd s
  | .functionLevelResetVf => Sys2Proof.Machine.execFunctionLevelResetVf s
  | .functionLevelResetPf => Sys2Proof.Machine.execFunctionLevelResetPf s
  | .hostApertureResponse => Sys2Proof.Machine.execHostApertureResponse s
  | .resume => Sys2Proof.Machine.execResume s
  | .abort => Sys2Proof.Machine.execAbort s
  | .preempt => Sys2Proof.Machine.execPreempt s
  | .schedulerCommandEnd => Sys2Proof.Machine.execSchedulerCommandEnd s
  | .fqresume => Sys2Proof.Machine.execFqresume s
  | .fqdata0Read => Sys2Proof.Machine.execFqdata0Read s
  | .ixdropRead => Sys2Proof.Machine.execIxdropRead s
  | .faultAddressQueueRead => Sys2Proof.Machine.execFaultAddressQueueRead s
  | .enlq => Sys2Proof.Machine.execEnlq s
  | .tlbinvTenant => Sys2Proof.Machine.execTlbinvTenant s
  | .tlbinvAsid => Sys2Proof.Machine.execTlbinvAsid s
  | .tlbinvPage => Sys2Proof.Machine.execTlbinvPage s
  | .invalidationComplete => Sys2Proof.Machine.execInvalidationComplete s
  | .bpladd => Sys2Proof.Machine.execBpladd s
  | .bplFlashWriteDone => Sys2Proof.Machine.execBplFlashWriteDone s
  | .admindown => Sys2Proof.Machine.execAdmindown s
  | .clrcnt => Sys2Proof.Machine.execClrcnt s
  | .wayreq => Sys2Proof.Machine.execWayreq s
  | .registerWrite => Sys2Proof.Machine.execRegisterWrite s
  | .linkPortTrained => Sys2Proof.Machine.execLinkPortTrained s
  | .flitReceive => Sys2Proof.Machine.execFlitReceive s
  | .retrain => Sys2Proof.Machine.execRetrain s
  | .portDown => Sys2Proof.Machine.execPortDown s
  | .routerForward => Sys2Proof.Machine.execRouterForward s
  | .remoteRequest => Sys2Proof.Machine.execRemoteRequest s
  | .remoteResponse => Sys2Proof.Machine.execRemoteResponse s
  | .multicastMessage => Sys2Proof.Machine.execMulticastMessage s
  | .scatterPair => Sys2Proof.Machine.execScatterPair s
  | .bind => Sys2Proof.Machine.execBind s
  | .bindack => Sys2Proof.Machine.execBindack s
  | .nack => Sys2Proof.Machine.execNack s
  | .unbind => Sys2Proof.Machine.execUnbind s
  | .bindResend => Sys2Proof.Machine.execBindResend s
  | .tileMessage => Sys2Proof.Machine.execTileMessage s
  | .creditReturn => Sys2Proof.Machine.execCreditReturn s
  | .away => Sys2Proof.Machine.execAway s
  | .awayack => Sys2Proof.Machine.execAwayack s
  | .back => Sys2Proof.Machine.execBack s
  | .crewPlacement => Sys2Proof.Machine.execCrewPlacement s
  | .zeroCountLaunch => Sys2Proof.Machine.execZeroCountLaunch s
  | .crewEnd => Sys2Proof.Machine.execCrewEnd s
  | .launchCompletion => Sys2Proof.Machine.execLaunchCompletion s
  | .preemption => Sys2Proof.Machine.execPreemption s
  | .contextSaveDone => Sys2Proof.Machine.execContextSaveDone s
  | .crewRestore => Sys2Proof.Machine.execCrewRestore s
  | .fairnessQuantum => Sys2Proof.Machine.execFairnessQuantum s
  | .ageingThreshold => Sys2Proof.Machine.execAgeingThreshold s
  | .watchdogExpiry => Sys2Proof.Machine.execWatchdogExpiry s
  | .energyCalibration => Sys2Proof.Machine.execEnergyCalibration s
  | .energyCap => Sys2Proof.Machine.execEnergyCap s
  | .tenantBudgetExhausted => Sys2Proof.Machine.execTenantBudgetExhausted s
  | .tenantBudgetInterval => Sys2Proof.Machine.execTenantBudgetInterval s
  | .capLevelRaise => Sys2Proof.Machine.execCapLevelRaise s
  | .capLevelLower => Sys2Proof.Machine.execCapLevelLower s
  | .ballastStep => Sys2Proof.Machine.execBallastStep s
  | .sensorSample => Sys2Proof.Machine.execSensorSample s
  | .sensorReturnValid => Sys2Proof.Machine.execSensorReturnValid s
  | .safePointExit => Sys2Proof.Machine.execSafePointExit s
  | .safeCeilingStep => Sys2Proof.Machine.execSafeCeilingStep s
  | .thermalCeilingStep => Sys2Proof.Machine.execThermalCeilingStep s
  | .criticalTimeout => Sys2Proof.Machine.execCriticalTimeout s
  | .droopResponse => Sys2Proof.Machine.execDroopResponse s
  | .dramRetraining => Sys2Proof.Machine.execDramRetraining s
  | .dramScrub => Sys2Proof.Machine.execDramScrub s
  | .eccError => Sys2Proof.Machine.execEccError s
  | .cacheEviction => Sys2Proof.Machine.execCacheEviction s
  | .fatalError => Sys2Proof.Machine.execFatalError s
  | .dumpComplete => Sys2Proof.Machine.execDumpComplete s
  | .mopaComplete => Sys2Proof.Machine.execMopaComplete s
  | .copyPageRegister => Sys2Proof.Machine.execCopyPageRegister s
  | .copyComplete => Sys2Proof.Machine.execCopyComplete s
  | .copyChannelFault => Sys2Proof.Machine.execCopyChannelFault s
  | .streamRetire => Sys2Proof.Machine.execStreamRetire s
  | .mergeCheckpoint => Sys2Proof.Machine.execMergeCheckpoint s
  | .mergePassEnd => Sys2Proof.Machine.execMergePassEnd s
  | .impreciseTrap => Sys2Proof.Machine.execImpreciseTrap s

end Sys2Proof.Machine
end

