-- ==== Sys2Proof/Machine/Step.lean ====
section
/-!
DEFINITION. One step of the machine, and the placing of an instruction where the next step fetches it.
-/
namespace Sys2Proof.Machine

/-- One step: the schedule's next move, and the instruction or event it comes to. -/
def step (s : State) : Host.Outcome State Fault Refusal :=
  match s.turn with
  | .run i t => exec i t
  | .done t => .next t
  | .stop f => .fault f

/-- The state with an instruction placed where the next step fetches it: a hart on a core, its page mapped, and its turn
next. -/
def State.withFetchWord (s : State) (nbits w : Nat) : State := placeBytes nbits w (placeMap (placeHart s))

end Sys2Proof.Machine
end

