-- ==== Sys2Proof/Safety.lean ====
section
/-!
DEFINITION. What a safe run is, and the words the claims are written in: the machine's invariant, what an instruction that only
writes a register leaves alone, and when an instruction has nothing to wait for.
-/
namespace Sys2Proof.Safety

open Sys2Proof.Machine Sys2Proof.Machine.State

/-- A step that ends in a next state. The one fault is a schedule that names a hart which is not there (log 2). -/
def SafeStep (s : State) : Prop := ∃ t, step s = .next t

/-- A run of `k` steps that meets no fault. -/
def SafeRun (k : Nat) (s : State) : Prop := ∃ t, Host.Core.run Sys2Proof.core k s = .next t

/-- The invariant: the map of memory bytes and the map of poisoned lines are in canonical form, so that equal memories are
equal lists. -/
def Inv (s : State) : Prop := Memory.wf s.mem = true ∧ FMap.wf false s.pois = true

/-- Every line of a scalar data cache has 64 bytes and a dirty bit for each (R205). -/
def CacheOk (s : State) : Prop :=
  ∀ k d, FMap.find k s.dcache = some d → d.data.length = 64 ∧ d.dirty.length = 64

/-- The current hart's loads and stores are performed in program order: no younger load has read early, no store waits
in a store queue, and none is to (R135, R138, R195). -/
def InOrder (s : State) : Prop := s.hart.early = [] ∧ s.hart.stq = [] ∧ s.hart.late = 0

/-- As `CacheOk` and `InOrder`, and no uncorrectable error has struck a line of the current core's cache (R186). -/
def CacheSound (s : State) : Prop := CacheOk s ∧ InOrder s ∧ ∀ l d, s.dline s.crew.core l = some d → d.bad = false

/-- As `CacheSound`, and the current core's cache has room for the two lines that one access may fill (R133). -/
def CacheRoom (s : State) : Prop := CacheSound s ∧ (s.dlines s.crew.core fun _ => true).length + 2 ≤ cacheLines

/-- Crews are on cores that exist, and launches' home cores exist (R8, R85). -/
def CoresOk (s : State) : Prop :=
  s.crew.core < 160 ∧ (∀ p ∈ s.crews, p.2.core < 160) ∧ ∀ p ∈ s.launches, ∀ h ∈ p.2.homes, h.2 < 160

/-- Every byte of memory, at its home and as each core's scalar side sees it, is the same in both states. -/
def SameMemory (s t : State) : Prop :=
  (∀ a, t.byteAt a = s.byteAt a) ∧ ∀ core a, core < 160 → t.coreByte core a = s.coreByte core a

/-- `t` is `s` after an instruction that wrote `v` to x register `rd` (nothing where `rd` is x0) and raised the sticky flags
`fl`, with execution to go on at `next`: every other x register, every other CSR but INSTRET, the vector, mask and
accumulator registers, memory, and everything else of the device are as before. -/
structure RegEffect (s t : State) (rd : Reg) (v : Word) (fl : Nat) (next : Word) : Prop where
  regs : ∀ r, t.x r = if r = rd ∧ rd ≠ 0 then v else s.x r
  pc : t.pc = next
  csr : t.hart.csr = { s.hart.csr with vflags := s.hart.csr.vflags ||| nw fl, instret := s.hart.csr.instret + 1 }
  memory : SameMemory s t
  rest : t = { s with hart := { s.hart with
    x := t.hart.x, pc := t.hart.pc, csr := t.hart.csr, asked := [], answers := [] } }

/-- The instruction completes by writing `v` to `rd`, and falls through to the next word. -/
def Gives (s : State) (i : Instr) (rd : Reg) (v : Word) : Prop :=
  ∃ t, exec i s = .next t ∧ RegEffect s t rd v 0 (s.pc + 4)

/-- As `Gives`, for an instruction that also raises the sticky flags `fl`. -/
def GivesFl (s : State) (i : Instr) (rd : Reg) (v : Word) (fl : Nat) : Prop :=
  ∃ t, exec i s = .next t ∧ RegEffect s t rd v fl (s.pc + 4)

/-- The instruction completes with execution going on at `next`, and writes `v` to `rd`. -/
def Jumps (s : State) (i : Instr) (rd : Reg) (v next : Word) : Prop :=
  ∃ t, exec i s = .next t ∧ RegEffect s t rd v 0 next

/-- `t` is `s` after a trap is taken (R220): TPC, TCAUSE and TVAL hold the report, the mode is stacked and becomes
system mode, and the hart goes on at TVEC with nothing fetched or read early; the x registers, VL, VTYPE, every progress
record, VFLAGS, memory and everything else are as before. `imp` says whether the report is imprecise. -/
structure TrapEffect (s t : State) (c : Cause) (sub : Nat) (tval tpc : Word) (imp : Bool) : Prop where
  tpc : t.hart.csr.tpc = tpc &&& 0x1FFFFFFFFFFFFF
  tcause : t.hart.csr.tcause = nw (b2n imp * 2 ^ 63 + sub * 256 + c.code)
  tval : t.hart.csr.tval = tval
  pmode : fld t.hart.csr.tstat 1 1 = fld s.hart.csr.tstat 0 1
  mode : fld t.hart.csr.tstat 0 1 = 1
  depth : fld t.hart.csr.tstat 2 2 = Nat.min (fld s.hart.csr.tstat 2 2 + 1) 3
  above : ∀ i, 4 ≤ i → bit t.hart.csr.tstat i = bit s.hart.csr.tstat i
  pc : t.pc = s.hart.csr.tvec
  regs : ∀ r, t.x r = s.x r
  memory : SameMemory s t
  rest : t = { s with hart := { s.hart with
    pc := t.hart.pc, asked := [], answers := [], ibuf := [], early := []
    csr := { s.hart.csr with
      tpc := t.hart.csr.tpc, tcause := t.hart.csr.tcause, tval := t.hart.csr.tval, tstat := t.hart.csr.tstat } } }

/-- Whether a CSR instruction may name an address (R217, R295): it is listed, a system address is named in system mode, and a
link-queue CSR is one that the crew's launch declared. -/
def CsrOpen (s : State) (a : Nat) : Prop :=
  csrListed a = true ∧ (csrSystem a = true → s.sysMode = true) ∧ (0x400 ≤ a → a - 0x400 < s.crew.lqs)

/-- `t` is `s` after an instruction that loaded `v` into `rd`: as `RegEffect`, but that the core's scalar data cache may hold
more lines, with the bytes of their homes, and the lines of the access may be locked (R172). -/
structure LoadEffect (s t : State) (rd : Reg) (v : Word) : Prop where
  regs : ∀ r, t.x r = if r = rd ∧ rd ≠ 0 then v else s.x r
  pc : t.pc = s.pc + 4
  csr : t.hart.csr = { s.hart.csr with instret := s.hart.csr.instret + 1 }
  memory : SameMemory s t
  rest : t = { s with dcache := t.dcache, locked := t.locked, lockOvf := t.lockOvf, hart := { s.hart with
    x := t.hart.x, pc := t.hart.pc, csr := t.hart.csr, asked := [], answers := [] } }

/-- An access of `n` bytes at `va` reaches the pieces `ps`, all of them local memory with no copy still to fill them. -/
def ReachesMem (s : State) (a : Acc) (need : Need) (va : Word) (n : Nat) (ps : List (Nat × Nat × Place)) : Prop :=
  reachAll a need va n s = .ok (ps, s) ∧ ∀ p ∈ ps, ∃ pa, p.2.2 = .mem pa ∧ unfilled s pa p.2.1 = []

/-- No piece of an access is poisoned as the core's scalar side finds it (R187). -/
def CleanForCore (s : State) (ps : List (Nat × Nat × Place)) : Prop :=
  ∀ p ∈ ps, ∀ pa, p.2.2 = .mem pa → ∀ l ∈ linesOf pa p.2.1, s.corePois s.crew.core (l * 64) = false

/-- The bytes that the pieces of an access read where `f` says what stands at each address, little-endian. -/
def piecesOf (f : Nat → Byte) : List (Nat × Nat × Place) → Nat
  | [] => 0
  | (_, n, .mem pa) :: ps => ofBytesLE ((upFrom pa n).map f) + 2 ^ (8 * n) * piecesOf f ps
  | (_, n, _) :: ps => 2 ^ (8 * n) * piecesOf f ps

/-- The value a core's scalar side reads over the pieces of an access. -/
def piecesValue (s : State) (ps : List (Nat × Nat × Place)) : Nat := piecesOf (s.coreByte s.crew.core) ps

/-- The byte of the value `v` that a store over the pieces `ps` leaves at physical address `a`, if it stores there. -/
def storedAt (v : Nat) (a : Nat) : List (Nat × Nat × Place) → Option Byte
  | [] => none
  | (off, n, .mem pa) :: ps =>
    match storedAt v a ps with
    | some b => some b
    | none => if pa ≤ a ∧ a < pa + n then some (BitVec.ofNat 8 (v / 256 ^ (off + (a - pa)))) else none
  | _ :: ps => storedAt v a ps

/-- The byte at a physical address as the core's vector side and atomics find it: the core's own dirty byte, which is written
back first (R138, R205), else the home's. -/
def seen (s : State) (a : Nat) : Byte :=
  match s.dline s.crew.core (a / 64) with
  | some d => if d.dirty.getD (a % 64) false then d.data.getD (a % 64) 0 else s.byteAt a
  | none => s.byteAt a

/-- `n` bytes so found, as a little-endian number. -/
def seenValue (s : State) (pa n : Nat) : Nat := ofBytesLE ((upFrom pa n).map (seen s))

/-- An access leaves this device: a place in the host aperture, or memory of another device that this router does not
refuse. -/
def LeavesDevice (s : State) (p : Place) : Prop :=
  (∃ off, p = .aperture off) ∨ ∃ chip off, p = .remote chip off ∧ chip ≠ s.chipId ∧ s.srcRefuses chip = none

/-- The request of a load of `n` bytes that leaves this device (R31, R71). -/
def readRequest (s : State) (p : Place) (n tag : Nat) : Output :=
  match p with
  | .aperture off => .hostRead s.crew.tenant (s.hostBus off) n tag
  | .remote chip off => .request chip
      { kind := .read, src := s.chipId, tenant := s.crew.tenant, tag, off, width := n, dat := 0, cmp := 0, core := s.crew.core }
  | _ => .rails 0

/-- The write of a store of the low `n` bytes of `v` that leaves this device (R31, R71). -/
def writeRequest (s : State) (p : Place) (n v tag : Nat) : Output :=
  match p with
  | .aperture off => .hostWrite s.crew.tenant (s.hostBus off) (bytesLE n v) (some tag)
  | .remote chip off => .request chip
      { kind := .write, src := s.chipId, tenant := s.crew.tenant, tag, off, width := n, dat := v % 2 ^ (8 * n), cmp := 0
        core := s.crew.core }
  | _ => .rails 0

/-- The physical address of a place that leaves this device. -/
def awayAt : Place → Nat
  | .aperture off => aperturePa off
  | .remote chip off => remotePa chip off
  | _ => 0

/-- A store of the hart that left the device, to bytes among `n` at `p`, is not yet performed (R138). -/
def BehindPosted (s : State) (p : Place) (n : Nat) : Prop :=
  ∃ q ∈ s.hart.posted, q.by_ = .hart ∧ q.bad = false ∧ q.lo < awayAt p + n ∧ awayAt p < q.lo + q.n

/-- No line that the current hart's core caches waits for a copy to fill its home, so that any of them can be written
back (R159). -/
def Unheld (s : State) : Prop := ∀ l d, s.dline s.crew.core l = some d → unfilled s (l * 64) 64 = []

/-- Some core's cache holds the byte `b` dirty at address `a`. -/
def DirtyByte (s : State) (a : Nat) (b : Byte) : Prop :=
  ∃ core d, s.dline core (a / 64) = some d ∧ d.dirty.getD (a % 64) false = true ∧ b = d.data.getD (a % 64) 0

/-- Other cores' cached lines are as before. -/
def OthersKept (s t : State) : Prop := ∀ core l, core < 160 → core ≠ s.crew.core → t.dline core l = s.dline core l

/-- Memory after a scalar access that stored the bytes `st` through a cache that may be full, so that lines may have
left it: a stored byte is what the core sees and would write back; any other is as before or, where its line left, as
the core had it dirty or its home held it. At their homes only bytes that the access stored or that the core had dirty
differ, no line becomes poisoned, and other cores' lines are as before. -/
structure Crowded (s t : State) (st : Nat → Option Byte) : Prop where
  stored : ∀ a b, st a = some b → t.coreByte s.crew.core a = b ∧ seen t a = b
  kept : ∀ a, st a = none →
    seen t a = seen s a ∧ (t.coreByte s.crew.core a = s.coreByte s.crew.core a ∨ t.coreByte s.crew.core a = seen s a)
  home : ∀ a, t.byteAt a = s.byteAt a ∨ t.byteAt a = seen s a ∨ (st a).isSome = true
  pois : ∀ l, FMap.getD false l t.pois = true → FMap.getD false l s.pois = true
  cores : OthersKept s t

/-- The hart has no outer product that is issued and not complete, so that a held instruction executes at once (R134,
R135). -/
def Quiet (s : State) : Prop := s.hart.pend = []

/-- The instruction ends in a trap that reports its own address; while anything older is incomplete it waits with nothing
changed (R136). -/
def Traps (s : State) (i : Instr) (c : Cause) (sub : Nat) (tval : Word) : Prop :=
  (Quiet s → ∃ t, exec i s = .next t ∧ TrapEffect s t c sub tval s.pc false) ∧ (¬Quiet s → exec i s = .next s)

/-- `r` is the state in which the hart named by the schedule's next move takes its turn: time has passed, the hart is
the current one, it may issue, its refused stores that are due have been reported (R226), a convoy that it has left
holds the lane group no longer (R95), and where it takes a pre-emption point is set. -/
def HartMoves (s r : State) : Prop :=
  ∃ dt slot stop ms t, s.moves = .hart dt slot stop :: ms ∧ (advanceTime dt { s with moves := ms }).focus slot = some t
    ∧ canIssue t = true
    ∧ r = ((t.settlePosted t.cur).leftConvoy).onHart fun h => { h with limit := stop }

/-- The arbiter lets the head of the current hart's vector queue issue (R95): `t` is the state after it. An instruction
that does not go through the queue passes it by. -/
def Granted (u : State) (n : Nat) (i : Instr) (t : State) : Prop :=
  if queued n i then arbiter (occupancy u i) u = .go t else t = u

/-- The state in which an instruction with the parcels `ps` executes: its first parcel is held for TVAL. -/
def withParcels (ps : List Parcel) (s : State) : State := s.onHart fun h => { h with ir := ps.headD 0 }

/-- A VLOCK's parcels stay with the hart until its end, so that a change of what memory holds cannot make another
instruction of one that has taken locks (R216). -/
def keepParcels (i : Instr) (ps : List Parcel) (s : State) : State :=
  match i with
  | .vlock _ _ _ _ => s.onHart fun h => { h with
      ibuf := FMap.insert h.pc.toNat (ps.headD 0) (FMap.insert (h.pc.toNat + 4) (ps.getD 1 0) h.ibuf) }
  | _ => s

/-- The current instruction, of 4 bytes, has retired: the program counter has passed it, INSTRET has counted it, no request
of it is left, and the x registers and every other CSR are as before. -/
def Retired (s t : State) : Prop :=
  t.pc = s.pc + 4 ∧ (∀ r, t.x r = s.x r) ∧ t.hart.csr = { s.hart.csr with instret := s.hart.csr.instret + 1 }
  ∧ t.hart.asked = [] ∧ t.hart.answers = []

/-- `t` is `s` but for what writing back cached lines of the current hart's core does: each byte at its home is as
before or the core's own dirty byte, other cores' lines are as before, and nothing but memory, its poison, the caches,
locked lines, the current hart's program counter and CSRs, and its record of granules stored since its last release
differ. -/
def WrittenBack (s t : State) : Prop :=
  (∀ a, t.byteAt a = s.byteAt a ∨ t.byteAt a = seen s a)
  ∧ (∀ core l, core < 160 → core ≠ s.crew.core → t.dline core l = s.dline core l)
  ∧ t = { s with
      mem := t.mem, pois := t.pois, dcache := t.dcache, locked := t.locked, lockOvf := t.lockOvf, hart := { s.hart with
      pc := t.hart.pc, csr := t.hart.csr, asked := [], answers := [], olds := t.hart.olds } }

/-- Every line the current hart dirtied in its core's cache has been written to its home. -/
def Released (s t : State) : Prop :=
  ∀ l d, s.dline s.crew.core l = some d → s.cur ∈ d.by_ → ∀ a, a / 64 = l → t.byteAt a = seen s a

/-- The core's cache holds no byte that the core did not write. -/
def Acquired (s t : State) : Prop := ∀ l d, t.dline s.crew.core l = some d → d.dirty.all id = true

/-! ### Vector instructions -/

/-- The register groups (with element widths in bytes) and mask registers that a vector instruction names are within the
hart's registers and meet only as R342 allows, and n does not pass MVL (R141, R143). `vlenb` is bounded as every crew's
is. -/
def Named (s : State) (groups : List (Nat × Nat)) (masks : List Nat) : Prop :=
  s.groupsOk groups = true ∧ (∀ r ∈ masks, r < 8) ∧ s.nElems ≤ s.mvl ∧ s.hart.vlenb ≤ 2 ^ 15

/-- An element-wise instruction has elements to process and is neither pre-empted at an element nor a convoy's member. -/
def VecReady (s : State) (groups : List (Nat × Nat)) (masks : List Nat) : Prop :=
  Named s groups masks ∧ s.vstart < s.nElems ∧ s.hart.limit = none ∧ s.hart.conv = none

/-- As `VecReady`, for an instruction that is not restartable: VSTART is 0 (R229, R230). -/
def WholeReady (s : State) (groups : List (Nat × Nat)) (masks : List Nat) : Prop :=
  Named s groups masks ∧ 0 < s.nElems ∧ s.vstart = 0

/-- No active element of a group that this execution processes is poisoned (R187). -/
def Clean (s : State) (m : VMask) (g : Reg) (w : Nat) : Prop :=
  ∀ i, s.vstart ≤ i → i < s.nElems → s.active m i = true → s.elemPois g.toNat w i = false

/-- No element of a group below `n` is poisoned. -/
def CleanBelow (s : State) (g : Reg) (w n : Nat) : Prop := ∀ i, i < n → s.elemPois g.toNat w i = false

/-- The first source can be read at once: a group free of poison, or a read stream of the right width that has fetched
what this execution takes (R150). -/
def Src1Ready (s : State) (m : VMask) (w : Nat) : Src1 → Prop
  | .v r => Clean s m r w
  | .ds p =>
    let d := s.stream p
    d.st = .read ∧ d.width = s.ebytes ∧ s.nElems ≤ d.left
    ∧ ∀ i, i < s.nElems → ∃ v, FMap.find (d.pos + i) d.buf = some v ∧ v < 2 ^ (8 * w)
  | _ => True

/-- Element `i` of the first source at a width of `w` bytes (R340). -/
def srcVal (s : State) (w i : Nat) : Src1 → Nat
  | .v r => s.elem r.toNat w i
  | .x r => (s.x r).toNat % 2 ^ (8 * w)
  | .imm v => modW v.toInt (8 * w)
  | .ds p => FMap.getD 0 ((s.stream p).pos + i) (s.stream p).buf

/-- What becomes of element `i` of a destination under R306: elements below VSTART stay, active ones get their value,
inactive ones are zeroed under MASKZ, and elements from `n` on under TAILZ. -/
def elementwise (s : State) (m : VMask) (g w : Nat) (val : Nat → Nat) (i : Nat) : Nat :=
  if i < s.vstart then s.elem g w i
  else if i < s.nElems then
    if s.active m i then val i % 2 ^ (8 * w) else if s.maskz then 0 else s.elem g w i
  else if s.tailz then 0 else s.elem g w i

/-- As `elementwise`, for a form that writes elements below `n` by a rule of its own. -/
def wholeElems (s : State) (g w n : Nat) (val : Nat → Nat) (i : Nat) : Nat :=
  if i < n then val i else if s.tailz then 0 else s.elem g w i

/-- The sticky flags that the active elements of this execution below `z` raise. -/
def flagsTo (s : State) (m : VMask) (fl : Nat → Nat) (z : Nat) : Word :=
  ((upFrom s.vstart (z - s.vstart)).filter (s.active m)).foldl (fun f i => f ||| nw (fl i)) 0

/-- The sticky flags that the active elements of this execution raise. -/
def flagsOf (s : State) (m : VMask) (fl : Nat → Nat) : Word := flagsTo s m fl s.nElems

/-- The CSRs after a completed vector instruction that raised flags. -/
def doneCsr (s : State) (fl : Word) : Csrs :=
  { s.hart.csr with vflags := s.hart.csr.vflags ||| fl, vstart := 0, instret := s.hart.csr.instret + 1 }

/-- `t` is `s` after a vector instruction that gave the elements of group `g` below MVL the values `el`, and the CSRs `c`: no
other byte of a vector register, no mask, no x register and no memory changes, and the stream it read has moved on by n. -/
structure VecWrite (s t : State) (g w : Nat) (el : Nat → Nat) (c : Csrs) (port : Option (BitVec 3)) : Prop where
  elems : ∀ i, i < s.mvl → t.elem g w i = el i
  others : ∀ k, k < g * s.hart.vlenb ∨ g * s.hart.vlenb + s.mvl * w ≤ k → FMap.getD 0 k t.hart.v = FMap.getD 0 k s.hart.v
  csr : t.hart.csr = c
  pc : t.pc = s.pc + 8
  regs : ∀ r, t.x r = s.x r
  memory : SameMemory s t
  rest : t = { s with
    crew := { s.crew with work := t.crew.work }
    hart := { s.hart with
      v := t.hart.v, vpois := t.hart.vpois, wext := t.hart.wext, ds := (s.consume port s.nElems).hart.ds
      pc := t.hart.pc, csr := t.hart.csr, asked := [], answers := [] } }

/-- As `VecWrite`, for a mask destination: bit `i` of m`r` becomes `bits i`. -/
structure MaskWrite (s t : State) (r : Nat) (bits : Nat → Bool) (c : Csrs) (port : Option (BitVec 3)) : Prop where
  bits : ∀ i, i < 8 * s.hart.vlenb → t.maskBit r i = bits i
  others : ∀ q i, q ≠ r → i < 8 * s.hart.vlenb → t.maskBit q i = s.maskBit q i
  csr : t.hart.csr = c
  pc : t.pc = s.pc + 8
  regs : ∀ q, t.x q = s.x q
  memory : SameMemory s t
  rest : t = { s with
    crew := { s.crew with work := t.crew.work }
    hart := { s.hart with
      m := t.hart.m, ds := (s.consume port s.nElems).hart.ds
      pc := t.hart.pc, csr := t.hart.csr, asked := [], answers := [] } }

/-- As `elementwise`, for the bits of a mask destination (R294). -/
def maskwise (s : State) (m : VMask) (r : Nat) (val : Nat → Bool) (i : Nat) : Bool :=
  if i < s.vstart then s.maskBit r i
  else if i < s.nElems then if s.active m i then val i else if s.maskz then false else s.maskBit r i
  else if s.tailz then false else s.maskBit r i

/-- `t` is `s` after a vector instruction that wrote only x register `rd`. -/
structure VecReg (s t : State) (rd : Reg) (v : Word) : Prop where
  regs : ∀ r, t.x r = if r = rd ∧ rd ≠ 0 then v else s.x r
  pc : t.pc = s.pc + 8
  csr : t.hart.csr = doneCsr s 0
  memory : SameMemory s t
  rest : t = { s with hart := { s.hart with
    x := t.hart.x, pc := t.hart.pc, csr := t.hart.csr, asked := [], answers := [] } }

/-- The active elements below n of a group, with their indices, ascending. -/
def actives (s : State) (m : VMask) (g : Reg) (w : Nat) : List (Nat × Nat) :=
  ((List.range s.nElems).filter (s.active m)).map fun i => (i, s.elem g.toNat w i)

/-! ### Operations at memory -/

/-- `u` is `s` but for what memory, the caches and the vector unit's registers hold: nothing in it bears on where an
address leads whose translation is cached or that lies in the shared-store window. -/
def AsAddressed (s u : State) : Prop :=
  ∃ u' : State, u = { s with
    mem := u'.mem, pois := u'.pois, dcache := u'.dcache, locked := u'.locked, lockOvf := u'.lockOvf, crew := { s.crew with work := u'.crew.work }
    hart := { s.hart with
      v := u'.hart.v, vpois := u'.hart.vpois, m := u'.hart.m, wext := u'.hart.wext, ds := u'.hart.ds
      acc := u'.hart.acc, accPois := u'.hart.accPois, trow := u'.hart.trow, olds := u'.hart.olds
      csr := { s.hart.csr with vflags := u'.hart.csr.vflags, vstart := u'.hart.csr.vstart } } }

/-- An access of `n` bytes at `va` reaches the pieces `ps` of local memory whatever memory and the vector registers hold (its
translation is cached, or it lies in the shared-store window), with no copy still to fill them and none poisoned. -/
def Lands (s : State) (a : Acc) (need : Need) (va : Word) (n : Nat) (ps : List (Nat × Nat × Place)) : Prop :=
  (∀ u, AsAddressed s u → reachAll a need va n u = .ok (ps, u))
  ∧ ∀ p ∈ ps, ∃ pa, p.2.2 = .mem pa ∧ unfilled s pa p.2.1 = [] ∧ s.poisonedAny pa p.2.1 = false

/-- The value a core's vector side reads over the pieces of an access. -/
def seenPieces (s : State) (ps : List (Nat × Nat × Place)) : Nat := piecesOf (seen s) ps

/-- The addresses of a vector load or store need no VL that the vector side is still to give (R137). -/
def Addressed (s : State) : Prop := s.hart.vlDs = false ∨ Quiet s

/-- A byte at its home and as the core's scalar side sees it, after an instruction that stored to other bytes: as before, or
what the core had dirty. -/
def Kept (s t : State) (a : Nat) : Prop :=
  (t.byteAt a = s.byteAt a ∨ t.byteAt a = seen s a)
  ∧ (t.coreByte s.crew.core a = s.coreByte s.crew.core a ∨ t.coreByte s.crew.core a = seen s a)

/-- `t` is `s` after a vector instruction at memory that gave the elements of group `g` the values `el` and left bytes
of memory as `mem` says; the x registers, the masks and everything else are as before, but for the record of granules
that the hart has stored to (R207) and of where VL was set (R343). -/
structure VecAtMemory (s t : State) (g w : Nat) (el : Nat → Nat) (c : Csrs) (mem : Nat → Option Byte) : Prop where
  elems : ∀ i, i < s.mvl → t.elem g w i = el i
  others : ∀ k, k < g * s.hart.vlenb ∨ g * s.hart.vlenb + s.mvl * w ≤ k → FMap.getD 0 k t.hart.v = FMap.getD 0 k s.hart.v
  stored : ∀ a b, mem a = some b → t.byteAt a = b ∧ t.coreByte s.crew.core a = b
  kept : ∀ a, mem a = none → Kept s t a
  cores : OthersKept s t
  csr : t.hart.csr = c
  pc : t.pc = s.pc + 8
  regs : ∀ r, t.x r = s.x r
  rest : t = { s with
    mem := t.mem, pois := t.pois, dcache := t.dcache, locked := t.locked, lockOvf := t.lockOvf
    hart := { s.hart with
      v := t.hart.v, vpois := t.hart.vpois, wext := t.hart.wext, pc := t.hart.pc, csr := t.hart.csr, asked := [], answers := []
      olds := t.hart.olds, vlDs := t.hart.vlDs } }

/-- As `VecAtMemory` for an instruction that writes no vector register. -/
structure StoreEffect (s t : State) (c : Csrs) (mem : Nat → Option Byte) : Prop where
  stored : ∀ a b, mem a = some b → t.byteAt a = b ∧ t.coreByte s.crew.core a = b
  kept : ∀ a, mem a = none → Kept s t a
  cores : OthersKept s t
  csr : t.hart.csr = c
  pc : t.pc = s.pc + 8
  regs : ∀ r, t.x r = s.x r
  rest : t = { s with
    mem := t.mem, pois := t.pois, dcache := t.dcache, locked := t.locked, lockOvf := t.lockOvf
    hart := { s.hart with
      pc := t.hart.pc, csr := t.hart.csr, m := t.hart.m, asked := [], answers := [], olds := t.hart.olds } }

/-- The byte that stores one after another, each of a value over pieces, leave at `a`, if they store there. -/
def storedBy (l : List (Nat × List (Nat × Nat × Place))) (a : Nat) : Option Byte :=
  l.foldl (fun r p => match storedAt p.1 a p.2 with | some b => some b | none => r) none

/-- As `storedBy`, of the active elements of this execution, element `i` of value `val i` over the pieces `ps i`,
ascending. -/
def storedByElems (s : State) (m : VMask) (val : Nat → Nat) (ps : Nat → List (Nat × Nat × Place)) : Nat → Option Byte :=
  storedBy (((upFrom s.vstart (s.nElems - s.vstart)).filter (s.active m)).map fun i => (val i, ps i))

/-- Updates of `w` bytes one after another: each takes (address, operand, compare value), and gives the old value; with the
bytes of memory after them and the flags raised. -/
def updates (op : AtomOp) (w : Nat) : List (Nat × Nat × Nat) → (Nat → Byte) → List Nat × (Nat → Byte) × Nat
  | [], mem => ([], mem, 0)
  | (pa, v, cmp) :: r, mem =>
    let old := ofBytesLE ((upFrom pa w).map mem)
    let new := atomNew op w old v cmp
    let (olds, mem', fl) := updates op w r fun a => if pa ≤ a ∧ a < pa + w then BitVec.ofNat 8 (new.1 / 256 ^ (a - pa)) else mem a
    (old :: olds, mem', new.2 ||| fl)

/-- Whether an address lies in one of the updated locations. -/
def Updated (w : Nat) (es : List (Nat × Nat × Nat)) (a : Nat) : Bool := es.any fun e => decide (e.1 ≤ a) && decide (a < e.1 + w)

/-! ### Link queues and tiles -/

/-- The current crew's endpoint of a link queue. -/
def queueOf (s : State) (q : Reg) : LqEnd := s.lqEnd s.crew.uid q.toNat

/-- A link queue the current hart may send to at once: declared, BOUND for sending, its peer present, with a credit, and
with a peer that this device's router does not refuse (R33, R46, R49). -/
def MaySend (s : State) (q : Reg) : Prop :=
  q.toNat < 16 ∧ q.toNat < s.crew.lqs ∧ (queueOf s q).st = .bound ∧ (queueOf s q).dir = true ∧ (queueOf s q).away = false
  ∧ 0 < (queueOf s q).credit ∧ s.lqRoute (queueOf s q).pchip = true

/-- A link queue from which the current hart takes the message `e` next, which no outer product in flight holds (R46,
R153). -/
def MayTake (s : State) (q : Reg) (e : TileMsg) (rest : List TileMsg) : Prop :=
  q.toNat < 16 ∧ q.toNat < s.crew.lqs ∧ ((queueOf s q).st = .bound ∨ (queueOf s q).st = .pending) ∧ (queueOf s q).dir = false
  ∧ (queueOf s q).held = e :: rest ∧ s.lqInUse q.toNat = false

/-- The state after a tile message is sent with one credit: on this device it travels to the peer's endpoint, else it leaves
through a port, and its tag is kept for an error response. -/
def sentTile (s : State) (q : Reg) (rows cols fmt : Nat) (data : List Byte) : State :=
  let e := queueOf s q
  let m : TileMsg := {
    key := e.pkey, rows, cols, fmt, bytes := data.length, zeroOk := true, data, chip := s.chipId, skey := e.key
    tenant := s.crew.tenant, viaPort := decide (e.pchip ≠ s.chipId), tag := s.nextTag, core := s.crew.core }
  let u : State := { s.putEnd s.crew.uid q.toNat { e with credit := e.credit - 1 } with nextTag := s.nextTag + 1 }
  if e.pchip = s.chipId then { u with wire := u.wire ++ [.tileMessage m] }
  else { u.emitNet (.tile e.pchip m) with
    lqTags := u.lqTags ++ [{ tag := s.nextTag, crew := s.crew.uid, q := q.toNat, hart := s.hart.idx, away := false }] }

/-- The entry taken from a queue has left it; bound, the queue has sent its credit back (R46). -/
def tookEntry (s t : State) (q : Reg) (rest : List TileMsg) : Prop :=
  (queueOf t q).held = rest ∧ ((queueOf s q).st = .bound → (queueOf s q).pchip = s.chipId →
    ∃ c, t.wire = s.wire ++ [.creditReturn c] ∧ c.chip = s.chipId ∧ c.key = (queueOf s q).key ∧ c.pkey = (queueOf s q).pkey)

/-- Tile elements (row, column), and those of all tiles but `a`, are those of `s`. -/
def OtherTiles (s t : State) (a : Reg) : Prop :=
  ∀ k r c, k ≠ a.toNat → r < 64 → c < 64 → tileElem t k r c = tileElem s k r c

/-- A matrix instruction may use tile `a`: it is enabled and no outer product is incomplete. -/
def TileReady (s : State) (a : Reg) : Prop := a.toNat < 8 ∧ a.toNat < s.hart.tiles ∧ Quiet s

/-! ### Events -/

/-- The event `j`, with its operands `i`, ends in a next state with a property. -/
def Happens (s : State) (i : Input) (j : Instr) (P : State → Prop) : Prop :=
  ∃ t, exec j { s with input := some i } = .next t ∧ P t

/-- Harts, crews and memory are as before. -/
def Aside (s t : State) : Prop :=
  t.hart = s.hart ∧ t.harts = s.harts ∧ t.crew = s.crew ∧ t.crews = s.crews ∧ t.cur = s.cur ∧ t.mem = s.mem ∧ t.dcache = s.dcache

/-- A message leaves the device: at once where it passes no port; through a port that is UP, with nothing before it and
room for its flits in the replay buffer, as the flits of its packet, which stay there until they are acknowledged (R24,
R25). -/
def Leaves (s t : State) (o : Output) : Prop :=
  (s.packetOf o = none → t.out = s.out ++ [o] ∧ t.ports = s.ports)
  ∧ ∀ k, s.packetOf o = some k → k.port < 6 → s.portState k.port = 2 → (s.port k.port).waiting = [] →
      (s.port k.port).replay.length + k.flits ≤ 512 →
      let fs := (List.range k.flits).map (k.flit (s.port k.port))
      t.out = s.out ++ [o, .flits k.port fs]
      ∧ (t.port k.port).nextSeq = ((s.port k.port).nextSeq + k.flits) % 4096
      ∧ (t.port k.port).replay = (s.port k.port).replay ++ fs.map fun f => { wire := f, msg := o }

/-- Bytes have been stored at `pa` on, and no other byte of memory has changed. -/
def Wrote (s t : State) (pa : Nat) (bs : List Byte) : Prop :=
  ∀ a, t.byteAt a = if pa ≤ a ∧ a < pa + bs.length then bs.getD (a - pa) 0 else s.byteAt a

/-- The current crew's endpoint of link queue `q` is now `e`. -/
def EndIs (s t : State) (q : Nat) (e : LqEnd) : Prop := t.lqEnd s.crew.uid q = e

/-- A control message has been put on its way to an endpoint of this device, addressed by the keys of `e`. -/
def Told (s t : State) (e : LqEnd) (k : LqKind) : Prop :=
  ∃ m : LqMsg, t.wire = s.wire ++ [lqInput k m] ∧ m.chip = s.chipId ∧ m.key = e.key ∧ m.pkey = e.pkey

end Sys2Proof.Safety
end

