-- ==== Sys2Proof/Certificates/Slice0/Obligations.lean ====
section
/-!
DEFINITION. What is claimed of the model: one proposition for each entry of OBLIGATIONS.json. The words they use stand in
Sys2Proof/Safety.lean and in the model itself.
-/
open Sys2Proof Sys2Proof.Machine Sys2Proof.Machine.State Sys2Proof.Safety

/-- The words that R291 and the example after R312 write out (VSETL x5, x6, sew32; LIH x5, 0x12345; ADDI x5, x5, 0x678),
and words laid out field by field from the formats of R283 and R288 (ADD, STD with a negative offset, BEQ backwards,
SRAI, ANDI with an immediate of which only the shifts would make something, a masked VADD), decode to the instructions they
stand for; the SRAI word with imm12[11:6] neither 0 nor 0b100000, and the all-zero word, decode to none. (12_encoding R283,
12_encoding R286, 12_encoding R288, 12_encoding R291, 13_scalar_system R312) -/
def Obligations.DecodesSpecWords : Prop :=
  decodeTableWord 64 0x002000018000C503 = some (.vsetl 5 6 0x020 none)
  ∧ decodeTableWord 32 0x12345292 = some (.lih 5 0x12345)
  ∧ decodeTableWord 32 0x67805284 = some (.addi 5 5 0x678)
  ∧ decodeTableWord 32 0x00062082 = some (.add 1 2 3)
  ∧ decodeTableWord 32 0xFF80838A = some (.std 7 8 0xFF8)
  ∧ decodeTableWord 32 0xFFC0208C = some (.beq 1 2 0xFFC)
  ∧ decodeTableWord 32 0x805E2084 = some (.srai 1 2 5)
  ∧ decodeTableWord 32 0x8052E084 = some (.andi 1 14 0x805)
  ∧ decodeTableWord 32 0x405E2084 = none
  ∧ decodeTableWord 32 0xC05E2084 = none
  ∧ decodeTableWord 64 0x000000002014C40F = some (.vadd 4 5 (.v 6) (.masked 2))
  ∧ decodeTableWord 32 0 = none

/-- For every well-formed instruction i of the 216 forms, with every operand at every value its encoding admits, and
whatever parcels follow, decoding the parcels of encode i gives i. (12_encoding R281, 12_encoding R283, 12_encoding
R287, 12_encoding R288, 12_encoding R289) -/
def Obligations.EncodeDecodeRoundTrip : Prop :=
  ∀ (i : Instr) (rest : List Parcel), i.wf = true → decode (encode i ++ rest) = .ok i

/-- If parcels decode to an instruction i, then i is well-formed and the parcels begin with exactly the parcels encode i:
no reserved field, unused K1, MOD or immediate bit, and no mask field that R289 forbids, passes the decoder.
(12_encoding R289, 12_encoding R292) -/
def Obligations.DecodeAcceptsOnlyEncodings : Prop :=
  ∀ (ps : List Parcel) (i : Instr), decode ps = .ok i → i.wf = true ∧ ∃ rest, ps = encode i ++ rest

/-- When the schedule's next move gives a hart its turn in state r, no imprecise report is due, fetching at the program
counter gives the parcels ps with caches as in u, and ps decode to i, then the step is exec of i at u, with the first
parcel held for TVAL (a VLOCK's two parcels stay with the hart). An instruction for the vector queue executes so where
the arbiter of the lane group grants it, in the state that the grant leaves; the crew has issued then, and its
watchdog's window begins with its first instruction (R81); where the arbiter keeps it waiting the step ends there, and
where another hart's head comes first that hart has its turn instead. (12_encoding R281, 12_encoding R292, 09_traps
R227, 04_scheduler R95) -/
def Obligations.StepRunsDecodedInstruction : Prop :=
  ∀ (s r u : State) (ps : List Parcel) (i : Instr),
    HartMoves s r → impDue r = false → fetchInstr r = .parcels ps u → decode ps = .ok i →
    let v := withParcels ps u
    (∀ t, Granted v ps.length i t → step s = exec i (keepParcels i ps t.noteIssue))
    ∧ (queued ps.length i = true →
      (∀ t, arbiter (occupancy v i) v = .stay t → step s = .next t)
      ∧ ∀ slot t, arbiter (occupancy v i) v = .other slot → r.focus slot = some t →
        step s = match turnOf .done none t with
          | .run j w => exec j w
          | .done w => .next w
          | .stop f => .fault f)

/-- When nothing is prefetched or held in an instruction cache, and each parcel of a well-formed instruction i stands,
little-endian, at the 4-byte-aligned local memory address that the program counter plus its offset translates to for
fetching, in a line neither poisoned nor awaiting a copy, then fetching at the program counter gives exactly the parcels
of i, and changes nothing but the instruction caches and which lines of memory's own caches are locked (R172).
(12_encoding R281, 12_encoding R282, 08_ordering R212, 07_memory R176) -/
def Obligations.FetchReadsEncodedInstruction : Prop :=
  ∀ (s : State) (i : Instr) (pas : Nat → Nat),
    i.wf = true → s.hart.ibuf = [] → s.icache = [] → s.cregs = [] → s.hart.pc.toNat % 4 = 0 →
    (∀ k (h : k < (encode i).length),
      s.reach .fetch ((s.hart.pc.toNat + 4 * k) % 2 ^ 64) 4 = .ok (pas k) ∧ s.place (pas k) = .mem (pas k)
      ∧ pas k % 4 = 0 ∧ s.poisoned (pas k) = false ∧ s.readHome (pas k) 4 = ((encode i)[k]).toNat) →
    ∃ u, fetchInstr s = .parcels (encode i) u ∧ u = { s with icache := u.icache, locked := u.locked, lockOvf := u.lockOvf }

/-- In the turn of a hart: a pending imprecise report that is due is taken before anything is fetched; a fetch that faults
executes the fetch-fault step with the VA of the parcel that failed; parcels that decode to no instruction execute the
undefined-encoding step with the first parcel; a fetch that meets a line which a copy has not filled waits, or takes what
the copy's fault makes of it. While an older instruction is incomplete, what would be a trap waits. (09_traps R223,
09_traps R227, 06_core R136, 06_core R160, 12_encoding R282, 12_encoding R292) -/
def Obligations.StepTakesReportsAndFailures : Prop :=
  ∀ (s r : State), HartMoves s r →
    (impDue r = true → (Quiet r → step s = exec .impreciseTrap r) ∧ (¬Quiet r → step s = .next r))
    ∧ (impDue r = false → ∀ va sub, fetchInstr r = .fault va sub →
        step s = exec (.fetchFault (nw va) (BitVec.ofNat 4 sub)) r)
    ∧ (impDue r = false → ∀ ps u e, fetchInstr r = .parcels ps u → decode ps = .error e →
        step s = exec (.undefinedEncoding (ps.headD 0)) (withParcels ps u).noteIssue)
    ∧ (impDue r = false → ∀ e, fetchInstr r = .stop e → step s = .next (e.inOrder r).state)

/-- For every instruction or event and every state, exec answers a next state: there is no refusal and no machine fault in
executing anything. (12_encoding R292, 09_traps R220, 95_what_each_step_holds) -/
def Obligations.EveryInstructionHasAMeaning : Prop :=
  ∀ (i : Instr) (s : State), ∃ t, exec i s = .next t

/-- If a step does not answer a next state, then its fault is noSuchHart (log 2, the model's own) and the schedule's next
move is the turn of a hart that no crew holds. (95_what_each_step_holds, 04_scheduler R94) -/
def Obligations.OnlyAnAbsentHartStopsAStep : Prop :=
  ∀ s : State, (∃ t, step s = .next t) ∨
    (step s = .fault .noSuchHart ∧ ∃ dt slot stop ms, s.moves = .hart dt slot stop :: ms
      ∧ (advanceTime dt { s with moves := ms }).focus slot = none)

/-- At State.reset the map of memory bytes and the map of poisoned lines are canonical, every register of the BARs reads
the reset value of its map, and no byte of memory is listed (an unlisted byte reads 0x00 by the model's choice of log
3). (00_scope R5, 03_host_launch R56) -/
def Obligations.ResetKeepsInvariant : Prop :=
  Inv State.reset ∧ (∀ k, State.reset.reg k = regReset k) ∧ State.reset.mem = []

/-- For every state whose maps of memory bytes and of poisoned lines are canonical, every next state of a step has
canonical maps: whichever instruction or event runs, addresses rise strictly and no listed byte equals what an
unlisted one reads as, so equal memories are equal data. (07_memory R162, 07_memory R187, 00_scope R3) -/
def Obligations.StepKeepsInvariant : Prop :=
  ∀ s t : State, Inv s → step s = .next t → Inv t

/-- The 21 OP forms complete in every state, write to rd (nothing where rd is x0) the value R308 gives from a = rs1 and b
= rs2, and change nothing else: sums, differences and products modulo 2^64, bitwise operations, shifts by b[5:0],
signed and unsigned comparisons as 0 or 1, signed and unsigned minimum and maximum, high halves of signed and unsigned
products, and truncating division and remainder, where division by zero gives all ones and the dividend.
(13_scalar_system R308, 12_encoding R284, 11_numbers R268) -/
def Obligations.ScalarOpResults : Prop :=
  ∀ (s : State) (d a b : Reg),
    let x := s.x a
    let y := s.x b
    let k := y.toNat % 64
    Gives s (.add d a b) d (BitVec.ofInt 64 (x.toInt + y.toInt))
    ∧ Gives s (.sub d a b) d (BitVec.ofInt 64 (x.toInt - y.toInt))
    ∧ Gives s (.and d a b) d (x &&& y) ∧ Gives s (.or d a b) d (x ||| y) ∧ Gives s (.xor d a b) d (x ^^^ y)
    ∧ Gives s (.sll d a b) d (nw (x.toNat * 2 ^ k))
    ∧ Gives s (.srl d a b) d (nw (x.toNat / 2 ^ k))
    ∧ Gives s (.sra d a b) d (BitVec.ofInt 64 (x.toInt / 2 ^ k))
    ∧ Gives s (.slt d a b) d (if x.toInt < y.toInt then 1 else 0)
    ∧ Gives s (.sltu d a b) d (if x.toNat < y.toNat then 1 else 0)
    ∧ Gives s (.min d a b) d (BitVec.ofInt 64 (min x.toInt y.toInt))
    ∧ Gives s (.max d a b) d (BitVec.ofInt 64 (max x.toInt y.toInt))
    ∧ Gives s (.minu d a b) d (nw (min x.toNat y.toNat))
    ∧ Gives s (.maxu d a b) d (nw (max x.toNat y.toNat))
    ∧ Gives s (.mul d a b) d (BitVec.ofInt 64 (x.toInt * y.toInt))
    ∧ Gives s (.mulh d a b) d (BitVec.ofInt 64 (x.toInt * y.toInt / 2 ^ 64))
    ∧ Gives s (.mulhu d a b) d (nw (x.toNat * y.toNat / 2 ^ 64))
    ∧ Gives s (.div d a b) d (if y = 0 then -1 else BitVec.ofInt 64 (x.toInt.tdiv y.toInt))
    ∧ Gives s (.divu d a b) d (if y = 0 then -1 else nw (x.toNat / y.toNat))
    ∧ Gives s (.rem d a b) d (if y = 0 then x else BitVec.ofInt 64 (x.toInt.tmod y.toInt))
    ∧ Gives s (.remu d a b) d (if y = 0 then x else nw (x.toNat % y.toNat))

/-- The OPW forms compute on the low 32 bits and write the sign-extended word, shifting by b[4:0]; the OPI forms act as
their OP forms with the sign-extended immediate in place of b, or shift by the six-bit amount; LIH writes the
sign-extended imm20 shifted left by 12 and ADDPC adds it to the program counter. Each completes in every state, writes
only rd, and changes nothing else. (R309, R312) -/
def Obligations.WordAndImmediateResults : Prop :=
  ∀ (s : State) (d a b : Reg) (i : BitVec 12) (sh : BitVec 6) (u : BitVec 20),
    let x := s.x a
    let lo (w : Word) : Nat := w.toNat % 2 ^ 32
    let k := (s.x b).toNat % 32
    let word (v : Int) : Word := BitVec.ofInt 64 (v.bmod (2 ^ 32))
    Gives s (.addw d a b) d (word (lo x + lo (s.x b)))
    ∧ Gives s (.subw d a b) d (word ((lo x : Int) - lo (s.x b)))
    ∧ Gives s (.mulw d a b) d (word (lo x * lo (s.x b)))
    ∧ Gives s (.sllw d a b) d (word (lo x * 2 ^ k))
    ∧ Gives s (.srlw d a b) d (word ((lo x / 2 ^ k : Nat)))
    ∧ Gives s (.sraw d a b) d (word ((lo x : Int).bmod (2 ^ 32) / 2 ^ k))
    ∧ Gives s (.addi d a i) d (BitVec.ofInt 64 (x.toInt + i.toInt))
    ∧ Gives s (.andi d a i) d (x &&& BitVec.ofInt 64 i.toInt)
    ∧ Gives s (.ori d a i) d (x ||| BitVec.ofInt 64 i.toInt)
    ∧ Gives s (.xori d a i) d (x ^^^ BitVec.ofInt 64 i.toInt)
    ∧ Gives s (.slti d a i) d (if x.toInt < i.toInt then 1 else 0)
    ∧ Gives s (.sltiu d a i) d (if x.toNat < (BitVec.ofInt 64 i.toInt).toNat then 1 else 0)
    ∧ Gives s (.slli d a sh) d (nw (x.toNat * 2 ^ sh.toNat))
    ∧ Gives s (.srli d a sh) d (nw (x.toNat / 2 ^ sh.toNat))
    ∧ Gives s (.srai d a sh) d (BitVec.ofInt 64 (x.toInt / 2 ^ sh.toNat))
    ∧ Gives s (.lih d u) d (BitVec.ofInt 64 (u.toInt * 2 ^ 12))
    ∧ Gives s (.addpc d u) d (s.pc + BitVec.ofInt 64 (u.toInt * 2 ^ 12))

/-- CLZ and CTZ count leading and trailing zeros, 64 for zero; POPC counts one bits; BSWAP reverses the eight bytes; BFX
extracts and BFI inserts a field of width + 1 bits at pos, keeping rd's other bits, and a field that passes bit 63
raises ILLEGAL with SUB 1 and TVAL the parcel. Each writes only rd. (13_scalar_system R311, 09_traps R223) -/
def Obligations.BitManipulationResults : Prop :=
  ∀ (s : State) (d a : Reg) (p w : BitVec 6),
    let x := s.x a
    Gives s (.clz d a) d (nw (if x = 0 then 64 else 63 - Nat.log2 x.toNat))
    ∧ (∃ n, Gives s (.ctz d a) d (nw n) ∧ (x = 0 → n = 64) ∧ (x ≠ 0 → x.getLsbD n = true ∧ ∀ j, j < n → x.getLsbD j = false))
    ∧ Gives s (.popc d a) d (nw ((List.range 64).filter fun j => x.getLsbD j).length)
    ∧ (∃ v, Gives s (.bswap d a) d v ∧ ∀ j, j < 8 → v.extractLsb' (8 * j) 8 = x.extractLsb' (8 * (7 - j)) 8)
    ∧ (p.toNat + w.toNat < 64 →
        Gives s (.bfx d a p w) d (nw (x.toNat / 2 ^ p.toNat % 2 ^ (w.toNat + 1)))
        ∧ ∃ v, Gives s (.bfi d a p w) d v ∧ ∀ j, j < 64 → v.getLsbD j =
            if p.toNat ≤ j ∧ j ≤ p.toNat + w.toNat then x.getLsbD (j - p.toNat) else (s.x d).getLsbD j)
    ∧ (64 ≤ p.toNat + w.toNat →
        Traps s (.bfx d a p w) .illegal 1 s.parcel ∧ Traps s (.bfi d a p w) .illegal 1 s.parcel)

/-- A branch goes to pc + SignExtend(imm12) × 4 when its condition on the 64-bit register values holds and to pc + 4
otherwise, writing no register; JL writes pc + 4 to rd and goes to pc + SignExtend(imm20) × 4; JLR goes to rs1 +
SignExtend(imm12), read before rd is written, and where that is no multiple of 4 raises MISALIGN_FETCH with TVAL the
target and writes no link. (R314, R315) -/
def Obligations.BranchesAndJumps : Prop :=
  ∀ (s : State) (d a b : Reg) (i : BitVec 12) (u : BitVec 20),
    let x := s.x a
    let y := s.x b
    let go (c : Bool) : Word := if c then s.pc + BitVec.ofInt 64 (i.toInt * 4) else s.pc + 4
    let t := x + BitVec.ofInt 64 i.toInt
    Jumps s (.beq a b i) 0 0 (go (decide (x = y)))
    ∧ Jumps s (.bne a b i) 0 0 (go (decide (x ≠ y)))
    ∧ Jumps s (.blt a b i) 0 0 (go (decide (x.toInt < y.toInt)))
    ∧ Jumps s (.bge a b i) 0 0 (go (decide (y.toInt ≤ x.toInt)))
    ∧ Jumps s (.bltu a b i) 0 0 (go (decide (x.toNat < y.toNat)))
    ∧ Jumps s (.bgeu a b i) 0 0 (go (decide (y.toNat ≤ x.toNat)))
    ∧ Jumps s (.jl d u) d (s.pc + 4) (s.pc + BitVec.ofInt 64 (u.toInt * 4))
    ∧ (t.toNat % 4 = 0 → Jumps s (.jlr d a i) d (s.pc + 4) t)
    ∧ (t.toNat % 4 ≠ 0 → Traps s (.jlr d a i) .misalignFetch 0 t)

/-- The FPU and FMA forms complete in every state (FCMP for its four conditions, FCVT for its nine kinds): they write to
rd the result of the operation R317 to R319 name, computed by the model's arithmetic of its format at the rounding
mode FRM, zero-extended from the format's width, OR its flags into VFLAGS, and change nothing else; FCLASS raises no
flag. What the arithmetic answers is stated by the obligations on rounding and NaN. (13_scalar_system R317,
13_scalar_system R318, 13_scalar_system R319, 13_scalar_system R320, 11_numbers R261) -/
def Obligations.ScalarFloatResults : Prop :=
  ∀ (s : State) (dbl : Bool) (d a b c : Reg) (k : BitVec 4),
    let f := sfmt dbl
    let x := fpx dbl (s.x a)
    let y := fpx dbl (s.x b)
    let z := fpx dbl (s.x c)
    let gives (i : Instr) (r : FRes) : Prop := GivesFl s i d (nw r.1) r.2
    gives (.fadd dbl d a b) (fpAdd f s.frm x y) ∧ gives (.fsub dbl d a b) (fpSub f s.frm x y)
    ∧ gives (.fmul dbl d a b) (fpMul f s.frm x y) ∧ gives (.fdiv dbl d a b) (fpDiv f s.frm x y)
    ∧ gives (.fsqrt dbl d a) (fpSqrt f s.frm x)
    ∧ gives (.fmin dbl d a b) (fpMinMax f false x y) ∧ gives (.fmax dbl d a b) (fpMinMax f true x y)
    ∧ gives (.fma dbl d a b c) (fpFma f s.frm false false x y z)
    ∧ (k.toNat < 4 → gives (.fcmp dbl k d a b) (b2n (fpCompare f k.toNat x y).1, (fpCompare f k.toNat x y).2))
    ∧ Gives s (.fclass dbl d a) d (nw (fpClassify f x))
    ∧ (k.toNat < 9 → gives (.fcvt dbl k d a) (fcvtOf dbl s.frm k.toNat (s.x a)))

/-- For every state in which each line of a scalar data cache has 64 bytes and 64 dirty bits, every next state of a step
has lines of 64 bytes and 64 dirty bits; and the reset state has such lines. (08_ordering R205, 13_scalar_system R331) -/
def Obligations.StepKeepsCacheLines : Prop :=
  CacheOk State.reset ∧ ∀ s t : State, CacheOk s → step s = .next t → CacheOk t

/-- For every state in which the current crew, every listed crew and every home core of a launch lie on cores 0 to 159,
every next state of a step has them there too; and the reset state has them there. (01_package R8, 04_scheduler R85,
04_scheduler R89) -/
def Obligations.StepKeepsCrewsOnCores : Prop :=
  CoresOk State.reset ∧ ∀ s t : State, CoresOk s → step s = .next t → CoresOk t

/-- For each of the six formats, any rounding mode and operands within the format's width: where an operand of an
addition, subtraction, multiplication, division, minimum or maximum is NaN, the result is the first NaN in operand
order with its fraction MSB set (E4M3 keeps its only NaN of that sign), and NV is raised exactly where an operand is
signalling; a fused multiply-add does the same over a, b, c, and raises NV also where c alone is NaN and the product
is zero times infinity. Under modes 0 to 4, rounding the exact value of a pattern that is neither NaN nor infinite
(with its sign for a zero) gives the pattern back and raises no flag. (11_numbers R266, 11_numbers R259, 11_numbers
R262) -/
def Obligations.NaNOperandsAndExactValues : Prop :=
  ∀ f ∈ [fp64, fp32, fp16, bf16, e5m2, e4m3], ∀ rm a b c : Nat, a < 2 ^ f.w → b < 2 ^ f.w → c < 2 ^ f.w →
    let nv (x : Bool) : Nat := if x then fNV else 0
    let two (r : FRes) : Prop := r = (f.quiet (if f.isNaN a then a else b), nv (f.isSNaN a || f.isSNaN b))
    ((f.isNaN a || f.isNaN b) = true →
      two (fpAdd f rm a b) ∧ two (fpSub f rm a b) ∧ two (fpMul f rm a b) ∧ two (fpDiv f rm a b)
      ∧ two (fpMinMax f false a b) ∧ two (fpMinMax f true a b))
    ∧ ((f.isNaN a || f.isNaN b || f.isNaN c) = true →
        fpFma f rm false false a b c
          = (f.quiet (if f.isNaN a then a else if f.isNaN b then b else c),
             nv (f.isSNaN a || f.isSNaN b || f.isSNaN c
               || (!f.isNaN a && !f.isNaN b && ((f.isZero a && f.isInf b) || (f.isInf a && f.isZero b))))))
    ∧ (rm < 5 → f.isNaN a = false → f.isInf a = false → roundDy f rm (f.val a) (f.sign a) = (a, 0))

/-- Where a load's address, rs1 plus the sign-extended immediate, reaches local memory in one page or across two, with
no fill awaited and no poisoned line, each of the seven forms completes: rd gets the 8, 4, 2 or 1 bytes that the core's
scalar side sees, little-endian, sign-extended by LDW, LDH and LDB and zero-extended by LDD, LDWZ, LDHZ and LDBZ;
nothing else changes but that the core's cache may hold more lines, and every byte reads as before. Holds for any
alignment. The core number and whole cache lines are invariants stated on their own; an error has struck none of the
cache's lines. Where the cache has no room for two lines, dirty lines may leave it for their homes: each byte loaded is
what the core sees or what it would write back, the first where the access lies in one line. Where the load read its
bytes early, as a load of a younger instruction may, it completes with the value it read then. (13_scalar_system R313,
08_ordering R205, 08_ordering R203, 08_ordering R196, 06_core R133, 00_scope R3) -/
def Obligations.ScalarLoadsFromMemory : Prop :=
  ∀ (s : State) (d a : Reg) (i : BitVec 12), s.crew.core < 160 →
    let va := s.x a + BitVec.ofInt 64 i.toInt
    let loads (j : Instr) (n : Nat) (ext : Nat → Word) : Prop :=
      (∀ ps, ReachesMem s .scalarLd .read va n ps → CleanForCore s ps →
        (CacheRoom s → ∃ t, exec j s = .next t ∧ LoadEffect s t d (ext (piecesValue s ps)))
        ∧ (CacheSound s → (∀ p ∈ ps, ∀ pa, p.2.2 = .mem pa → s.poisonedAny pa p.2.1 = false) →
          ∃ t see, exec j s = .next t ∧ (∀ x, see x = s.coreByte s.crew.core x ∨ see x = seen s x)
            ∧ (∀ off pa, ps = [(off, n, .mem pa)] → pa / 64 = (pa + n - 1) / 64 → see = s.coreByte s.crew.core)
            ∧ (∀ r, t.x r = if r = d ∧ d ≠ 0 then ext (piecesOf see ps) else s.x r)
            ∧ t.pc = s.pc + 4 ∧ Crowded s t (fun _ => none)
            ∧ t = { s with
                mem := t.mem, pois := t.pois, dcache := t.dcache, locked := t.locked, lockOvf := t.lockOvf, freeCtr := t.freeCtr
                hart := { s.hart with
                  x := t.hart.x, pc := t.hart.pc, asked := [], answers := []
                  csr := { s.hart.csr with instret := s.hart.csr.instret + 1 } } }))
      ∧ ∀ pa v, reachAll .scalarLd .read va n s = .ok ([(0, n, .mem pa)], s) → s.earlyValue true pa n = some v →
          Gives s j d (ext v)
    loads (.ldd d a i) 8 nw
    ∧ loads (.ldw d a i) 4 (fun v => (BitVec.ofNat 32 v).signExtend 64) ∧ loads (.ldwz d a i) 4 nw
    ∧ loads (.ldh d a i) 2 (fun v => (BitVec.ofNat 16 v).signExtend 64) ∧ loads (.ldhz d a i) 2 nw
    ∧ loads (.ldb d a i) 1 (fun v => (BitVec.ofNat 8 v).signExtend 64) ∧ loads (.ldbz d a i) 1 nw

/-- Scalar accesses that reach the host aperture, or memory of another device that this router does not refuse, with no
outer product incomplete. Each of the seven loads: while a store of the hart to the same bytes is not yet performed it
waits; else, with no answer yet and no request outstanding, the hart sends one request and waits at the instruction;
with the answer there it writes the value, extended, to rd and completes; a refused answer is a LOAD_FAULT with SUB 0
and a poisoned one a POISON trap, both with TVAL the address. Each of the four stores sends its write and retires at
once; the write is remembered until its completion comes. Each of the nine aligned AMOs to another device, of either
width and any ordering suffix, sends one request once its release has ended, waits, and with the answer there writes the
old value to rd and raises AMOFADD's flags; a refused one is a STORE_FAULT with SUB 0 and a poisoned one a POISON trap.
(03_host_launch R71, 02_torus_links R31, 02_torus_links R33, 02_torus_links R34, 06_core R138, 07_memory R187,
13_scalar_system R313, 13_scalar_system R322, 08_ordering R200) -/
def Obligations.LoadsFromHostAndFabric : Prop :=
  ∀ (s : State) (p : Place), Quiet s → s.hart.conv = none → LeavesDevice s p →
    (∀ (d a : Reg) (i : BitVec 12),
      let va := s.x a + BitVec.ofInt 64 i.toInt
      let loads (j : Instr) (n : Nat) (ext : Nat → Word) : Prop :=
        reachAll .scalarLd .read va n s = .ok ([(0, n, p)], s) →
        (BehindPosted s p n → exec j s = .next s)
        ∧ (¬BehindPosted s p n →
          (∀ v, FMap.find 0 s.hart.answers = some (.value v) → Gives s j d (ext v))
          ∧ (FMap.find 0 s.hart.answers = some .refused → Traps s j .loadFault 0 va)
          ∧ (FMap.find 0 s.hart.answers = some .poisoned → Traps s j .poison 0 va)
          ∧ (FMap.find 0 s.hart.answers = none → s.hart.asked = [] →
              let request := readRequest s p n s.nextTag
              ∃ t, exec j s = .next t ∧ t.pc = s.pc ∧ (∀ r, t.x r = s.x r) ∧ SameMemory s t
                ∧ t.hart.asked = [{ tag := s.nextTag, key := 0 }] ∧ t.out = (s.emitNet request).out
                ∧ t.ports = (s.emitNet request).ports ∧ ((∃ off, p = .aperture off) → t.out = s.out ++ [request])))
      loads (.ldd d a i) 8 nw
      ∧ loads (.ldw d a i) 4 (fun v => (BitVec.ofNat 32 v).signExtend 64) ∧ loads (.ldwz d a i) 4 nw
      ∧ loads (.ldh d a i) 2 (fun v => (BitVec.ofNat 16 v).signExtend 64) ∧ loads (.ldhz d a i) 2 nw
      ∧ loads (.ldb d a i) 1 (fun v => (BitVec.ofNat 8 v).signExtend 64) ∧ loads (.ldbz d a i) 1 nw)
    ∧ (∀ (b a : Reg) (i : BitVec 12),
      let va := s.x a + BitVec.ofInt 64 i.toInt
      let stores (j : Instr) (n : Nat) : Prop := InOrder s → reachAll .scalarSt .write va n s = .ok ([(0, n, p)], s) →
        let request := writeRequest s p n ((s.x b).toNat % 2 ^ (8 * n)) s.nextTag
        ∃ t, exec j s = .next t ∧ Retired s t ∧ SameMemory s t ∧ t.nextTag = s.nextTag + 1
          ∧ t.hart.posted = s.hart.posted ++ [{
              tag := s.nextTag, va := va.toNat, by_ := .hart, lo := awayAt p, n, ins := s.hart.csr.instret, bad := false }]
          ∧ t.out = (s.emitNet request).out ∧ t.ports = (s.emitNet request).ports
          ∧ ((∃ off, p = .aperture off) → t.out = s.out ++ [request])
      stores (.std b a i) 8 ∧ stores (.stw b a i) 4 ∧ stores (.sth b a i) 2 ∧ stores (.stb b a i) 1)
    ∧ (∀ (dbl : Bool) (ord : BitVec 2) (d a b : Reg) (chip off : Nat) (s1 : State),
      let w := if dbl then 8 else 4
      let v := (s.x b).toNat % 2 ^ (8 * w)
      let cmp := (s.x d).toNat % 2 ^ (8 * w)
      p = .remote chip off → (s.x a).toNat % w = 0 → reachAll .atomic .write (s.x a) w s = .ok ([(0, w, p)], s) →
      (if 2 ≤ ord.toNat then release 3 s else .ok ((), s)) = .ok ((), s1) →
      let amo (j : Instr) (op : AtomOp) : Prop :=
        let request (tag : Nat) : Output := .request chip
          { kind := .atomic op, src := s.chipId, tenant := s.crew.tenant, tag, off, width := w, dat := v, cmp, core := s.crew.core }
        (FMap.find (updateKey 0) s.hart.answers = none → s.hart.asked = [] →
          exec j s = .next (s1.sendAsk (updateKey 0) request))
        ∧ (∀ old s2, FMap.find (updateKey 0) s.hart.answers = some (.value old) →
            (if ord.toNat % 2 = 1 then acquire 3 s1 else .ok ((), s1)) = .ok ((), s2) →
            exec j s = .next (((s2.addFlags (atomNew op w old v cmp).2).setX d
              (if op = .fadd then nw old else sextW old (8 * w))).advance 4))
        ∧ (FMap.find (updateKey 0) s.hart.answers = some .refused →
            exec j s = .next (s1.takeTrap .storeFault 0 (s.x a) s1.hart.pc false))
        ∧ (FMap.find (updateKey 0) s.hart.answers = some .poisoned →
            exec j s = .next (s1.takeTrap .poison 0 (s.x a) s1.hart.pc false))
      amo (.amoadd dbl ord d a b) .add ∧ amo (.amoand dbl ord d a b) .and ∧ amo (.amoor dbl ord d a b) .or
      ∧ amo (.amoxor dbl ord d a b) .xor ∧ amo (.amomin dbl ord d a b) .min ∧ amo (.amomax dbl ord d a b) .max
      ∧ amo (.amoswap dbl ord d a b) .swap ∧ amo (.amocas dbl ord d a b) .cas ∧ amo (.amofadd dbl ord d a b) .fadd)

/-- Where a store's address reaches local memory in one page or across two, with no fill awaited and no outer product
incomplete, each of the four forms completes: the low 8, 4, 2 or 1 bytes of rs2, little-endian at the addresses the
access reaches, are what the hart's core sees there; every other byte that core sees, every byte another core sees and
every byte at its home reads as before, since the store stays in the core's cache, which has room for two lines and
holds none that an error has struck; no register changes. Where the cache has no room, dirty lines may leave it for
their homes, the stored bytes' own among them. A store that is to wait, inside one memory slice and to lines that are
not poisoned, retires at once into the hart's store queue, and what younger loads have read early of its bytes no longer
serves. (13_scalar_system R313, 08_ordering R205, 08_ordering R203, 08_ordering R197, 08_ordering R195, 06_core R133,
00_scope R3) -/
def Obligations.ScalarStoresToMemory : Prop :=
  ∀ (s : State) (b a : Reg) (i : BitVec 12), s.crew.core < 160 → Quiet s →
    let va := s.x a + BitVec.ofInt 64 i.toInt
    let stores (j : Instr) (n : Nat) : Prop := ∀ ps, ReachesMem s .scalarSt .write va n ps →
      (CacheRoom s → ∃ t, exec j s = .next t ∧ (∀ r, t.x r = s.x r) ∧ t.pc = s.pc + 4
        ∧ (∀ x, t.byteAt x = s.byteAt x)
        ∧ (∀ core x, core < 160 → t.coreByte core x =
            if core = s.crew.core then (storedAt (s.x b).toNat x ps).getD (s.coreByte core x) else s.coreByte core x)
        ∧ t = { s with dcache := t.dcache, locked := t.locked, lockOvf := t.lockOvf, hart := { s.hart with
            pc := t.hart.pc, asked := [], answers := [], olds := t.hart.olds
            csr := { s.hart.csr with instret := s.hart.csr.instret + 1 } } })
      ∧ (CacheSound s → ∃ t, exec j s = .next t ∧ (∀ r, t.x r = s.x r) ∧ t.pc = s.pc + 4
        ∧ Crowded s t (fun x => storedAt (s.x b).toNat x ps)
        ∧ t = { s with
            mem := t.mem, pois := t.pois, dcache := t.dcache, locked := t.locked, lockOvf := t.lockOvf, freeCtr := t.freeCtr
            hart := { s.hart with
              pc := t.hart.pc, asked := [], answers := [], olds := t.hart.olds
              csr := { s.hart.csr with instret := s.hart.csr.instret + 1 } } })
      ∧ ∀ pa, ps = [(0, n, .mem pa)] → 0 < s.hart.late → sliceOf pa = sliceOf (pa + n - 1) → s.poisonedAny pa n = false →
          exec j s = .next (((s.forget pa n).onHart fun h => { h with
            late := h.late - 1, stq := h.stq ++ [{ scalar := true, pa, n, v := (s.x b).toNat % 2 ^ (8 * n) }] }).advance 4)
    stores (.std b a i) 8 ∧ stores (.stw b a i) 4 ∧ stores (.sth b a i) 2 ∧ stores (.stb b a i) 1

/-- Where an aligned AMO of 4 or 8 bytes reaches local memory that is not poisoned, with no fill awaited and no outer
product incomplete, each of the nine operations completes under any ordering suffix: the bytes at the home become the
operation's new value of the old contents (the core's own dirty bytes written back first), rd gets the old value,
sign-extended but for AMOFADD, whose flags go into VFLAGS; every other byte at its home is as before or as the core had
it dirty, and without a suffix only bytes of the location's own line can be so written back; other cores' caches and
everything else are as before, but for the record of granules stored to since the last release. No error has struck a
line of the core's cache, and with a suffix no copy is to fill one. (13_scalar_system R322, 08_ordering R199,
08_ordering R205, 07_memory R170) -/
def Obligations.ScalarAtomics : Prop :=
  ∀ (s : State) (dbl : Bool) (ord : BitVec 2) (d a b : Reg) (pa : Nat),
    let w := if dbl then 8 else 4
    let old := seenValue s pa w
    let amo (j : Instr) (op : AtomOp) : Prop :=
      let r := atomNew op w old ((s.x b).toNat % 2 ^ (8 * w)) ((s.x d).toNat % 2 ^ (8 * w))
      ∃ t, exec j s = .next t
        ∧ (∀ q, t.x q = if q = d ∧ d ≠ 0 then (if op = .fadd then nw old else sextW old (8 * w)) else s.x q)
        ∧ t.pc = s.pc + 4
        ∧ t.hart.csr = { s.hart.csr with vflags := s.hart.csr.vflags ||| nw r.2, instret := s.hart.csr.instret + 1 }
        ∧ (∀ x, pa ≤ x → x < pa + w → t.byteAt x = BitVec.ofNat 8 (r.1 / 256 ^ (x - pa)))
        ∧ (∀ x, ¬(pa ≤ x ∧ x < pa + w) → t.byteAt x = s.byteAt x
            ∨ (t.byteAt x = seen s x ∧ (ord = 0 → x / 64 ∈ linesOf pa w)))
        ∧ OthersKept s t
        ∧ t = { s with
            mem := t.mem, pois := t.pois, dcache := t.dcache, locked := t.locked, lockOvf := t.lockOvf, hart := { s.hart with
            x := t.hart.x, pc := t.hart.pc, csr := t.hart.csr, asked := [], answers := [], olds := t.hart.olds } }
    s.crew.core < 160 → CacheSound s → Quiet s → (ord ≠ 0 → Unheld s) → (s.x a).toNat % w = 0 →
    reachAll .atomic .write (s.x a) w s = .ok ([(0, w, .mem pa)], s) → unfilled s pa w = [] → s.poisonedAny pa w = false →
    amo (.amoadd dbl ord d a b) .add ∧ amo (.amoand dbl ord d a b) .and ∧ amo (.amoor dbl ord d a b) .or
    ∧ amo (.amoxor dbl ord d a b) .xor ∧ amo (.amomin dbl ord d a b) .min ∧ amo (.amomax dbl ord d a b) .max
    ∧ amo (.amoswap dbl ord d a b) .swap ∧ amo (.amocas dbl ord d a b) .cas ∧ amo (.amofadd dbl ord d a b) .fadd

/-- On old contents and an operand of 8w bits, for w of 4 and 8 bytes: ADD stores the sum modulo 2^(8w), AND, OR and XOR
the bitwise result, MIN and MAX the signed smaller or larger, SWAP the operand, CAS the operand where the old contents
equal the compare value and the old contents otherwise; none raises a flag. FADD stores the RNE sum with the old
contents as the first operand. (13_scalar_system R322, 07_memory R170) -/
def Obligations.AtomicUpdateValues : Prop :=
  ∀ w ∈ [4, 8], ∀ old v cmp : BitVec (8 * w),
    let new (op : AtomOp) : Nat × Nat := atomNew op w old.toNat v.toNat cmp.toNat
    new .add = ((old + v).toNat, 0) ∧ new .and = ((old &&& v).toNat, 0) ∧ new .or = ((old ||| v).toNat, 0)
    ∧ new .xor = ((old ^^^ v).toNat, 0)
    ∧ new .min = ((if v.toInt < old.toInt then v else old).toNat, 0)
    ∧ new .max = ((if old.toInt < v.toInt then v else old).toNat, 0)
    ∧ new .swap = (v.toNat, 0) ∧ new .cas = ((if old = cmp then v else old).toNat, 0)
    ∧ new .fadd = fpAdd (if w = 8 then fp64 else fp32) 0 old.toNat v.toNat

/-- With no outer product incomplete, a scalar AMO whose address is not a multiple of its 4 or 8 bytes raises
MISALIGN_DATA with SUB 0, TVAL the address and TPC its own address, and changes no register and no memory.
(13_scalar_system R322, 09_traps R223) -/
def Obligations.MisalignedAtomicsTrap : Prop :=
  ∀ (s : State) (dbl : Bool) (ord : BitVec 2) (d a b : Reg), Quiet s → (s.x a).toNat % (if dbl then 8 else 4) ≠ 0 →
    ∀ j ∈ [Instr.amoadd dbl ord d a b, .amoand dbl ord d a b, .amoor dbl ord d a b, .amoxor dbl ord d a b,
      .amomin dbl ord d a b, .amomax dbl ord d a b, .amoswap dbl ord d a b, .amocas dbl ord d a b, .amofadd dbl ord d a b],
      Traps s j .misalignData 0 (s.x a)

/-- For a listed CSR address that the mode may name, with no outer product incomplete: CSRR completes and writes the
CSR's value to rd, changing nothing else (a read of CYCLE or ENERGY may first add to the counter what has accrued, an
open amount by the model's choice of log 16); CSRW, CSRS and CSRC complete with the CSR stored from rs1, from its value
OR rs1, and from its value AND NOT rs1, provided a system-mode write of VTYPE gives a type VSETL accepts: that such a
write may have VTYPE's reserved bits set, and ignores them, is the model's choice of log 36. How each CSR takes a stored
value is stated on its own. (13_scalar_system R324, 13_scalar_system R325, 12_encoding R295, 09_traps R217) -/
def Obligations.CsrInstructions : Prop :=
  ∀ (s : State) (d a : Reg) (c : BitVec 12), CsrOpen s c.toNat → Quiet s →
    (c ≠ 0x105 → c ≠ 0x107 → Gives s (.csrr d c) d (s.csrValue c.toNat))
    ∧ (∃ k t, exec (.csrr d 0x105) s = .next t ∧ k < 2048
        ∧ (∀ r, t.x r = if r = d ∧ d ≠ 0 then s.crew.cycle + nw k else s.x r) ∧ t.pc = s.pc + 4 ∧ SameMemory s t
        ∧ t = { s with freeCtr := s.freeCtr + 1, crew := { s.crew with cycle := s.crew.cycle + nw k, cyc := s.crew.cyc + k }
                       hart := { s.hart with x := t.hart.x, pc := t.hart.pc, csr := { s.hart.csr with instret := s.hart.csr.instret + 1 }
                                             asked := [], answers := [] } })
    ∧ (∃ k t, exec (.csrr d 0x107) s = .next t ∧ k < 65536
        ∧ (∀ r, t.x r = if r = d ∧ d ≠ 0 then s.crew.energy + nw k else s.x r) ∧ t.pc = s.pc + 4 ∧ SameMemory s t
        ∧ t = { s with freeCtr := s.freeCtr + 1, crew := { s.crew with energy := s.crew.energy + nw k, est := s.crew.est + k }
                       hart := { s.hart with x := t.hart.x, pc := t.hart.pc, csr := { s.hart.csr with instret := s.hart.csr.instret + 1 }
                                             asked := [], answers := [] } })
    ∧ ∀ j v, ((j = .csrw c a ∧ v = s.x a) ∨ (j = .csrs c a ∧ v = (s.csrValue c.toNat ||| s.x a))
          ∨ (j = .csrc c a ∧ v = (s.csrValue c.toNat &&& ~~~ s.x a))) →
        (c = 1 → s.sysMode = true → fld v 4 3 < 4 ∧ v.getLsbD 7 = false ∧ fld v 4 3 ≤ s.hart.sewMax) →
        ∃ t, exec j s = .next t ∧ t = (s.csrStore c.toNat v).advance 4

/-- Each CSR with a plain map reads back a stored value under the mask of its RW fields; FRM keeps its mode on a write
of 5 to 7; VRC and HWEIGHT take 1 for 0; MGSPL is clamped to 2^30; a write of TSTAT changes only IMPLOST and PMODE;
MPRED's two fields are clamped to MSHAPE's rows and columns; MGMODE keeps its fields and takes SMAX 1 for 0; VL is
clamped to MVL and VTYPE keeps its bits in system mode (its reserved bits ignored, the model's choice of log 36), and
application-mode writes to them and writes to read-only CSRs change nothing. In each case every other CSR address reads
as before and nothing but the hart's CSRs changes. A write of LQCFG to an unbound endpoint takes its fields; with EN = 1
it becomes PENDING, joins the link directory and sends BIND, or sets CFGERR where the directory holds its key or is
full. (12_encoding R295, 12_encoding R296, 11_numbers R262, 09_traps R219, 06_core R143, 06_core R156, 10_merge_network
R248, 02_torus_links R44, 02_torus_links R45, 02_torus_links R46) -/
def Obligations.CsrStoresReadBack : Prop :=
  ∀ (s : State) (v : Word),
    let plain : List (Nat × Word) :=
      [(0x002, 0xFFFFFFFF), (0x004, -1), (0x005, -1), (0x006, 0xFF), (0x012, 0x7FF), (0x013, 1), (0x014, -1),
       (0x015, 0xFFFFFFFF00000001), (0x016, 0x83FFFFFFFFFFF7FF), (0x200, 0x1FFFFFFFFFFFC0), (0x201, 0xFFFFFFC0),
       (0x202, 0x1FFFFFFFFFFFC0), (0x205, 0xC7FFFFFF3FFFFFFF), (0x207, -1), (0x300, 0x1FFFFFFFFFFFFC),
       (0x301, 0x1FFFFFFFFFFFFF), (0x302, 0x8000000000000FFF), (0x303, -1), (0x305, -1), (0x310, 3)]
    let only (a : Nat) : Prop := (∀ b, b ≠ a → (s.csrStore a v).csrValue b = s.csrValue b)
      ∧ s.csrStore a v = { s with hart := { s.hart with csr := (s.csrStore a v).hart.csr } }
    (∀ p ∈ plain, (s.csrStore p.1 v).csrValue p.1 = v &&& p.2 ∧ only p.1)
    ∧ (s.csrStore 0x007 v).hart.csr.frm = (if v.toNat % 8 < 5 then v &&& 7 else s.hart.csr.frm) ∧ only 0x007
    ∧ (s.csrStore 0x003 v).hart.csr.vrc = (if v.toNat % 2 ^ 16 = 0 then 1 else v &&& 0xFFFF) ∧ only 0x003
    ∧ (s.csrStore 0x017 v).hart.csr.hweight = (if v.toNat % 2 ^ 8 = 0 then 1 else v &&& 0xFF) ∧ only 0x017
    ∧ (s.csrStore 0x203 v).hart.csr.mgspl.toNat = min (v &&& 0xFFFFFFC0).toNat (2 ^ 30) ∧ only 0x203
    ∧ (∀ i, i < 64 → (s.csrStore 0x304 v).hart.csr.tstat.getLsbD i
        = if i = 1 ∨ (8 ≤ i ∧ i < 16) then v.getLsbD i else s.hart.csr.tstat.getLsbD i) ∧ only 0x304
    ∧ (shM s ≤ 64 → shN s ≤ 64 →
        predRows (s.csrStore 0x011 v) = min (fld v 0 7) (shM s) ∧ predCols (s.csrStore 0x011 v) = min (fld v 8 7) (shN s))
    ∧ (∀ i, 15 ≤ i → (s.csrStore 0x011 v).hart.csr.mpred.getLsbD i = false) ∧ only 0x011
    ∧ (s.csrStore 0x204 v).hart.csr.mgmode = (if v &&& 0x3F = 0 then v &&& 0x1F00 ||| 1 else v &&& 0x1F3F) ∧ only 0x204
    ∧ (s.sysMode = true → s.csrStore 0 v = { s with hart := { s.hart with
        vlDs := false, csr := { s.hart.csr with vl := nw (min (v.toNat % 2 ^ 32) s.mvl) } } })
    ∧ (s.sysMode = true → s.csrStore 1 v = { s with hart := { s.hart with csr := { s.hart.csr with vtype := v &&& 0x37F } } })
    ∧ (s.sysMode = false → s.csrStore 0 v = s ∧ s.csrStore 1 v = s)
    ∧ (∀ q, q < 16 → s.hart.live = true → (s.lqEnd s.crew.uid q).st = .unbound →
        let t := s.csrStore (0x400 + q) v
        let e : LqEnd := { s.lqEnd s.crew.uid q with
          dir := bit v 56, pkey := fld v 36 16, key := fld v 20 16, pchip := fld v 0 12, cfgErr := false, en := false }
        let taken : Bool := (s.lqHolder e.dir e.key).isSome || decide (8192 ≤ s.dir.length)
        (bit v 55 = false → EndIs s t q e ∧ t.dir = s.dir ∧ t.wire = s.wire)
        ∧ (bit v 55 = true → taken = true → EndIs s t q { e with cfgErr := true } ∧ t.dir = s.dir ∧ t.wire = s.wire)
        ∧ (bit v 55 = true → taken = false → EndIs s t q { e with en := true, st := .pending }
            ∧ t.dir = s.dir ++ [{ dir := e.dir, key := e.key, crew := s.crew.uid, q }]
            ∧ (e.pchip = s.chipId → Told s t e .bind)))
    ∧ ∀ a ∈ [0x010, 0x100, 0x101, 0x102, 0x103, 0x104, 0x105, 0x106, 0x107, 0x108, 0x109, 0x110, 0x111, 0x112, 0x113,
        0x114, 0x115, 0x116, 0x206, 0x208, 0x210, 0x211, 0x212, 0x213, 0x214, 0x215, 0x216, 0x217, 0x220, 0x230],
        s.csrStore a v = s

/-- In application mode, naming a listed system CSR in CSRR, CSRW, CSRS or CSRC, and executing TRET or TINV, raises PRIV
with SUB 0, TVAL the first parcel and TPC the instruction's own address; no register and no memory changes. An address
that is not listed raises ILLEGAL with SUB 0 in either mode. (09_traps R217, 09_traps R223, 12_encoding R295) -/
def Obligations.PrivilegeTraps : Prop :=
  ∀ (s : State) (d a : Reg) (c : BitVec 12) (op : BitVec 2),
    (s.sysMode = false → csrListed c.toNat = true → csrSystem c.toNat = true →
      ∀ j ∈ [Instr.csrr d c, .csrw c a, .csrs c a, .csrc c a], Traps s j .priv 0 s.parcel)
    ∧ (s.sysMode = false → Traps s .tret .priv 0 s.parcel ∧ Traps s (.tinv op a) .priv 0 s.parcel)
    ∧ (csrListed c.toNat = false → ∀ j ∈ [Instr.csrr d c, .csrw c a, .csrs c a, .csrc c a], Traps s j .illegal 0 s.parcel)

/-- With no outer product incomplete, SVC takes the SVC trap with TVAL its immediate and TPC the next word, and BKPT the
BKPT trap with TVAL 0 and TPC its own address; an undefined encoding raises ILLEGAL with TVAL the parcel; a pending
imprecise report is taken with IMP set and TPC the next instruction, and IMPPEND clears. Each entry saves TPC, TCAUSE
and TVAL, sets PMODE to the mode, MODE to 1 and DEPTH one higher up to 3, goes on at TVEC and changes nothing else.
(R220) -/
def Obligations.TrapEntry : Prop :=
  ∀ (s : State) (n : BitVec 12) (p : Parcel),
    (Quiet s → ∃ t, exec (.svc n) s = .next t ∧ TrapEffect s t .svc 0 (n.setWidth 64) (s.pc + 4) false)
    ∧ (Quiet s → Traps s .bkpt .bkpt 0 0)
    ∧ (s.hart.pend ≠ [] → exec (.svc n) s = .next s ∧ exec .bkpt s = .next s)
    ∧ Traps s (.undefinedEncoding p) .illegal 0 (p.setWidth 64)
    ∧ ∀ r, s.hart.imp = some r → r.sub < 16 →
        let u := s.onHart fun h => { h with imp := none, csr := { h.csr with tstat := setFld h.csr.tstat 7 1 0 } }
        ∃ t, exec .impreciseTrap s = .next t ∧ TrapEffect u t r.cause r.sub r.tval s.pc true
          ∧ t.hart.imp = none ∧ t.hart.csr.tstat.getLsbD 7 = false

/-- A refused fetch raises FETCH_FAULT with SUB 0 and a poisoned line POISON (the model's choice of log 21: R187 speaks
of loads, walks and copies), both with TVAL the VA of the parcel; a translation fault of kind 1 to 3 or a retired page
(4) goes to the hart's handler as FETCH_FAULT with the kind as SUB, or RETIRED_PAGE, where HCAP.FAULTLOCAL is 1; where
it is 0 the hart stops, the crew is FAULTED, and a record with ACCESS 2 and the VA goes to the end of the tenant's fault
queue if it has room and waits for room otherwise. Each waits until everything older is complete. (09_traps R223,
07_memory R179, 07_memory R183, 07_memory R184) -/
def Obligations.FetchFaults : Prop :=
  ∀ (s : State) (va : Word),
    Traps s (.fetchFault va 0) .fetchFault 0 va ∧ Traps s (.fetchFault va 5) .poison 0 va
    ∧ (s.hart.csr.hcap.getLsbD 0 = true →
        (∀ k : BitVec 4, k = 1 ∨ k = 2 ∨ k = 3 → Traps s (.fetchFault va k) .fetchFault k.toNat va)
        ∧ Traps s (.fetchFault va 4) .retiredPage 0 va)
    ∧ (s.hart.csr.hcap.getLsbD 0 = false → ∀ k : BitVec 4, 1 ≤ k.toNat → k.toNat ≤ 4 →
        let q := FMap.getD [] s.crew.tenant s.fq
        let r := crewRecord s.crew (s.launchId s.crew.launch) k.toNat s.hart.idx 2 va.toNat s.hart.csr.vstart.toNat
        Quiet s → ∃ t, exec (.fetchFault va k) s = .next t ∧ t.hart.stopped = true ∧ t.crew.faulted = true ∧ t.pc = s.pc
          ∧ (∀ x, t.x x = s.x x) ∧ SameMemory s t
          ∧ (q.length < 256 → FMap.getD [] s.crew.tenant t.fq = q ++ [r] ∧ t.fqWait = s.fqWait)
          ∧ (256 ≤ q.length → t.fq = s.fq ∧ t.fqWait = s.fqWait ++ [(s.crew.tenant, r)]))

/-- In system mode with no outer product incomplete and TPC a multiple of 4, TRET goes on at TPC with MODE the saved
PMODE, PMODE 0 and DEPTH one lower but not below 0, drops what was fetched or read early, and changes nothing else but
INSTRET; where TPC is no multiple of 4 it raises MISALIGN_FETCH with TVAL = TPC. (R221) -/
def Obligations.TrapReturn : Prop :=
  ∀ s : State, s.sysMode = true → Quiet s →
    (s.hart.csr.tpc.toNat % 4 = 0 → ∃ t, exec .tret s = .next t ∧ t.pc = s.hart.csr.tpc
      ∧ fld t.hart.csr.tstat 0 1 = fld s.hart.csr.tstat 1 1 ∧ fld t.hart.csr.tstat 1 1 = 0
      ∧ fld t.hart.csr.tstat 2 2 = fld s.hart.csr.tstat 2 2 - 1
      ∧ (∀ i, 4 ≤ i → bit t.hart.csr.tstat i = bit s.hart.csr.tstat i)
      ∧ (∀ r, t.x r = s.x r) ∧ SameMemory s t
      ∧ t = { s with hart := { s.hart with pc := t.hart.pc, asked := [], answers := [], ibuf := [], early := [],
                                             csr := { s.hart.csr with tstat := t.hart.csr.tstat, instret := s.hart.csr.instret + 1 } } })
    ∧ (s.hart.csr.tpc.toNat % 4 ≠ 0 → Traps s .tret .misalignFetch 0 s.hart.csr.tpc)

/-- For every instruction of the 216 forms, a convoy and the stores to control registers among them, and for an
imprecise report, an undefined encoding and a failed fetch, in every state whose current hart is there and is current
after it: if the hart was in system mode and is in application mode after it, the instruction is TRET; if it was in
application mode and is in system mode after it, execution goes on at TVEC. (09_traps R217, 09_traps R220) -/
def Obligations.ModeChangesOnlyByTrapAndReturn : Prop :=
  ∀ (i : Instr) (s t : State),
    (i.isEvent = false ∨ i = .impreciseTrap ∨ (∃ p, i = .undefinedEncoding p) ∨ ∃ va k, i = .fetchFault va k) →
    s.hart.live = true → exec i s = .next t → t.hart.live = true → t.cur = s.cur →
    (s.sysMode = true → t.sysMode = false → i = .tret)
    ∧ (s.sysMode = false → t.sysMode = true → t.pc = s.hart.csr.tvec)

/-- With no outer product incomplete: HALT first performs the stores that wait in the hart's store queues; once no
completion of the hart's own stores is outstanding, it halts the hart and retires; PULSE restarts the watchdog window of
a persistent launch's crew and does nothing to another; PHASE n sets PHASEMK to n. None writes a register, a CSR other
than INSTRET, or memory. (13_scalar_system R327, 13_scalar_system R328, 04_scheduler R81) -/
def Obligations.HaltPulsePhase : Prop :=
  ∀ (s : State) (n : BitVec 8), Quiet s →
    (InOrder s → s.hart.awaits = false → ∃ t, exec .halt s = .next t ∧ t.hart.halted = true ∧ Retired s t ∧ SameMemory s t)
    ∧ (InOrder s → s.hart.awaits = true → exec .halt s = .next s)
    ∧ exec .halt s = exec .halt (s.performAll fun _ => true)
    ∧ (∃ t, exec .pulse s = .next t ∧ Retired s t ∧ SameMemory s t
        ∧ t.crew = if pkPersist s.packet then { s.crew with window := 0 } else s.crew)
    ∧ (∃ t, exec (.phase n) s = .next t ∧ Retired s t ∧ SameMemory s t ∧ t.crew.phase = n.toNat)

/-- With no outer product incomplete: a FENCE that releases, and LSYNC, act as they would once every store that waits in
the hart's store queues has been performed; an acquiring FENCE makes loads that were read early be read again. With
loads and stores in order and no cached line that a copy is to fill: a release at SYS scope waits while a completion of
the hart's own stores is outstanding (those of a copy channel or a write stream do not count). Else a FENCE completes, a
releasing one wider than CORE having written to its home every line the hart dirtied, an acquiring one wider than CORE
leaving no line in the core's cache that the core did not write whole; LSYNC releases; a FENCE of scope CORE changes
nothing; IFENCE drops what the hart had fetched early. Every byte at its home is as before or the core's own dirty byte,
other cores' lines are as before, and no register changes. (08_ordering R197, 08_ordering R198, 08_ordering R199,
08_ordering R212, 13_scalar_system R330, 13_scalar_system R331) -/
def Obligations.FencesReleaseAndAcquire : Prop :=
  ∀ (s : State) (kind scope : BitVec 2), Quiet s →
    exec (.lsync scope) s = exec (.lsync scope) (s.performAll fun _ => true)
    ∧ (2 ≤ kind.toNat → exec (.fence kind scope) s = exec (.fence kind scope) (s.performAll fun _ => true))
    ∧ (kind = 1 → exec (.fence kind 0) s = .next ((s.onHart fun h => { h with early := [] }).advance 4))
    ∧ (s.crew.core < 160 → CacheSound s → Unheld s →
    (scope = 3 → s.hart.awaits = true →
      (∃ t, exec (.lsync scope) s = .next t ∧ t.pc = s.pc)
      ∧ (2 ≤ kind.toNat → ∃ t, exec (.fence kind scope) s = .next t ∧ t.pc = s.pc))
    ∧ ((scope = 3 → s.hart.awaits = false) →
    (∃ t, exec (.fence kind scope) s = .next t ∧ Retired s t ∧ WrittenBack s t
      ∧ (2 ≤ kind.toNat → scope ≠ 0 → Released s t) ∧ (kind.toNat % 2 = 1 → scope ≠ 0 → Acquired s t)
      ∧ (scope = 0 → SameMemory s t))
    ∧ (∃ t, exec (.lsync scope) s = .next t ∧ Retired s t ∧ WrittenBack s t ∧ (scope ≠ 0 → Released s t) ∧ t.hart.olds = [])))
    ∧ (∃ t, exec .ifence s = .next t ∧ Retired s t ∧ SameMemory s t ∧ t.hart.ibuf = [])

/-- With no outer product incomplete and the address (rs1 plus the immediate) translating for cache maintenance: where it
names local memory, CWB writes the core's dirty bytes of the line to its home and keeps the copy, CINV does so and
drops it, and IINV drops the line from the core's instruction cache; no other line and no other byte changes. Where another
hart's copy is to fill the home of a line with dirty bytes, CWB and CINV wait. Where it
names no local memory, they do nothing. (13_scalar_system R332, 06_core R159, 08_ordering R205, 08_ordering R212) -/
def Obligations.CacheMaintenance : Prop :=
  ∀ (s : State) (a : Reg) (i : BitVec 12) (pa : Nat), s.crew.core < 160 → CacheSound s → Quiet s →
    s.reach .cache (s.x a + BitVec.ofInt 64 i.toInt).toNat 1 = .ok pa →
    (s.place pa = .mem pa →
      let home (t : State) : Prop := ∀ x, t.byteAt x = if x / 64 = pa / 64 then seen s x else s.byteAt x
      let others (t : State) : Prop := ∀ l, l ≠ pa / 64 → t.dline s.crew.core l = s.dline s.crew.core l
      (unfilled s (pa / 64 * 64) 64 = [] →
        (∃ t, exec (.cwb a i) s = .next t ∧ Retired s t ∧ WrittenBack s t ∧ home t ∧ others t
          ∧ ∀ x, t.coreByte s.crew.core x = s.coreByte s.crew.core x)
        ∧ (∃ t, exec (.cinv a i) s = .next t ∧ Retired s t ∧ WrittenBack s t ∧ home t ∧ others t
          ∧ t.dline s.crew.core (pa / 64) = none))
      ∧ (s.stuck s.crew.core (pa / 64) = true → (∀ r ∈ s.cregs, r.slot ≠ s.cur) →
          exec (.cwb a i) s = .next s ∧ exec (.cinv a i) s = .next s)
      ∧ (∃ t, exec (.iinv a i) s = .next t ∧ Retired s t ∧ SameMemory s t
        ∧ FMap.find (dkey s.crew.core (pa / 64)) t.icache = none
        ∧ ∀ k, k ≠ dkey s.crew.core (pa / 64) → FMap.find k t.icache = FMap.find k s.icache))
    ∧ ((∀ q, s.place pa ≠ .mem q) → ∀ j ∈ [Instr.cwb a i, .cinv a i, .iinv a i], exec j s = .next (s.advance 4))

/-- In system mode with no outer product incomplete, a TINV that has not started appends one invalidation of the crew's
tenant and waits at itself: of the crew's ASID for op 0, of the page of rs1 in that ASID for op 1, of the whole tenant
for op 2; once its completion has been answered it retires and changes nothing else. (13_scalar_system R329, 07_memory
R182) -/
def Obligations.TranslationInvalidation : Prop :=
  ∀ (s : State) (op : BitVec 2) (a : Reg), s.sysMode = true → Quiet s → s.hart.conv = none →
    (FMap.find 0 s.hart.answers = none → (∀ v ∈ s.invals, v.host = true ∨ v.slot ≠ s.cur) →
      exec (.tinv op a) s = .next { s with invals := s.invals ++
        [{ host := false, slot := s.cur, op := if op = 0 then 2 else if op = 1 then 3 else 1
           tenant := s.crew.tenant, asid := s.crew.asid, page := (s.x a).toNat / 2 ^ 17 % 2 ^ 36 }] })
    ∧ (∀ v, FMap.find 0 s.hart.answers = some v → ∃ t, exec (.tinv op a) s = .next t ∧ Retired s t ∧ SameMemory s t
        ∧ t.invals = s.invals)

/-- With no outer product incomplete and a queue q0 to q7 whose side is unbound or bound to this hart: QSEND to a queue
of fewer than 16 entries appends rs2's value and binds the writer; QRECV of a queue that is not empty removes the oldest
entry into rd and binds the reader, with .ACQ making loads that were read early be read again, QPEEK reads it without
removing it, QPOLL writes the number of entries; QSEND to a full queue waits with the writer bound and marked blocked,
and QRECV or QPEEK of an empty one with the reader so. QSEND.REL has its release at scope CORE, with no store waiting in
the hart's store queues. A queue number of 8 or more raises ILLEGAL with SUB 1, and a side bound to another hart
QUEUE_UNBOUND with the queue's number. (06_core R152, 13_scalar_system R333, 09_traps R223) -/
def Obligations.QueueRegisters : Prop :=
  ∀ (s : State) (rel acq : Bool) (d b q : Reg), Quiet s →
    (∀ h : q.toNat < 8,
      let r := s.crew.qs[q.toNat]
      let put (r' : QReg) : State := s.onCrew fun c => { c with qs := c.qs.set q.toNat r' }
      let me := some s.hart.idx
      ((r.writer = none ∨ r.writer = me) → r.entries.length < 16 → (rel = true → s.hart.stq = []) →
        exec (.qsend rel q b) s = .next (((put { r with entries := r.entries ++ [s.x b], writer := me, wstop := false }).onHart fun h =>
          { h with olds := if rel then [] else h.olds }).advance 4))
      ∧ ((r.writer = none ∨ r.writer = me) → 16 ≤ r.entries.length →
        exec (.qsend rel q b) s = .next (put { r with writer := me, wstop := true }))
      ∧ ((r.reader = none ∨ r.reader = me) → ∀ v vs, r.entries = v :: vs →
        exec (.qrecv acq d q) s = .next ((((put { r with entries := vs, reader := me, rstop := false }).onHart fun h =>
          { h with early := if acq then [] else h.early }).setX d v).advance 4)
        ∧ exec (.qpeek d q) s = .next (((put { r with reader := me, rstop := false }).setX d v).advance 4))
      ∧ ((r.reader = none ∨ r.reader = me) →
        exec (.qpoll d q) s = .next (((put { r with reader := me }).setX d (nw r.entries.length)).advance 4))
      ∧ ((r.reader = none ∨ r.reader = me) → r.entries = [] →
        exec (.qrecv acq d q) s = .next (put { r with reader := me, rstop := true })
        ∧ exec (.qpeek d q) s = .next (put { r with reader := me, rstop := true }))
      ∧ (r.writer ≠ none → r.writer ≠ me → Traps s (.qsend rel q b) .queueUnbound 0 (nw q.toNat))
      ∧ (r.reader ≠ none → r.reader ≠ me → ∀ j ∈ [Instr.qrecv acq d q, .qpeek d q, .qpoll d q],
        Traps s j .queueUnbound 0 (nw q.toNat)))
    ∧ (8 ≤ q.toNat → ∀ j ∈ [Instr.qsend rel q b, .qrecv acq d q, .qpeek d q, .qpoll d q], Traps s j .illegal 1 s.parcel)

/-- With no outer product incomplete: a hart that may leave a crew barrier leaves it and retires; a hart that arrives at
one some other hart of its crew has neither reached nor halted before waits there; CTRWAIT on a counter of the crew's
tenant that reaches the value in rs1 retires with the counter in rd, having acquired at SYS scope (no copy is to fill a
line that its core caches); CTRADD of such a counter, with no store completion outstanding and no line that a copy is to
fill where it releases, writes the old value to rd and, with no launch known that could itself add, leaves the counter
greater by rs1 modulo 2^32; a counter of another tenant raises ILLEGAL with SUB 1. LAUNCH of a packet at a multiple of
64 whose eight words are read and valid, with room in the queue, enqueues it and writes its launch ID to rd; an invalid
packet writes 2^63 plus the rejection cause; a misaligned address raises MISALIGN_DATA. (13_scalar_system R334,
13_scalar_system R335, 13_scalar_system R336, 03_host_launch R64, 03_host_launch R65, 03_host_launch R66, 03_host_launch
R69) -/
def Obligations.BarriersCountersLaunch : Prop :=
  ∀ (s : State) (d a : Reg) (id : BitVec 4) (c : BitVec 10) (rel : Bool) (q : BitVec 4), s.crew.core < 160 → CacheSound s → Quiet s →
    (s.hart.barGo = true → ∃ t, exec (.bar false id) s = .next t ∧ Retired s t ∧ SameMemory s t ∧ t.hart.barGo = false)
    ∧ (s.hart.live = true → s.hart.barAt = none → s.hart.barGo = false →
        (∃ p ∈ s.crewHarts s.crew, p.1 ≠ s.cur ∧ p.2.barAt ≠ some (false, id.toNat) ∧ p.2.halted = false) →
        ∃ t, exec (.bar false id) s = .next t ∧ t.pc = s.pc ∧ (∀ r, t.x r = s.x r) ∧ SameMemory s t
          ∧ t.hart.barAt = some (false, id.toNat))
    ∧ (s.ctrOwner c.toNat = s.crew.tenant → s.reaches c.toNat (s.x a).toNat = true →
        Unheld s → ∃ t, exec (.ctrwait d a c) s = .next t ∧ t.pc = s.pc + 4 ∧ Acquired s t
          ∧ (∀ r, t.x r = if r = d ∧ d ≠ 0 then (s.ctr c.toNat).setWidth 64 else s.x r)
          ∧ ∀ x, t.byteAt x = s.byteAt x ∨ t.byteAt x = seen s x)
    ∧ (s.ctrOwner c.toNat = s.crew.tenant → (rel = true → s.hart.awaits = false ∧ Unheld s) →
        ∃ t, exec (.ctradd rel d a c) s = .next t ∧ t.pc = s.pc + 4
          ∧ (∀ r, t.x r = if r = d ∧ d ≠ 0 then (s.ctr c.toNat).setWidth 64 else s.x r)
          ∧ (∀ x, t.byteAt x = s.byteAt x ∨ t.byteAt x = seen s x)
          ∧ (s.launches = [] → ∀ n, t.ctr n = if n = c.toNat then s.ctr n + (s.x a).setWidth 32 else s.ctr n))
    ∧ (s.ctrOwner c.toNat ≠ s.crew.tenant →
        Traps s (.ctrwait d a c) .illegal 1 s.parcel ∧ Traps s (.ctradd rel d a c) .illegal 1 s.parcel)
    ∧ ((s.x a).toNat % 64 = 0 → ∀ s1 ws u, release 3 s = .ok ((), s1) →
        packetWords (s.x a) (List.range 8) s1 = .ok (ws, u) → u.queueUsed (64 + q.toNat) < 32 →
        let k := rDQSTAT q.toNat
        let e := u.validate u.crew.tenant (64 + q.toNat) ws (decide (u.dqOwner q.toNat = u.crew.tenant) && u.tenEn u.crew.tenant)
        exec (.launch d a q) s = .next (
          (if e = 0 then ((u.setRegFld k 0 32 u.nextId).enqueue u.crew.tenant u.crew.asid (64 + q.toNat) ws).setX d (nw u.nextId)
           else ((u.setRegFld k 63 1 1).setRegFld k 48 8 e).setX d (nw (2 ^ 63 + e))).advance 4))
    ∧ ((s.x a).toNat % 64 ≠ 0 → Traps s (.launch d a q) .misalignData 0 (s.x a))

/-- Where the groups may be named, n is above VSTART and within MVL, and no operand element of the execution is poisoned
(a stream source having its elements fetched), each VINT form with a vector destination completes: from VSTART on,
each active element of vd gets the value R352 to R354 give from the same elements of its operands at SEW, inactive
ones are zeroed under MASKZ and kept otherwise, elements from n on are zeroed under TAILZ, flags are ORed (SAT by the
saturating forms), VSTART becomes 0, and nothing else changes. (14_vector R352, 14_vector R353, 14_vector R354,
12_encoding R306, 11_numbers R268) -/
def Obligations.VectorIntegerResults : Prop :=
  ∀ (s : State) (d a : Reg) (b : Src1) (m : VMask) (u : Bool) (mk : BitVec 3) (o : XOrImm),
    let eb := s.ebytes
    let w := 8 * eb
    let x (i : Nat) : Nat := s.elem a.toNat eb i
    let y (i : Nat) : Nat := srcVal s eb i b
    let int (v : Nat) : Int := readInt w (!u) v
    let bin (j : Instr) (f : Nat → Nat → FRes) : Prop :=
      VecReady s (((a.toNat, eb) :: b.group eb) ++ [(d.toNat, eb)]) m.reads → Clean s m a eb → Src1Ready s m eb b →
      ∃ t, exec j s = .next t ∧ VecWrite s t d.toNat eb (elementwise s m d.toNat eb fun i => (f (x i) (y i)).1)
        (doneCsr s (flagsOf s m fun i => (f (x i) (y i)).2)) b.port
    let plain (j : Instr) (f : Nat → Nat → Nat) : Prop := bin j fun p q => (f p q, 0)
    plain (.vadd d a b m) (fun p q => p + q)
    ∧ plain (.vsub d a b m) (fun p q => modW ((p : Int) - q) w) ∧ plain (.vrsub d a b m) (fun p q => modW ((q : Int) - p) w)
    ∧ plain (.vmul d a b m) (fun p q => p * q)
    ∧ plain (.vmulh u d a b m) (fun p q => modW (int p * int q / 2 ^ w) w)
    ∧ plain (.vdiv u d a b m) (fun p q => if u then divU w p q else divS w p q)
    ∧ plain (.vrem u d a b m) (fun p q => if u then remU w p q else remS w p q)
    ∧ plain (.vmin u d a b m) (fun p q => if int q < int p then q else p)
    ∧ plain (.vmax u d a b m) (fun p q => if int p < int q then q else p)
    ∧ plain (.vand d a b m) (· &&& ·) ∧ plain (.vor d a b m) (· ||| ·) ∧ plain (.vxor d a b m) (· ^^^ ·)
    ∧ plain (.vsll d a b m) (fun p q => p * 2 ^ (q % w)) ∧ plain (.vsrl d a b m) (fun p q => p / 2 ^ (q % w))
    ∧ plain (.vsra d a b m) (fun p q => sraN w p (q % w))
    ∧ bin (.vsadd u d a b m) (fun p q => clampInt w (!u) (int p + int q))
    ∧ bin (.vssub u d a b m) (fun p q => clampInt w (!u) (int p - int q))
    ∧ (eb ≤ 4 → s.lmul ≤ 4 → VecReady s (((a.toNat, 2 * eb) :: b.group eb) ++ [(d.toNat, eb)]) m.reads →
        Clean s m a (2 * eb) → Src1Ready s m eb b →
        let r (i : Nat) : FRes :=
          clampInt w (!u) (shiftNE (readInt (2 * w) (!u) (s.elem a.toNat (2 * eb) i)) (y i % (2 * w)))
        ∃ t, exec (.vnclip u d a b m) s = .next t ∧ VecWrite s t d.toNat eb (elementwise s m d.toNat eb fun i => (r i).1)
          (doneCsr s (flagsOf s m fun i => (r i).2)) b.port)
    ∧ (eb ≤ 4 → s.lmul ≤ 4 → VecReady s (((a.toNat, eb) :: b.group eb) ++ [(d.toNat, 2 * eb)]) m.reads →
        Clean s m a eb → Src1Ready s m eb b →
        ∃ t, exec (.vwmul u d a b m) s = .next t ∧ VecWrite s t d.toNat (2 * eb)
          (elementwise s m d.toNat (2 * eb) fun i => modW (int (x i) * int (y i)) (2 * w)) (doneCsr s 0) b.port)
    ∧ (VecReady s (((a.toNat, eb) :: b.group eb) ++ [(d.toNat, eb)]) [mk.toNat] →
        Clean s .unmasked a eb → Src1Ready s .unmasked eb b →
        ∃ t, exec (.vmerge d a b mk) s = .next t ∧ VecWrite s t d.toNat eb
          (elementwise s .unmasked d.toNat eb fun i => if s.maskBit mk.toNat i then y i else x i) (doneCsr s 0) b.port)
    ∧ (VecReady s (b.group eb ++ [(d.toNat, eb)]) m.reads → Src1Ready s m eb b →
        ∃ t, exec (.vmv d b m) s = .next t ∧ VecWrite s t d.toNat eb (elementwise s m d.toNat eb y) (doneCsr s 0) b.port)
    ∧ (VecReady s [(a.toNat, eb), (d.toNat, eb)] m.reads → s.elemPois a.toNat eb (xiVal s o) = false →
        ∃ t, exec (.vbcast d a o m) s = .next t ∧ VecWrite s t d.toNat eb
          (elementwise s m d.toNat eb fun _ => if xiVal s o < s.mvl then x (xiVal s o) else 0) (doneCsr s 0) none)

/-- Under the conditions of R306 as for the integer forms, and SEW at least 16 where the form refuses SEW 8, each VFP,
VFMA, VSPEC and VCVT form with a vector destination, and VPIVDIV, completes with each active element the result of the
model's arithmetic in the format VTYPE selects, under FRM where the form rounds under it, its flags ORed into VFLAGS;
VPIVDIV divides by the pivot as R278 and R279 say and records it in PIVSTAT. Nothing else changes. (14_vector R355,
14_vector R356, 14_vector R357, 14_vector R358, 14_vector R367, 11_numbers R261, 11_numbers R263, 11_numbers R279,
12_encoding R306) -/
def Obligations.VectorFloatResults : Prop :=
  ∀ (s : State) (d a e : Reg) (b : Src1) (m : VMask) (u : Bool) (n j : BitVec 2) (k : BitVec 4),
    let eb := s.ebytes
    let f := s.vfmt
    let rm := s.frm
    let x (i : Nat) : Nat := s.elem a.toNat eb i
    let y (i : Nat) : Nat := srcVal s eb i b
    let done (i : Instr) (w : Nat) (r : Nat → FRes) (port : Option (BitVec 3)) : Prop :=
      ∃ t, exec i s = .next t ∧ VecWrite s t d.toNat w (elementwise s m d.toNat w fun i => (r i).1)
        (doneCsr s (flagsOf s m fun i => (r i).2)) port
    let bin (i : Instr) (g : Nat → Nat → FRes) : Prop :=
      VecReady s (((a.toNat, eb) :: b.group eb) ++ [(d.toNat, eb)]) m.reads → Clean s m a eb → Src1Ready s m eb b →
      done i eb (fun i => g (x i) (y i)) b.port
    let un (i : Instr) (g : Nat → FRes) : Prop :=
      VecReady s [(a.toNat, eb), (d.toNat, eb)] m.reads → Clean s m a eb → done i eb (fun i => g (x i)) none
    let cvt (i : Instr) (g : Nat → FRes) : Prop :=
      VecReady s [(a.toNat, srcBytes k), (d.toNat, eb)] m.reads → Clean s m a (srcBytes k) →
      done i eb (fun i => g (s.elem a.toNat (srcBytes k) i)) none
    (2 ≤ eb →
      bin (.vfadd d a b m) (fpAdd f rm) ∧ bin (.vfsub d a b m) (fpSub f rm) ∧ bin (.vfmul d a b m) (fpMul f rm)
      ∧ bin (.vfdiv d a b m) (fpDiv f rm) ∧ un (.vfsqrt d a m) (fpSqrt f rm)
      ∧ (VecReady s (([(a.toNat, eb), (e.toNat, eb)] ++ b.group eb) ++ [(d.toNat, eb)]) m.reads → Clean s m a eb →
          Clean s m e eb → Src1Ready s m eb b →
          done (.vfma n d a b e m) eb
            (fun i => fpFma f rm (n.getLsbD 0) (n.getLsbD 1) (x i) (y i) (s.elem e.toNat eb i)) b.port)
      ∧ un (.vfrec d a m) (fpRec f) ∧ un (.vfrsq d a m) (fpRsq f)
      ∧ bin (.vfrecref d a b m) (fpRecRef f rm) ∧ bin (.vfrsqref d a b m) (fpRsqRef f rm)
      ∧ un (.vfexp2 d a m) (fpExp2 f) ∧ un (.vflog2 d a m) (fpLog2 f))
    ∧ bin (.vfmin d a b m) (fpMinMax f false) ∧ bin (.vfmax d a b m) (fpMinMax f true)
    ∧ bin (.vfsgn j d a b m) (fun p q => (sgnInject j.toNat (8 * eb) p q, 0))
    ∧ un (.vfclass d a m) (fun p => (Nat.log2 (fpClassify f p), 0))
    ∧ cvt (.vfcvt d a k m) (fpCvt (srcFmt k) f rm s.satF8)
    ∧ cvt (.vfcvti u d a k m) (fpToInt (srcFmt k) rm (!u) (8 * eb))
    ∧ cvt (.vicvtf d a k m) (fun p => intToFp f rm s.satF8 (readInt (8 * srcBytes k) (srcSigned k) p))
    ∧ cvt (.viext d a k m) (fun p => (modW (readInt (8 * srcBytes k) (srcSigned k) p) (8 * eb), 0))
    ∧ (4 ≤ eb → VecReady s [(a.toNat, eb), (d.toNat, eb)] m.reads → Clean s m a eb →
        let p := (s.x e).toNat % 2 ^ (8 * eb)
        let tau := pivTau f s.hart.csr.pivtau
        let c := pivCase f (bit s.hart.csr.hcap 1) p tau
        let r (i : Nat) : FRes := pivElem f c p tau (x i)
        ∃ t, exec (.vpivdiv d a e m) s = .next t ∧ VecWrite s t d.toNat eb (elementwise s m d.toNat eb fun i => (r i).1)
          { doneCsr s (flagsOf s m fun i => (r i).2) with pivstat := pivRecord s.hart.csr.pivstat c } none)

/-- Under the conditions of R306, VCMP and VFCMP write to bit i of md, for each active element from VSTART to n, whether
the condition holds of element i (VFCMP's flags ORed), VMLOGIC the logic function of bit i of its two masks; inactive
bits are cleared under MASKZ and kept otherwise, bits from n on are cleared under TAILZ, VSTART becomes 0 and nothing
else changes. (14_vector R354, 14_vector R355, 14_vector R360, 12_encoding R294, 14_vector R341) -/
def Obligations.VectorCompareAndMaskResults : Prop :=
  ∀ (s : State) (r a : Reg) (b : Src1) (m : VMask) (u : Bool) (c op : BitVec 3) (m2 m1 : Reg),
    let eb := s.ebytes
    let w := 8 * eb
    let x (i : Nat) : Nat := s.elem a.toNat eb i
    let y (i : Nat) : Nat := srcVal s eb i b
    let cmp (j : Instr) (f : Nat → Nat → Bool × Nat) : Prop :=
      VecReady s ((a.toNat, eb) :: b.group eb) (m.reads ++ [r.toNat]) → Clean s m a eb → Src1Ready s m eb b →
      ∃ t, exec j s = .next t ∧ MaskWrite s t r.toNat (maskwise s m r.toNat fun i => (f (x i) (y i)).1)
        (doneCsr s (flagsOf s m fun i => (f (x i) (y i)).2)) b.port
    cmp (.vcmp u c r a b m) (fun p q => (intCond c.toNat (readInt w (!u) p) (readInt w (!u) q), 0))
    ∧ cmp (.vfcmp c r a b m) (fpCompare s.vfmt c.toNat)
    ∧ (VecReady s [] [m2.toNat, m1.toNat, r.toNat] →
        ∃ t, exec (.vmlogic op r m2 m1) s = .next t ∧ MaskWrite s t r.toNat
          (maskwise s .unmasked r.toNat fun i => maskLogic op.toNat (s.maskBit m2.toNat i) (s.maskBit m1.toNat i))
          (doneCsr s 0) none)

/-- Under the conditions of R306 for an element-wise form of two register groups (the integer forms of R352 and R353 at
SEW, and at SEW of 16 bits or more VFADD, VFSUB, VFMUL and VFDIV), where element p is the first active element of the
execution with a poisoned operand, the instruction raises POISON with SUB 1, TVAL 0 and TPC its own address; VSTART is
p, the elements from the old VSTART up to p have been done as R306 says and their flags ORed into VFLAGS, and elements
from p on are as before. Where n is 0, or VSTART is n or more, VADD, VFADD (SEW above 8), VMV and VCMP on register
groups complete with VSTART 0 and change nothing else. (09_traps R228, 07_memory R187, 12_encoding R306, 09_traps R223,
14_vector R343) -/
def Obligations.VectorTrapsAndEmptyExecutions : Prop :=
  ∀ (s : State) (d a b : Reg) (m : VMask) (u : Bool) (p : Nat),
    let eb := s.ebytes
    let w := 8 * eb
    let x (i : Nat) : Nat := s.elem a.toNat eb i
    let y (i : Nat) : Nat := s.elem b.toNat eb i
    let int (v : Nat) : Int := readInt w (!u) v
    let bad (i : Nat) : Bool := s.elemPois a.toNat eb i || s.elemPois b.toNat eb i
    let stop (j : Instr) (f : Nat → Nat → FRes) : Prop :=
      ∃ t, exec j s = .next t ∧ t.hart.csr.vstart = nw p ∧ t.hart.csr.tcause = nw (256 + Cause.poison.code)
        ∧ t.hart.csr.tval = 0 ∧ t.hart.csr.tpc = s.pc &&& 0x1FFFFFFFFFFFFF ∧ t.pc = s.hart.csr.tvec ∧ (∀ r, t.x r = s.x r)
        ∧ t.hart.csr.vflags = s.hart.csr.vflags ||| flagsTo s m (fun i => (f (x i) (y i)).2) p ∧ SameMemory s t
        ∧ ∀ i, i < s.mvl → t.elem d.toNat eb i = if i < p then
            elementwise s m d.toNat eb (fun i => (f (x i) (y i)).1) i else s.elem d.toNat eb i
    let plain (j : Instr) (f : Nat → Nat → Nat) : Prop := stop j fun p q => (f p q, 0)
    (VecReady s [(a.toNat, eb), (b.toNat, eb), (d.toNat, eb)] m.reads → Quiet s → s.vstart ≤ p → p < s.nElems →
      s.active m p = true → bad p = true → (∀ i, s.vstart ≤ i → i < p → s.active m i = true → bad i = false) →
      plain (.vadd d a (.v b) m) (fun p q => p + q)
      ∧ plain (.vsub d a (.v b) m) (fun p q => modW ((p : Int) - q) w)
      ∧ plain (.vrsub d a (.v b) m) (fun p q => modW ((q : Int) - p) w)
      ∧ plain (.vmul d a (.v b) m) (fun p q => p * q)
      ∧ plain (.vmulh u d a (.v b) m) (fun p q => modW (int p * int q / 2 ^ w) w)
      ∧ plain (.vdiv u d a (.v b) m) (fun p q => if u then divU w p q else divS w p q)
      ∧ plain (.vrem u d a (.v b) m) (fun p q => if u then remU w p q else remS w p q)
      ∧ plain (.vmin u d a (.v b) m) (fun p q => if int q < int p then q else p)
      ∧ plain (.vmax u d a (.v b) m) (fun p q => if int p < int q then q else p)
      ∧ plain (.vand d a (.v b) m) (· &&& ·) ∧ plain (.vor d a (.v b) m) (· ||| ·) ∧ plain (.vxor d a (.v b) m) (· ^^^ ·)
      ∧ plain (.vsll d a (.v b) m) (fun p q => p * 2 ^ (q % w)) ∧ plain (.vsrl d a (.v b) m) (fun p q => p / 2 ^ (q % w))
      ∧ plain (.vsra d a (.v b) m) (fun p q => sraN w p (q % w))
      ∧ stop (.vsadd u d a (.v b) m) (fun p q => clampInt w (!u) (int p + int q))
      ∧ stop (.vssub u d a (.v b) m) (fun p q => clampInt w (!u) (int p - int q))
      ∧ (2 ≤ eb →
        stop (.vfadd d a (.v b) m) (fpAdd s.vfmt s.frm) ∧ stop (.vfsub d a (.v b) m) (fpSub s.vfmt s.frm)
        ∧ stop (.vfmul d a (.v b) m) (fpMul s.vfmt s.frm) ∧ stop (.vfdiv d a (.v b) m) (fpDiv s.vfmt s.frm)))
    ∧ (2 ≤ eb → d.toNat < 8 → Named s [(a.toNat, eb), (b.toNat, eb), (d.toNat, eb)] m.reads →
      (s.nElems = 0 ∨ s.nElems ≤ s.vstart) →
      ∀ j ∈ [Instr.vadd d a (.v b) m, .vfadd d a (.v b) m, .vmv d (.v b) m, .vcmp false 0 d a (.v b) m],
        exec j s = .next ((s.setVstart 0).advance 8))

/-- With VSTART 0, elements to process and no poisoned operand, a reduction writes to element 0 of vd the combination of
the initial value (element 0 of vs1, or the x register) with the active elements of vs2: the sum modulo 2^SEW, the
running maximum, minimum, AND or OR from the left, or in floating point the pair tree's sum added to the initial
value; VREDOSUM adds in ascending order; flags are ORed, the elements from 1 on are zeroed under TAILZ, and nothing
else changes. (14_vector R359, 08_ordering R213, 09_traps R231) -/
def Obligations.VectorReductions : Prop :=
  ∀ (s : State) (d a : Reg) (b : VOrX) (m : VMask) (u : Bool),
    let eb := s.ebytes
    let w := 8 * eb
    let init := match b with | .v r => s.elem r.toNat eb 0 | .x r => (s.x r).toNat % 2 ^ w
    let vals := (actives s m a eb).map (·.2)
    let int (v : Nat) : Int := readInt w (!u) v
    let red (j : Instr) (r : FRes) : Prop :=
      WholeReady s (((a.toNat, eb) :: b.group eb) ++ [(d.toNat, eb)]) m.reads → s.hart.limit = none → s.hart.conv = none →
      Clean s m a eb → (match b with | .v r => s.elemPois r.toNat eb 0 = false | .x _ => True) →
      ∃ t, exec j s = .next t ∧ VecWrite s t d.toNat eb (wholeElems s d.toNat eb 1 fun _ => r.1 % 2 ^ w)
        (doneCsr s (nw r.2)) none
    red (.vredsum false d a b m) (init + vals.sum, 0)
    ∧ red (.vredand d a b m) (vals.foldl (· &&& ·) init, 0) ∧ red (.vredor d a b m) (vals.foldl (· ||| ·) init, 0)
    ∧ red (.vredmax false u d a b m) (vals.foldl (fun p q => if int p < int q then q else p) init, 0)
    ∧ red (.vredmin false u d a b m) (vals.foldl (fun p q => if int q < int p then q else p) init, 0)
    ∧ (2 ≤ eb →
        red (.vredsum true d a b m) (match pairTree (fpAdd s.vfmt s.frm) vals.length vals with
          | (none, _) => (init, 0)
          | (some t, fl) => ((fpAdd s.vfmt s.frm init t).1, fl ||| (fpAdd s.vfmt s.frm init t).2))
        ∧ red (.vredosum d a b m) (foldFl (fpAdd s.vfmt s.frm) init vals)
        ∧ red (.vredmax true false d a b m) (foldFl (fpMinMax s.vfmt true) init vals)
        ∧ red (.vredmin true false d a b m) (foldFl (fpMinMax s.vfmt false) init vals))

/-- With VSTART 0, elements to process and no poisoned operand: VPOPC writes the number of set bits among the active
elements below n, VFIRST the lowest such index or all ones, VMVXS the element at the offset, sign-extended, or 0 beyond
MVL, VPIVSEL the index of the active element of greatest magnitude, the lowest of equals, or all ones; VSTART stays 0
and nothing else changes. Each executes once no outer product is incomplete. (06_core R137, 14_vector R360, 14_vector
R363, 14_vector R367, 11_numbers R277) -/
def Obligations.VectorToScalarResults : Prop :=
  ∀ (s : State) (d a : Reg) (m : VMask) (o : XOrImm) (f : Bool), Quiet s →
    let eb := s.ebytes
    let set := (List.range s.nElems).filter fun i => s.active m i && s.maskBit a.toNat i
    let idx := xiLow s o eb
    (WholeReady s [] (a.toNat :: m.reads) →
      (∃ t, exec (.vpopc d a m) s = .next t ∧ VecReg s t d (nw set.length))
      ∧ (∃ t, exec (.vfirst d a m) s = .next t ∧ VecReg s t d (match set with | i :: _ => nw i | [] => -1)))
    ∧ (WholeReady s [(a.toNat, eb)] [] → s.elemPois a.toNat eb idx = false →
        ∃ t, exec (.vmvxs d a o) s = .next t ∧ VecReg s t d (if idx < s.mvl then sextW (s.elem a.toNat eb idx) (8 * eb) else 0))
    ∧ (WholeReady s [(a.toNat, eb)] m.reads → Clean s m a eb →
        ∃ t, exec (.vpivsel f d a m) s = .next t ∧ VecReg s t d
          (match rankOrder (ranksAbove (rankFmt s f) (8 * eb) false) (actives s m a eb) with | p :: _ => nw p.1 | [] => -1))

/-- For any list of (index, value) pairs with rising indices and any strict weak order on values, the rank order is a
permutation of the list in which no pair ranks above an earlier one, and of two pairs neither of which ranks above the
other the one of lower index comes first. (11_numbers R277, 14_vector R365) -/
def Obligations.RankOrderSorts : Prop :=
  ∀ (above : Nat → Nat → Bool) (act : List (Nat × Nat)),
    (∀ x, above x x = false) → (∀ x y z, above x y = true → above y z = true → above x z = true) →
    (∀ x y z, above x y = false → above y z = false → above x z = false) →
    act.Pairwise (fun p q => p.1 < q.1) →
    (rankOrder above act).Perm act
    ∧ (rankOrder above act).Pairwise (fun p q => above q.2 p.2 = false ∧ (above p.2 q.2 = false → p.1 < q.1))

/-- Each of the ten forms completes with VSTART 0, elements to process and no poisoned source element below MVL: VIOTA
writes the running count of set active bits, VSLIDEUP and VSLIDEDN shift by the offset, VSLIDEUP leaving active elements
below it as they are, VPERM gathers by index (0 beyond n), VCOMPRESS packs the elements whose mask bit is set and sets
VL, VEXPAND spreads them, VMVSX writes element 0, VNZSCAN writes the indices of the active non-zero elements and sets
VL, VSEGSCAN the segmented prefix sums; inactive elements and the tail follow MASKZ and TAILZ and nothing else changes.
VTOPK writes the first VL of the rank order to vd and their indices to vi, padded with 0 and all ones, and sets VL.
(14_vector R360, 14_vector R361, 14_vector R362, 14_vector R363, 14_vector R364, 14_vector R365, 14_vector R366,
11_numbers R276) -/
def Obligations.VectorPermutations : Prop :=
  ∀ (s : State) (d a e m1 : Reg) (m : VMask) (o : XOrImm) (f v : Bool),
    let eb := s.ebytes
    let w := 8 * eb
    let n := s.nElems
    let x (i : Nat) : Nat := s.elem a.toNat eb i
    let old (i : Nat) : Nat := s.elem d.toNat eb i
    let off := xiLow s o eb
    let bit (i : Nat) : Bool := s.maskBit m1.toNat i
    let ready (gs : List (Nat × Nat)) (ms : List Nat) : Prop :=
      WholeReady s (gs ++ [(d.toNat, eb)]) ms ∧ CleanBelow s a eb s.mvl
    let done (j : Instr) (el : Nat → Nat) (c : Csrs) : Prop := ∃ t, exec j s = .next t ∧ VecWrite s t d.toNat eb el c none
    let sets (j : Instr) (el : Nat → Nat) (vl : Nat) : Prop :=
      ∃ t, exec j s = .next t ∧ VecWrite (s.setVlVec vl) t d.toNat eb el { doneCsr s 0 with vl := nw vl } none
    let each (val : Nat → Nat) : Nat → Nat := elementwise s m d.toNat eb val
    let kept := (List.range n).filter bit
    let hits := ((actives s m a eb).filter fun p => !isZeroElem (rankFmt s f) p.2).map (·.1)
    (ready [] (m1.toNat :: m.reads) →
      done (.viota d m1 m) (each fun i => (List.range i).countP fun j => s.active m j && bit j) (doneCsr s 0))
    ∧ (ready [(a.toNat, eb)] m.reads →
      done (.vslideup d a o m) (each fun i => if i < off then old i else x (i - off)) (doneCsr s 0)
      ∧ done (.vslidedn d a o m) (each fun i => if i + off < n then x (i + off) else 0) (doneCsr s 0))
    ∧ (ready [(a.toNat, eb), (e.toNat, eb)] m.reads → CleanBelow s e eb n →
      done (.vperm d a e m) (each fun i => if s.elem e.toNat eb i < n then x (s.elem e.toNat eb i) else 0) (doneCsr s 0))
    ∧ (ready [(a.toNat, eb)] [m1.toNat] →
      (s.vrc = 1 → sets (.vcompress d a m1) (wholeElems s d.toNat eb kept.length fun i => x (kept.getD i 0)) kept.length)
      ∧ done (.vexpand d a m1) (wholeElems s d.toNat eb n fun i =>
          if bit i then x ((List.range i).countP bit) else if s.maskz then 0 else old i) (doneCsr s 0))
    ∧ (WholeReady s [(d.toNat, eb)] [] → done (.vmvsx d o) (wholeElems s d.toNat eb 1 fun _ => off) (doneCsr s 0))
    ∧ (ready [(a.toNat, eb)] m.reads → n ≤ 2 ^ w → s.vrc = 1 →
      sets (.vnzscan f d a m) (wholeElems s d.toNat eb hits.length fun i => hits.getD i 0 % 2 ^ w) hits.length)
    ∧ (ready [(a.toNat, eb)] (m1.toNat :: m.reads) →
      let sum (p q : Nat) : FRes := if f then fpAdd s.vfmt s.frm p q else ((p + q) % 2 ^ w, 0)
      let r := segScan s m1 m sum (actives s m a eb) n 0 none
      done (.vsegscan f d a m1 m) (wholeElems s d.toNat eb n fun i =>
        match r.1[i]? with | some (some v) => v % 2 ^ w | _ => old i) (doneCsr s (nw r.2)))
    ∧ (WholeReady s ([(a.toNat, eb)] ++ [(d.toNat, eb), (e.toNat, eb)]) m.reads → CleanBelow s a eb s.mvl → n ≤ 2 ^ w →
      s.vrc = 1 → s.groupsMeet (d.toNat, eb) (e.toNat, eb) = false →
      let nv := min off s.vl
      let r := rankOrder (ranksAbove (rankFmt s f) w v) (actives s m a eb)
      ∃ t, exec (.vtopk f v d e a o m) s = .next t ∧ t.pc = s.pc + 8 ∧ t.hart.csr.vl = nw nv ∧ t.hart.csr.vstart = 0
        ∧ (∀ q, t.x q = s.x q) ∧ SameMemory s t
        ∧ ∀ i, i < nv → t.elem d.toNat eb i = (match r[i]? with | some p => p.2 | none => 0)
            ∧ t.elem e.toNat eb i = (match r[i]? with | some p => p.1 | none => 2 ^ w - 1))

/-- VSETL of a legal VTYPE sets VTYPE, VSTART 0 and VL to the least of AVL, the capped MVL and, with a stream port that
no other reading port of its engine shares, of any hart of the crew, the elements the port has left, and writes VL to
rd; a port that is not configured raises STREAM_UNCONFIG. VDECL re-declares the registers where it asks for no more than
the hart has and VLENB would be at least 256, clearing them, and writes VLENB to rd, else it writes 0 and changes
nothing else: that a width above the declared one answers 0 and does not trap is the model's choice of log 69 (R345
against R141). DSCFG binds a port that has nothing left to write, at position 0; a write binding with elements
unwritten, or with writes that have left and are not performed, first drains; DSCLR returns the port to UNCONFIG.
(14_vector R344, 14_vector R345, 14_vector R346, 14_vector R347, 06_core R150, 06_core R151, 05_power_thermal R117) -/
def Obligations.VectorConfiguration : Prop :=
  ∀ (s : State) (rd a xc xs : Reg) (vt : BitVec 10) (p : BitVec 3) (k w : BitVec 2) (out : Bool),
    let v : Word := vt.setWidth 64
    let most := min (s.x a).toNat (capVl s.capLevel (s.mvlAt v))
    let set (to_ : State → Nat → State) (vl : Nat) (u : State) : State :=
      (((to_ (u.onCsr fun c => { c with vtype := v }) vl).setVstart 0).setX rd (nw vl)).advance 8
    let d := s.stream p
    let vb := vlenbOf s.crew.lanes s.crew.hg (8 * (k.toNat + 1))
    let bound : Stream :=
      { Stream.reset with
        st := if out then .write else .read, base := (s.x a).toNat
        c0 := fld (s.x xc) 0 16, c1 := fld (s.x xc) 16 16, c2 := fld (s.x xc) 32 16
        s0 := sextI (fld (s.x xs) 0 20) 20, s1 := sextI (fld (s.x xs) 20 20) 20, s2 := sextI (fld (s.x xs) 40 20) 20
        width := 2 ^ w.toNat }
    let settled : Prop := d.st = .unconfig ∨ d.st = .read ∨ (d.st = .write ∧ d.pend = [] ∧ s.hart.streamOut p = false)
    let plain : Prop := fld (s.x xc) 48 16 = 0 ∧ fld (s.x xs) 60 4 = 0
    (fld v 4 3 < 4 → v.getLsbD 7 = false → fld v 4 3 ≤ s.hart.sewMax →
      exec (.vsetl rd a vt none) s = .next (set setVl most s)
      ∧ (Quiet s → d.st ≠ .unconfig →
          (d.st = .read → ∀ h ∈ s.crewHarts s.crew, ∀ q : BitVec 3, q.toNat / 4 = p.toNat / 4 →
            (h.1 = s.cur ∧ q = p) ∨ h.2.ds[q.toNat].st ≠ .read) →
          exec (.vsetl rd a vt (some p)) s = .next (set setVlVec (min most d.left) (s.setStream p { d with short := false })))
      ∧ (d.st = .unconfig → Traps s (.vsetl rd a vt (some p)) .streamUnconfig 0 (nw p.toNat)))
    ∧ (Quiet s →
      (8 * (k.toNat + 1) ≤ s.hart.nreg → w.toNat ≤ s.hart.sewMax → 256 ≤ vb →
        exec (.vdecl rd k w) s = .next ((({ s with hart := { s.hart with
          nreg := 8 * (k.toNat + 1), sewMax := w.toNat, vlenb := vb, v := [], vpois := [], m := [], wext := [], vlDs := false
          csr := { s.hart.csr with vtype := nw (w.toNat * 16), vl := 0, vstart := 0 } } } : State).setX rd (nw vb)).advance 8))
      ∧ ((s.hart.nreg < 8 * (k.toNat + 1) ∨ s.hart.sewMax < w.toNat ∨ vb < 256) →
        exec (.vdecl rd k w) s = .next ((s.setX rd 0).advance 8))
      ∧ (settled → (plain → exec (.dscfg p a xc xs w out) s = .next ((s.setStream p bound).advance 8))
        ∧ ∃ t, exec (.dsclr p) s = .next t ∧ (t.stream p).st = .unconfig ∧ t = (s.setStream p (t.stream p)).advance 8)
      ∧ (d.st = .write → (d.pend ≠ [] ∨ s.hart.streamOut p = true) → exec (.dsclr p) s = .next (s.setStream p { d with st := .draining })
        ∧ (plain → exec (.dscfg p a xc xs w out) s = .next (s.setStream p { d with st := .draining }))))

/-- Under the conditions of R306 and with every active element of the execution reaching clean local memory, VLD, VLDS,
VLDX (by its index group) and VLDT complete: each active element of vd holds the SEW-wide little-endian value at its
address as the vector side finds it (the core's dirty bytes written back first), the other elements follow MASKZ and
TAILZ, and VSTART becomes 0. Element addresses are xb plus the offset plus i elements, i strides, the index value, or
row and column under VRP and VL. No byte of memory changes but by the write-back, and no x register, mask, flag or VL.
(14_vector R348, 14_vector R349, 12_encoding R306, 06_core R138, 07_memory R187) -/
def Obligations.VectorLoads : Prop :=
  ∀ (s : State) (d b xs vi : Reg) (e : BitVec 16) (iw : BitVec 2) (lu ff : Bool) (m : VMask) (ps : Nat → List (Nat × Nat × Place)),
    let eb := s.ebytes
    let ib := 2 ^ iw.toNat
    let base := s.x b + e.signExtend 64
    let load (j : Instr) (idx : List (Nat × Nat)) (addr : Nat → Word) : Prop :=
      VecReady s (idx ++ [(d.toNat, eb)]) m.reads →
      (∀ i, s.vstart ≤ i → i < s.nElems → s.active m i = true → Lands s .vecLd .read (addr i) eb (ps i)) →
      ∃ t, exec j s = .next t
        ∧ VecAtMemory s t d.toNat eb (elementwise s m d.toNat eb fun i => seenPieces s (ps i)) (doneCsr s 0) (fun _ => none)
    s.crew.core < 160 → CacheSound s → Addressed s → (ff = true → s.vrc = 1) →
    load (.vld d b e lu ff m) [] (fun i => base + nw (i * eb))
    ∧ load (.vlds d b xs e lu ff m) [] (fun i => base + nw i * s.x xs)
    ∧ (Clean s m vi ib → load (.vldx d b vi iw lu ff m) [(vi.toNat, ib)] (fun i => s.x b + nw (s.elem vi.toNat ib i)))
    ∧ load (.vldt d b e lu false m) [] (fun i => base + nw (i / s.vl) * s.hart.csr.vrp + nw (i % s.vl * eb))
    ∧ (eb ≤ 2 → load (.vldt d b e lu true m) [] (fun i => base + nw (i % s.vl) * s.hart.csr.vrp + nw (i / s.vl * eb)))

/-- Under the conditions of R306, with no poisoned active source element and every active element reaching local memory,
VST, VSTS, VSTX and VSTT complete: after the active elements are stored in ascending order each stored byte reads, at
its home and on the core's scalar side, as the last element to cover it left it; every other byte is as before or as
the core had it dirty; VSTART becomes 0 and no register, mask or flag changes. VST to a write stream with at least n
elements left appends n elements, each at its pattern address, and advances the port by n. (14_vector R350, 14_vector
R351, 14_vector R348, 06_core R149, 06_core R150, 12_encoding R306, 06_core R138) -/
def Obligations.VectorStores : Prop :=
  ∀ (s : State) (d b xs vi : Reg) (e : BitVec 16) (iw : BitVec 2) (p : BitVec 3) (m : VMask) (ps : Nat → List (Nat × Nat × Place)),
    let eb := s.ebytes
    let ib := 2 ^ iw.toNat
    let base := s.x b + e.signExtend 64
    let x (i : Nat) : Nat := s.elem d.toNat eb i
    let store (j : Instr) (idx : List (Nat × Nat)) (addr : Nat → Word) : Prop :=
      VecReady s ((d.toNat, eb) :: idx) m.reads → Clean s m d eb →
      (∀ i, s.vstart ≤ i → i < s.nElems → s.active m i = true → Lands s .vecSt .write (addr i) eb (ps i)) →
      ∃ t, exec j s = .next t ∧ StoreEffect s t (doneCsr s 0) (storedByElems s m x ps) ∧ t.hart.m = s.hart.m
    s.crew.core < 160 → CacheSound s →
    (Addressed s → store (.vst d (.mem b e) m) [] (fun i => base + nw (i * eb))
    ∧ store (.vsts d b xs e m) [] (fun i => base + nw i * s.x xs)
    ∧ (Clean s m vi ib → store (.vstx d b vi iw m) [(vi.toNat, ib)] (fun i => s.x b + nw (s.elem vi.toNat ib i)))
    ∧ store (.vstt d b e m) [] (fun i => base + nw (i / s.vl) * s.hart.csr.vrp + nw (i % s.vl * eb)))
    ∧ (let q := s.stream p
       VecReady s [(d.toNat, eb)] [] → CleanBelow s d eb s.nElems → q.st = .write → q.width = eb → s.nElems ≤ q.left →
       (∀ i, i < s.nElems → Lands s .vecSt .write (q.addr (q.pos + i)) eb (ps i)) →
       let more := (List.range s.nElems).flatMap fun i => (ps i).filterMap fun r =>
         match r.2.2 with
         | .mem pa => some ({ va := (q.addr (q.pos + i)).toNat, pa, n := r.2.1, v := x i / 2 ^ (8 * r.1) % 2 ^ (8 * r.2.1), ins := s.hart.csr.instret } : SElem)
         | _ => none
       exec (.vst d (.ds p) .unmasked) s
         = .next (((s.setStream p { q with pos := q.pos + s.nElems, pend := q.pend ++ more }).setVstart 0).advance 8))

/-- At SEW 32 or 64, with the groups readable and every active element at an aligned address of clean local memory: VAMO
(in REPLAY, or any swap or cas) performs its updates one after another in ascending element order and writes each old
value to vd; VSCATADD adds each element to its location in that order, and VSCATACC does the same at the local index
where the chip table names this chip, both ORing the additions' flags into VFLAGS (the model's choice of log 45); VLOCK,
on locks that do not overlap, swaps the hart's token for 0 at the lowest element of each address, sets md where it
succeeded and clears it elsewhere; VUNLOCK stores 0 to each lock, having released; no copy is to fill a line that their
core caches. Every other byte of memory is as before or as the core had it dirty. (14_vector R368, 14_vector R369,
14_vector R370, 14_vector R371, 08_ordering R213, 08_ordering R215, 02_torus_links R41, 07_memory R170) -/
def Obligations.VectorMemoryOperations : Prop :=
  ∀ (s : State) (op : BitVec 4) (d b vi : Reg) (s1 : VOrX) (m : VMask) (f : Bool) (pa : Nat → Nat)
    (tab : Nat → List (Nat × Nat × Place)),
    let eb := s.ebytes
    let idx (i : Nat) : Nat := s.elem vi.toNat eb i
    let va (i : Nat) : Word := s.x b + nw (idx i)
    let val (i : Nat) : Nat := match s1 with | .v r => s.elem r.toNat eb i | .x r => (s.x r).toNat % 2 ^ (8 * eb)
    let active (P : Nat → Prop) : Prop := ∀ i, s.vstart ≤ i → i < s.nElems → s.active m i = true → P i
    let lands (addr : Nat → Word) (i : Nat) : Prop :=
      (addr i).toNat % eb = 0 ∧ Lands s .atomic .write (addr i) eb [(0, eb, .mem (pa i))]
    let acts := (upFrom s.vstart (s.nElems - s.vstart)).filter (s.active m)
    let es := acts.map fun i => (pa i, val i, s.elem d.toNat eb i)
    let after (o : AtomOp) (a : Nat) : Option Byte := if Updated eb es a then some ((updates o eb es (seen s)).2.1 a) else none
    let clean1 : Prop := match s1 with | .v r => Clean s m r eb | .x _ => True
    s.crew.core < 160 → CacheSound s → s.hart.pairs = [] → s.hart.lockRun = none → 4 ≤ eb → Clean s m vi eb →
    (VecReady s (((vi.toNat, eb) :: s1.group eb) ++ [(d.toNat, eb)]) m.reads → clean1 → (op = 9 → Clean s m d eb) →
      (s.hart.csr.amomode.getLsbD 0 = false ∨ op = 8 ∨ op = 9) → active (lands va) →
      let u := updates (amoOp op) eb es (seen s)
      ∃ t, exec (.vamo op d b vi s1 m) s = .next t ∧ VecAtMemory s t d.toNat eb
        (elementwise s m d.toNat eb fun i => u.1.getD ((upFrom s.vstart (i - s.vstart)).countP (s.active m)) 0)
        (doneCsr s (nw u.2.2)) (after (amoOp op)))
    ∧ (VecReady s ((vi.toNat, eb) :: s1.group eb) m.reads → clean1 →
      let fl := (updates (if f then .fadd else .add) eb es (seen s)).2.2
      (active (lands va) →
        ∃ t, exec (.vscatadd f b vi s1 m) s = .next t ∧ StoreEffect s t (doneCsr s (nw fl)) (after (if f then .fadd else .add))
          ∧ t.hart.m = s.hart.m)
      ∧ (ownEn s = true → ownBlk s ≤ 20 → active (lands fun i => s.x b + nw (localIdx s (idx i) * eb)) →
        active (fun i => Lands s .vecLd .read (nw (ownTab s + 2 * chipSlot s (idx i))) 2 (tab i)
          ∧ seenPieces s (tab i) % 2 ^ 12 = s.chipId) →
        ∃ t, exec (.vscatacc f b vi s1 m) s = .next t ∧ StoreEffect s t (doneCsr s (nw fl)) (after (if f then .fadd else .add))
          ∧ t.hart.m = s.hart.m))
    ∧ (active (lands va) → (active fun i => active fun j => va i ≠ va j → pa i + eb ≤ pa j ∨ pa j + eb ≤ pa i) →
      let first (i : Nat) : Bool := i ∈ acts && acts.all fun j => decide (i ≤ j) || decide (va j ≠ va i)
      let won (i : Nat) : Bool := first i && decide (seenValue s (pa i) eb = 0)
      let token (a : Nat) : Option Byte := (acts.find? fun i => won i && decide (pa i ≤ a) && decide (a < pa i + eb)).map fun i =>
        BitVec.ofNat 8 (lockToken s % 2 ^ (8 * eb) / 256 ^ (a - pa i))
      (Unheld s → WholeReady s [(vi.toNat, eb)] (m.reads ++ [d.toNat]) →
        ∃ t, exec (.vlock d b vi m) s = .next t
          ∧ StoreEffect (s.onHart fun h => { h with ibuf := FMap.erase h.pc.toNat (FMap.erase (h.pc.toNat + 4) h.ibuf) }) t
              (doneCsr s 0) token
          ∧ (∀ i, i < 8 * s.hart.vlenb → t.maskBit d.toNat i
              = if i < s.nElems then won i else if s.tailz then false else s.maskBit d.toNat i)
          ∧ ∀ r i, r ≠ d.toNat → i < 8 * s.hart.vlenb → t.maskBit r i = s.maskBit r i)
      ∧ (Unheld s → WholeReady s [(vi.toNat, eb)] m.reads →
        ∃ t, exec (.vunlock b vi m) s = .next t ∧ t.hart.m = s.hart.m ∧ StoreEffect s t (doneCsr s 0)
          fun a => if acts.any (fun i => decide (pa i ≤ a) && decide (a < pa i + eb)) then some 0 else none))

/-- With a credit at a bound send endpoint of the crew, VSEND sends the bytes of the elements below n of vs2 as one
message of one row, and MTSEND the active rows of the tile (transposed under .T) out of FP32 in its format with the
flags raised; each spends one credit (the endpoint keeps none for a convoy of the hart), a release first having written
back what the hart dirtied, with no store waiting in its store queues and no line that a copy is to fill. With an entry
in a receive endpoint, VRECV puts its payload into vd's bytes, the rest of the group zeroed under TAILZ, and MTRECV each
element into the tile from its format; the entry leaves the queue and a bound queue returns its credit. A queue with no
credit, or with no entry, makes them wait with nothing changed. (14_vector R372, 15_matrix_merge_copy R391,
15_matrix_merge_copy R392, 15_matrix_merge_copy R388, 02_torus_links R46, 02_torus_links R47, 06_core R153) -/
def Obligations.LinkQueueTransfers : Prop :=
  ∀ (s : State) (rel tr : Bool) (d a q : Reg) (fmt : BitVec 4) (e : TileMsg) (rest : List TileMsg),
    let eb := s.ebytes
    let n := s.nElems
    let u := if rel then (s.writeBackOf s.crew.core s.cur).onHart fun h => { h with olds := [] } else s
    let bytes := (upFrom (d.toNat * s.hart.vlenb) (n * eb)).map fun k => FMap.getD 0 k s.hart.v
    let cells := (List.range (msgRows s tr)).flatMap fun p => (List.range (msgCols s tr)).map fun c => tileAt tr p c
    let out := cells.map fun x => outTile s fmt (tileElem s a.toNat x.1 x.2)
    let vready : Prop := Named s [(d.toNat, eb)] [] ∧ 0 < n
    s.hart.live = true → s.crew.core < 160 → s.hart.conv = none →
    (rel = true → s.hart.awaits = false ∧ InOrder s ∧ Unheld s) →
    (vready → n * eb ≤ 16384 → CleanBelow s d eb n → (queueOf s q).kept ≠ some s.hart.idx →
      (MaySend s q → exec (.vsend rel q d) s = .next (((sentTile u q 1 (n * eb) 8 bytes).setVstart 0).advance 8))
      ∧ (q.toNat < 16 → q.toNat < s.crew.lqs → (queueOf s q).st = .bound → (queueOf s q).dir = true → (queueOf s q).credit = 0 →
          exec (.vsend rel q d) s = .next s))
    ∧ (TileReady s a → MaySend s q → 0 < msgRows s tr → 0 < msgCols s tr →
        (∀ x ∈ cells, tilePois s a.toNat x.1 x.2 = false) →
        exec (.mtsend rel tr q a fmt) s = .next (((sentTile u q (msgRows s tr) (msgCols s tr) fmt.toNat
          (out.flatMap fun v => bytesLE (tileEb fmt) v.1)).addFlags (out.foldl (fun f v => f ||| v.2) 0)).advance 8))
    ∧ (vready → MayTake s q e rest → e.bytes ≤ s.lmul * s.hart.vlenb → e.data.length = e.bytes →
        ∃ t, exec (.vrecv rel d q) s = .next t ∧ tookEntry s t q rest ∧ t.pc = s.pc + 8 ∧ (∀ r, t.x r = s.x r)
          ∧ t.hart.csr.vstart = 0 ∧ (rel = true → Acquired s t) ∧ (rel = false → SameMemory s t)
          ∧ (∀ i, i < s.lmul * s.hart.vlenb → t.elem d.toNat 1 i
              = if i < e.bytes then (e.data.getD i 0).toNat else if s.tailz then 0 else s.elem d.toNat 1 i)
          ∧ ∀ k, k < d.toNat * s.hart.vlenb ∨ d.toNat * s.hart.vlenb + s.lmul * s.hart.vlenb ≤ k →
              FMap.getD 0 k t.hart.v = FMap.getD 0 k s.hart.v)
    ∧ (TileReady s a → MayTake s q e rest → e.fmt ≤ 6 → e.rows ≤ 64 → e.cols ≤ 64 →
        let f := BitVec.ofNat 4 e.fmt
        let val (r c : Nat) : FRes := intoTile f (msgElem e (tileEb f) (r * e.cols + c))
        ∃ t, exec (.mtrecv rel a q) s = .next t ∧ tookEntry s t q rest ∧ t.pc = s.pc + 8 ∧ (∀ r, t.x r = s.x r)
          ∧ (rel = true → Acquired s t) ∧ (rel = false → SameMemory s t) ∧ OtherTiles s t a
          ∧ (∀ r c, r < 64 → c < 64 → tileElem t a.toNat r c
              = if r < e.rows ∧ c < e.cols then (val r c).1 % 2 ^ 32 else tileElem s a.toNat r c)
          ∧ t.hart.csr.vflags = s.hart.csr.vflags ||| nw (((List.range e.rows).flatMap fun r =>
              (List.range e.cols).map fun c => (val r c).2).foldl (· ||| ·) 0))
    ∧ (q.toNat < 16 → q.toNat < s.crew.lqs → (queueOf s q).st = .bound → (queueOf s q).dir = false → (queueOf s q).held = [] →
        (vready → exec (.vrecv rel d q) s = .next s) ∧ (TileReady s a → exec (.mtrecv rel a q) s = .next s))

/-- MTEN of 1 to 8 slots that the crew has free, on a hart with none, enables that many tiles, all zero; MTDIS, with no
outer product incomplete, releases them; MSHAPE of non-zero M and N grants M and N of at most 64, N also of at most
CapN, the largest K that is a multiple of the K step and within the request, 1,024 and the group capacity, and sets
MPRED to (M, N) and MSTART to 0; MPRED sets rows and columns to at most M and N; MSCALE loads the named scale codes
from the register group's bytes. Nothing else changes. (15_matrix_merge_copy R378, 15_matrix_merge_copy R379,
15_matrix_merge_copy R380, 15_matrix_merge_copy R381, 06_core R155, 06_core R156, 05_power_thermal R117) -/
def Obligations.MatrixConfiguration : Prop :=
  ∀ (s : State) (n : BitVec 4) (a d : Reg) (o : XOrImm) (b : Bool) (nb : BitVec 6),
    let csrOnly (t : State) : Prop := t.pc = s.pc + 8 ∧ t = { s with hart := { s.hart with
      pc := t.hart.pc, asked := [], answers := []
      csr := { s.hart.csr with
        mshape := t.hart.csr.mshape, mpred := t.hart.csr.mpred, mstart := t.hart.csr.mstart, instret := s.hart.csr.instret + 1 } } }
    (n ≠ 0 → n.toNat ≤ 8 → s.hart.tiles = 0 → slotsUsed s + n.toNat ≤ s.crew.accs →
      exec (.mten n) s = .next ((s.onHart fun h => { h with tiles := n.toNat, acc := [], accPois := [], trow := [] }).advance 8))
    ∧ (Quiet s → exec .mtdis s = .next ((s.onHart fun h => { h with tiles := 0, acc := [], accPois := [], trow := [] }).advance 8))
    ∧ (let v := s.x a
       fld v 27 37 = 0 → fld v 8 8 ≠ 0 → fld v 0 8 ≠ 0 →
       ∃ t, exec (.mshape a) s = .next t ∧ csrOnly t
         ∧ shM t = min (fld v 0 8) 64 ∧ shNreq t = min (fld v 8 8) 64 ∧ shN t = min (min (fld v 8 8) 64) (capN s.capLevel)
         ∧ predRows t = shM t ∧ predCols t = shN t ∧ t.hart.csr.mstart = 0
         ∧ let fits (k : Nat) : Prop := k % mopG s = 0 ∧ k ≤ fld v 16 11 ∧ k ≤ 1024 ∧ k * max (shM t) (shN t) ≤ s.mvl
           fits (shK t) ∧ ∀ k, fits k → k ≤ shK t)
    ∧ (let v : Word := match o with | .x r => s.x r | .imm i => i.setWidth 64
       fld v 15 49 = 0 → v.getLsbD 7 = false → shM s ≤ 64 → shN s ≤ 64 →
       ∃ t, exec (.mpred o) s = .next t ∧ csrOnly t ∧ t.hart.csr.mshape = s.hart.csr.mshape ∧ t.hart.csr.mstart = s.hart.csr.mstart
         ∧ predRows t = min (fld v 0 7) (shM s) ∧ predCols t = min (fld v 8 7) (shN s))
    ∧ (s.groupsOk [(d.toNat, s.ebytes)] = true → nb ≠ 0 → nb.toNat ≤ 32 → nb.toNat * 64 ≤ s.lmul * s.hart.vlenb →
       (∀ i, i < nb.toNat * 64 → s.elemPois d.toNat 1 i = false) →
       ∃ t, exec (.mscale b d nb) s = .next t ∧ t.pc = s.pc + 8 ∧ t.hart.scaled = true
         ∧ (∀ i k, i < 64 → scaleA t i k = if b = false ∧ k < nb.toNat then s.elem d.toNat 1 (k * 64 + i) else scaleA s i k)
         ∧ (∀ i k, i < 64 → scaleB t i k = if b = true ∧ k < nb.toNat then s.elem d.toNat 1 (k * 64 + i) else scaleB s i k)
         ∧ t = { s with hart := { s.hart with
             sa := t.hart.sa, sb := t.hart.sb, scaled := true, pc := t.hart.pc, asked := [], answers := []
             csr := { s.hart.csr with instret := s.hart.csr.instret + 1 } } })

/-- With the tile enabled, no outer product incomplete and no poison: MZERO zeroes the tile; MTRD writes to vd element i
the tile element at the origin plus row i / VL and column i mod VL, and MTWR the reverse, under the governing mask;
MTLD loads the active rows of the message tile from rows VRP apart (or at the index group's multiples of VRP),
converting into FP32, and MTST stores them, converting out, each stored byte as the last element to cover it left it,
with the flags raised and MSTART 0. Other tiles, tile elements, registers and bytes of memory are as before, but for
what the core had dirty. (15_matrix_merge_copy R386, 15_matrix_merge_copy R387, 15_matrix_merge_copy R388,
15_matrix_merge_copy R389, 15_matrix_merge_copy R376) -/
def Obligations.TileMoves : Prop :=
  ∀ (s : State) (a d b : Reg) (o : XOrImm) (m : VMask) (g : Option Reg) (tr : Bool) (fmt : BitVec 4)
    (ps : Nat → Nat → List (Nat × Nat × Place)),
    let w := originOf s o
    let cell (i : Nat) : Nat × Nat := (w.1 + i / s.vl, w.2.1 + i % s.vl)
    let R := msgRows s tr
    let C := msgCols s tr
    let fb := tileEb fmt
    let rowAt (p : Nat) : Word := match g with
      | none => s.x b + nw p * s.hart.csr.vrp
      | some v => s.x b + nw (s.elem v.toNat 4 p) * s.hart.csr.vrp
    let rowsOk : Prop := match g with
      | none => True
      | some v => s.groupsOk [(v.toNat, 4)] = true ∧ R * 4 ≤ s.groupRegs 4 * s.hart.vlenb ∧ CleanBelow s v 4 R
    let cells := (List.range R).flatMap fun p => (List.range C).map fun q => (p, q)
    let at_ (x : Nat × Nat) : Nat × Nat := tileAt tr x.1 x.2
    let val (x : Nat × Nat) : FRes := outTile s fmt (tileElem s a.toNat (at_ x).1 (at_ x).2)
    let got (x : Nat × Nat) : FRes := intoTile fmt (seenPieces s (ps x.1 x.2))
    let reach (acc : Acc) (need : Need) : Prop := ∀ p q, p < R → q < C → Lands s acc need (rowAt p + nw (q * fb)) fb (ps p q)
    let flags (l : List Nat) : Csrs := { s.hart.csr with
      vflags := s.hart.csr.vflags ||| nw (l.foldl (· ||| ·) 0), mstart := 0, instret := s.hart.csr.instret + 1 }
    TileReady s a → s.crew.core < 160 → CacheSound s →
    (∃ t, exec (.mzero a) s = .next t ∧ t.pc = s.pc + 8 ∧ OtherTiles s t a ∧ (∀ r c, r < 64 → c < 64 → tileElem t a.toNat r c = 0)
      ∧ t = { s with hart := { s.hart with
          acc := t.hart.acc, accPois := t.hart.accPois, trow := t.hart.trow, pc := t.hart.pc, asked := [], answers := []
          csr := { s.hart.csr with instret := s.hart.csr.instret + 1 } } })
    ∧ (VecReady s [(d.toNat, s.ebytes)] m.reads → windowOk s w = true →
        ((∀ r c, tilePois s a.toNat r c = false) →
          ∃ t, exec (.mtrd d a o m) s = .next t ∧ VecWrite s t d.toNat 4
            (elementwise s m d.toNat 4 fun i => tileElem s a.toNat (cell i).1 (cell i).2) (doneCsr s 0) none)
        ∧ (Clean s m d 4 →
          ∃ t, exec (.mtwr a d o m) s = .next t ∧ t.pc = s.pc + 8 ∧ t.hart.csr = doneCsr s 0 ∧ OtherTiles s t a
            ∧ (∀ r c, r < 64 → c < 64 → (∀ i, s.vstart ≤ i → i < s.nElems → s.active m i = true → cell i ≠ (r, c)) →
                tileElem t a.toNat r c = tileElem s a.toNat r c)
            ∧ (∀ i, s.vstart ≤ i → i < s.nElems → s.active m i = true →
                tileElem t a.toNat (cell i).1 (cell i).2 = s.elem d.toNat 4 i)
            ∧ t = { s with hart := { s.hart with
                acc := t.hart.acc, accPois := t.hart.accPois, trow := t.hart.trow, pc := t.hart.pc, csr := t.hart.csr
                asked := [], answers := [] } }))
    ∧ (0 < R → R ≤ 64 → 0 < C → C ≤ 64 → mstart s = 0 → s.hart.limit = none → rowsOk →
        (reach .vecLd .read →
          ∃ t, exec (.mtld a b g tr fmt) s = .next t ∧ t.pc = s.pc + 8 ∧ OtherTiles s t a
            ∧ (∀ x ∈ cells, tileElem t a.toNat (at_ x).1 (at_ x).2 = (got x).1 % 2 ^ 32)
            ∧ (∀ r c, r < 64 → c < 64 → (∀ x ∈ cells, at_ x ≠ (r, c)) → tileElem t a.toNat r c = tileElem s a.toNat r c)
            ∧ t.hart.csr = flags (cells.map fun x => (got x).2) ∧ (∀ r, t.x r = s.x r) ∧ (∀ x, Kept s t x) ∧ OthersKept s t
            ∧ t = { s with
                mem := t.mem, pois := t.pois, dcache := t.dcache, locked := t.locked, lockOvf := t.lockOvf, hart := { s.hart with
                acc := t.hart.acc, accPois := t.hart.accPois, trow := t.hart.trow, pc := t.hart.pc, csr := t.hart.csr
                asked := [], answers := [] } })
        ∧ (reach .vecSt .write → (∀ x ∈ cells, tilePois s a.toNat (at_ x).1 (at_ x).2 = false) →
          ∃ t, exec (.mtst a b g tr fmt) s = .next t ∧ t.hart.m = s.hart.m
            ∧ StoreEffect s t (flags (cells.map fun x => (val x).2)) (storedBy (cells.map fun x => ((val x).1, ps x.1 x.2)))))

/-- With the tile enabled, the shape within the operands, no poison and every link-queue operand holding a matching
entry, MOPA and MOPS, and MOPAG on rows gathered from shared memory, issue the sums of K steps 0 to K for the active
rows and columns, leave the accumulator and the entries as they are, set MSTART and VSTART to 0 and write no register;
where A and B name the same queue, one entry serves and is consumed for both, the model's choice of log 46. With .FWD
they issue the sums and stay with MSTART = K, also where a credit is there, the model's choice of log 68; there, with
every operation on the tile complete and a credit to send on, they forward the entry of B, consume the entries and set
MSTART to 0. A completion puts the oldest issued sums into the accumulator, raises their flags, and consumes the entries
that they held. For INT8, one outer product of any K adds to each element the sum of its products, or subtracts it,
modulo 2^32. (15_matrix_merge_copy R382, 15_matrix_merge_copy R383, 15_matrix_merge_copy R384, 15_matrix_merge_copy
R385, 06_core R154, 06_core R157, 11_numbers R267, 11_numbers R270, 11_numbers R272) -/
def Obligations.OuterProducts : Prop :=
  ∀ (s : State) (acc xb vi vr : Reg) (a b : MOperand) (i8 gb : Bool) (fwd : Option Reg) (ent : Reg → TileMsg)
    (rest : Reg → List TileMsg) (ps : Nat → Nat → List (Nat × Nat × Place)),
    let eb := s.ebytes
    let K := shK s
    let g := mopG s
    let m := predRows s
    let isLq (o : MOperand) : Bool := match o with | .lq _ => true | .v _ => false
    let entry (o : MOperand) : Option TileMsg := match o with | .lq q => some (ent q) | .v _ => none
    let lqs := MOperandQueue a ++ MOperandQueue b
    let nb := if isLq b && decide (predCols s = shN s) then shNreq s else predCols s
    let pitch := if isLq b then shNreq s else shN s
    let x : MopIn := { a := fun k i => operandAt s a (entry a) eb (k * shM s + i), b := fun k j => operandAt s b (entry b) eb (k * pitch + j)
                       sa := scaleA s, sb := scaleB s }
    let queueOk (o : MOperand) (cols : Nat) : Prop := ∀ q, o = .lq q →
      MayTake s q (ent q) (rest q) ∧ (ent q).rows = K ∧ (ent q).cols = cols ∧ (ent q).fmt = mopCode s i8
    let clean (n : Nat) : Prop := ∀ i j, i < m → j < n → tilePois s acc.toNat i j = false
    let done (t : State) : Prop := t.pc = s.pc + 8 ∧ t.hart.csr.mstart = 0 ∧ t.hart.csr.vstart = 0
    let issued (t : State) (sub : Bool) (y : MopIn) (n : Nat) (holds : List Nat) : Prop :=
      t.hart.pend = s.hart.pend ++ [{ outer s acc.toNat (mopFmt s i8) sub y m n g 0 K with holds }]
      ∧ t.hart.acc = s.hart.acc ∧ t.hart.csr.vflags = s.hart.csr.vflags
      ∧ (∀ r, t.x r = s.x r) ∧ t.hart.v = s.hart.v ∧ ∀ q, queueOf t q = queueOf s q
    let row (k e : Nat) : Nat := seenPieces s (ps k e)
    let reg (k e : Nat) : Nat := s.elem vr.toNat eb (k * (if gb then shM s else shN s) + e)
    s.hart.live = true → s.hart.conv = none → s.hart.limit = none → acc.toNat < 8 → acc.toNat < s.hart.tiles → mopSew s i8 = true →
    0 < K →
    (mstart s = 0 → s.groupsOk (MOperandGroup eb a ++ MOperandGroup eb b) = true → (isLq a = false → K * shM s ≤ s.mvl) →
      (isLq b = false → K * shN s ≤ s.mvl) → queueOk a (shM s) → queueOk b (shNreq s) →
      operandBad s a eb (shM s) m 0 K = false → operandBad s b eb pitch nb 0 K = false → clean nb →
      (∀ f, fwd = some f → isLq b = true ∧ MaySend s f) →
      ∃ t u, exec (.mopa acc a b i8 fwd) s = .next t ∧ exec (.mops acc a b i8 fwd) s = .next u
        ∧ (fwd = none →
            done t ∧ done u ∧ issued t false x nb (lqs.eraseDups.map (·.toNat)) ∧ issued u true x nb (lqs.eraseDups.map (·.toNat)))
        ∧ (fwd ≠ none → issued t false x nb [] ∧ issued u true x nb []
            ∧ ∀ w ∈ [t, u], w.pc = s.pc ∧ mstart w = K))
    ∧ (∀ f q, fwd = some f → b = .lq q → f ≠ q → mstart s = K → s.groupsOk (MOperandGroup eb a ++ MOperandGroup eb b) = true →
      (isLq a = false → K * shM s ≤ s.mvl) → queueOk a (shM s) → queueOk b (shNreq s) → MaySend s f →
      (∀ p ∈ s.hart.pend, p.tile ≠ acc.toNat) →
      ∀ j ∈ [Instr.mopa acc a b i8 fwd, .mops acc a b i8 fwd], ∃ t, exec j s = .next t ∧ done t ∧ t.hart.pend = s.hart.pend
        ∧ (queueOf t f).credit = (queueOf s f).credit - 1
        ∧ (∀ q ∈ lqs, (queueOf t q).held = rest q)
        ∧ ((queueOf s f).pchip = s.chipId → ∃ w, .tileMessage w ∈ t.wire ∧ w.key = (queueOf s f).pkey ∧ w.data = (ent q).data
            ∧ w.rows = (ent q).rows ∧ w.cols = (ent q).cols ∧ w.fmt = (ent q).fmt))
    ∧ (mstart s = 0 → s.groupsOk [(vr.toNat, eb), (vi.toNat, 4)] = true → K * (if gb then shM s else shN s) ≤ s.mvl →
      K * 4 ≤ s.groupRegs 4 * s.hart.vlenb → (∀ k, k < K → s.elemPois vi.toNat 4 k = false) →
      operandBad s (.v vr) eb (if gb then shM s else shN s) (if gb then m else predCols s) 0 K = false → clean (predCols s) →
      s.crew.core < 160 → CacheSound s →
      (∀ k e, k < K → e < (if gb then predCols s else m) →
        Lands s .gather .read (s.x xb + nw (s.elem vi.toNat 4 k) * s.hart.csr.vrp + nw (e * eb)) eb (ps k e)) →
      ∃ t, exec (if gb then .mopag true acc vr vi xb i8 else .mopag false acc vi vr xb i8) s = .next t
        ∧ (∀ p, Kept s t p) ∧ done t
        ∧ issued t false { a := if gb then reg else row, b := if gb then row else reg, sa := scaleA s, sb := scaleB s } (predCols s) [])
    ∧ (∀ p r, s.hart.pend = p :: r → (∀ v ∈ p.vals, v.1 < 4096) → s.input = some (.mopaComplete s.cur) → s.cur / 32 = s.crew.uid →
      ∃ t, exec .mopaComplete s = .next t ∧ t.hart.pend = r ∧ t.hart.csr = { s.hart.csr with vflags := s.hart.csr.vflags ||| nw p.flags }
        ∧ (∀ k i j, i < 64 → j < 64 → tileElem t k i j = if k = p.tile then
            (p.vals.foldl (fun o v => if v.1 = i * 64 + j then v.2.toNat else o) (tileElem s k i j)) else tileElem s k i j)
        ∧ (p.holds.Nodup → ∀ q, (t.lqEnd s.crew.uid q).held
            = if q ∈ p.holds then (s.lqEnd s.crew.uid q).held.tail else (s.lqEnd s.crew.uid q).held)
        ∧ (p.holds = [] → t = { s with hart := { s.hart with
            pend := t.hart.pend, acc := t.hart.acc, trow := t.hart.trow, csr := t.hart.csr } }))
    ∧ ∀ (sub : Bool) (y : MopIn) (i j c : Nat), c < 2 ^ 32 →
      let sum : Int := ((List.range K).map fun k => sextI (y.a k i) 8 * sextI (y.b k j) 8).sum
      (kSteps (stepInt sub y i j) g K K 0 c).1 = modW (sextI c 32 + if sub then -sum else sum) 32

/-- With the core's merge network free or held: MGCFG loads the CSRs its mask names from the 32 bytes at xb; MGIN
appends the active pairs to stream k; an MGRUN whose final pass has ended, once no outer product is incomplete, writes
the number of pairs to rd and to MGOCNT, clears MGSTATE and releases the register streams it merged; MGDRAIN moves the
least of VL and the held pairs into vc and vv and sets VL; MGRST empties everything. A pass end appends the pass's last
pairs to the drain buffer and retires MGRUN; a checkpoint appends the pairs up to the next 4,096 and sets MGSTATE.MID
and MGOCNT. The tree over up to 64 rising streams delivers each coordinate of any stream once, in rising order,
unchanged where one stream alone has it. (10_merge_network R241, 10_merge_network R243, 10_merge_network R247,
10_merge_network R249, 10_merge_network R251, 15_matrix_merge_copy R396, 15_matrix_merge_copy R397, 15_matrix_merge_copy
R398, 15_matrix_merge_copy R399, 15_matrix_merge_copy R400) -/
def Obligations.MergeNetwork : Prop :=
  ∀ (s : State) (xb xl rd vc vv : Reg) (mask : BitVec 5) (k : BitVec 3) (m : VMask) (ps : List (Nat × Nat × Place)) (reuse : Bool)
    (r : MergeRun),
    let w := mgWidth s
    let n := s.nElems
    let netFree : Prop := match FMap.find s.crew.core s.mnet with
      | none => True
      | some q => q.holder = none ∨ q.holder = some s.cur
    let old := match FMap.find k.toNat s.hart.staged with | some d => d.pairs | none => []
    let acts := (List.range n).filter fun i => s.active m i
    let done (t : State) : Prop := t.pc = s.pc + 8 ∧ (∀ q, q ≠ rd → t.x q = s.x q) ∧ SameMemory s t
    let retired (t : State) (count : Nat) : Prop :=
      done t ∧ (rd ≠ 0 → t.x rd = nw count) ∧ t.hart.csr.mgocnt = nw count ∧ t.hart.csr.mgstate = 0 ∧ t.hart.merge = none
      ∧ ∀ p, p ∈ t.hart.staged ↔ p ∈ s.hart.staged ∧ ∀ e ∈ r.entries, e.kind = true → e.cbase ≠ p.1
    let drained (h : Hart) : List (Nat × Nat) := match h.drain with | some d => d.pairs | none => []
    let started : Prop := s.hart.live = true ∧ s.hart.merge = some r ∧ bit s.hart.csr.mgstate 63 = true ∧ r.reuse = reuse ∧ r.rd = rd
      ∧ r.xb = xb ∧ r.xl = xl ∧ (s.x xb).toNat % 8 = 0 ∧ (s.x xl).toNat ≤ 16777215
      ∧ ∃ q, FMap.find s.crew.core s.mnet = some q ∧ q.holder = some s.cur
    let pass : Prop := started ∧ r.phase = .running ∧ r.toDrain = true ∧ r.stop = none ∧ s.crew.place = .resident
      ∧ s.crew.faulted = false ∧ Quiet s
    (exec (.mgcfg xb 0) s = .next (s.advance 8))
    ∧ (s.crew.core < 160 → CacheRoom s → mask ≠ 0 → ReachesMem s .scalarLd .read (s.x xb) 32 ps → CleanForCore s ps →
      let part (lo len : Nat) : Word := nw (piecesValue s ps / 2 ^ lo % 2 ^ len)
      let put (i a lo len : Nat) (u : State) : State := if mask.getLsbD i then u.csrStore a (part lo len) else u
      ∃ u, u = { s with dcache := u.dcache, locked := u.locked, lockOvf := u.lockOvf } ∧ SameMemory s u ∧ exec (.mgcfg xb mask) s = .next
        ((put 4 0x203 224 32 (put 3 0x202 128 64 (put 2 0x201 192 32 (put 1 0x200 64 64 (put 0 0x204 0 64 u))))).advance 8))
    ∧ (netFree → Named s [(vc.toNat, 4), (vv.toNat, w)] m.reads → 0 < n →
      (∀ d, FMap.find k.toNat s.hart.staged = some d → d.width = w) →
      (s.hart.staged.map fun p => p.2.pairs.length).sum + acts.length ≤ 4096 →
      (∀ i ∈ acts, s.elemPois vc.toNat 4 i = false ∧ s.elemPois vv.toNat w i = false) →
      ∃ t, exec (.mgin k vc vv m) s = .next t ∧ t.pc = s.pc + 8 ∧ t.hart.csr.vstart = 0 ∧ (∀ q, t.x q = s.x q) ∧ SameMemory s t
        ∧ FMap.find k.toNat t.hart.staged
            = some { width := w, pairs := old ++ acts.map fun i => (s.elem vc.toNat 4 i, s.elem vv.toNat w i) }
        ∧ ∀ j, j ≠ k.toNat → FMap.find j t.hart.staged = FMap.find j s.hart.staged)
    ∧ (started → r.phase = .done → Quiet s → ∃ t, exec (.mgrun reuse rd xb xl) s = .next t ∧ retired t r.written)
    ∧ (∀ d, netFree → s.hart.drain = some d → d.pairs ≠ [] → (d.width = 4 ∨ d.width = 8) → s.vrc = 1 → s.vl ≤ s.mvl → s.hart.vlenb ≤ 2 ^ 15 →
      s.groupsOk [(vc.toNat, 4), (vv.toNat, d.width)] = true → s.groupsMeet (vc.toNat, 4) (vv.toNat, d.width) = false →
      let c := min s.vl d.pairs.length
      ∃ t, exec (.mgdrain vc vv) s = .next t ∧ t.pc = s.pc + 8 ∧ t.hart.csr.vl = nw c ∧ (∀ q, t.x q = s.x q) ∧ SameMemory s t
        ∧ drained t.hart = d.pairs.drop c
        ∧ ∀ i, i < c → t.elem vc.toNat 4 i = (d.pairs.getD i (0, 0)).1 % 2 ^ 32
            ∧ t.elem vv.toNat d.width i = (d.pairs.getD i (0, 0)).2 % 2 ^ (8 * d.width))
    ∧ (∃ t, exec .mgrst s = .next t ∧ t.hart.staged = [] ∧ t.hart.drain = none ∧ t.hart.merge = none ∧ t.hart.csr.mgstate = 0
        ∧ t.pc = s.pc + 8 ∧ (∀ q, t.x q = s.x q) ∧ SameMemory s t
        ∧ ∀ q, FMap.find s.crew.core t.mnet = some q → q.holder ≠ some s.cur ∨ ∃ z, FMap.find s.crew.core s.mnet = some z ∧ s.cur ∈ z.waiters)
    ∧ (pass → r.final = true → r.pairs.length < 4096 - r.written % 4096 →
      s.input = some (.mergePassEnd s.crew.core) →
      ∃ t, exec .mergePassEnd s = .next t ∧ retired t (r.written + r.pairs.length) ∧ drained t.hart = drained s.hart ++ r.pairs)
    ∧ (pass → s.input = some (.mergeCheckpoint s.crew.core) →
      let more := 4096 - r.written % 4096
      more ≤ r.pairs.length →
      ∃ t, exec .mergeCheckpoint s = .next t ∧ drained t.hart = drained s.hart ++ r.pairs.take more ∧ t.pc = s.pc
        ∧ t.hart.csr.mgocnt = nw (r.written + more) ∧ bit t.hart.csr.mgstate 62 = true ∧ (∀ q, t.x q = s.x q) ∧ SameMemory s t
        ∧ t.hart.merge.map (·.pairs) = some (r.pairs.drop more))
    ∧ ∀ (f : Fmt) (slots : List (List MPair)) (fuel : Nat), slots.length ≤ 64 → (slots.map (·.length)).sum < fuel →
      (∀ l ∈ slots, l.Pairwise fun p q => p.c < q.c) →
      let out := treeGo f fuel slots
      out.Pairwise (fun p q => p.c < q.c)
      ∧ (∀ c, (∃ p ∈ out, p.c = c) ↔ ∃ l ∈ slots, ∃ p ∈ l, p.c = c)
      ∧ ∀ (i : Nat) (l : List MPair) (p : MPair), slots[i]? = some l → p ∈ l →
          (∀ (j : Nat) (l' : List MPair) (q : MPair), j ≠ i → slots[j]? = some l' → q ∈ l' → q.c ≠ p.c) → p ∈ out

/-- XCOPY of length 0 leaves its channel idle; one to a destination of one page in the crew's shared store, apart from
its source, with room to register and no store waiting in a store queue, starts its channel with the destination
registered and no byte yet changed but by dirty lines written back (the hart's of the source, and any core's of the
destination); what the channel will see of the hart's own vector stores since its last release is fixed then, the
contents of memory where there are none. A running channel with no such view copies each byte of a local source to its
registered destination, then is idle with nothing registered; at the end of a page it registers the next page, or stops
FAULTED with the cause and the address. XWAIT passes on an idle channel and on a watermark above its address, waits
otherwise, and reports a fault once as COPY_FAULT. A draining write stream whose elements have all been written becomes
UNCONFIG with each element at its address. (15_matrix_merge_copy R401, 15_matrix_merge_copy R402, 06_core R158, 06_core
R159, 06_core R160, 08_ordering R207, 14_vector R347) -/
def Obligations.CopiesAndStreamWrites : Prop :=
  ∀ (s : State) (lu two : Bool) (r d a : Reg) (o : XOrImm) (ch : Nat) (spa dpa : Nat) (p : BitVec 3),
    let n := xiVal s o
    let k := r.toNat
    let home (va : Nat) : Nat := 0x7000000000 + (va - 0x1FFFF000000000)
    let owned (va len : Nat) : Prop := inWindow va = true ∧ inWindow (va + len) = true ∧ s.crew.ssBase ≤ va
      ∧ va + len ≤ s.crew.ssBase + s.crew.ssSize
    let start : CopyChan := { CopyChan.reset with
      cause := (chanOf s k).cause, fva := (chanOf s k).fva, src := (s.x a).toNat, dst := (s.x d).toNat, len := n
      rows := if two then s.vrc else 1, pitch := s.hart.csr.vrp.toInt, lu, sys := s.sysMode }
    let u : State := { (releaseRegs k s).onChan k fun _ => start with
      mcTags := s.mcTags.filter fun t => !(decide (t.slot = s.cur) && decide (t.by_ = .chan k)) }
    let written (t : State) : Prop := (∀ x, t.byteAt x = s.byteAt x ∨ DirtyByte s x (t.byteAt x))
      ∧ ∀ core x, core < 160 → t.coreByte core x = s.coreByte core x ∨ DirtyByte s x (t.coreByte core x)
    let inTurn : Prop := ∀ h ∈ s.harts, h.2.stq = []
    let c := chanOf s ch
    let running : Prop := s.hart.live = true ∧ s.crew.place = .resident ∧ ch < 4 ∧ c.st = 1 ∧ s.crew.core < 160 ∧ CacheSound s
    s.hart.conv = none → Quiet s →
    (k < 4 → k ≤ s.crew.xch → n < 2 ^ 40 → (chanOf s k).st ≠ 1 → InOrder s →
      (n = 0 → exec (.xcopy lu two r d a o) s = .next (u.advance 8))
      ∧ (s.crew.core < 160 → CacheSound s → inTurn → 0 < copyTotal start → copyOverlap start = false → owned start.dst (copyTotal start) →
        start.dst % 2 ^ 17 + copyTotal start ≤ 2 ^ 17 → s.isMem (home start.dst) = true →
        regRoom u (dieOfRange s (home start.dst) (copyTotal start)) = true →
        ∃ t, exec (.xcopy lu two r d a o) s = .next t ∧ t.pc = s.pc + 8 ∧ (∀ q, t.x q = s.x q)
          ∧ chanOf t k = { start with st := 1, cause := 0, regd := copyTotal start, view := (chanOf t k).view }
          ∧ (s.hart.olds = [] → (chanOf t k).view = [])
          ∧ t.cregs = u.cregs ++ [{ slot := s.cur, chan := k, die := dieOfRange s (home start.dst) (copyTotal start),
                                    lo := home start.dst, hi := home start.dst + copyTotal start }]
          ∧ written t))
    ∧ (k < 4 → k ≤ s.crew.xch →
      (((chanOf s k).st = 0 ∨ ((chanOf s k).st = 1 ∧ (s.x a).toNat < (s.xwm k).toNat)) → exec (.xwait r a) s = .next (s.advance 8))
      ∧ ((chanOf s k).st = 1 → (s.xwm k).toNat ≤ (s.x a).toNat → exec (.xwait r a) s = .next s)
      ∧ ((chanOf s k).st = 2 → (chanOf s k).reported = false → 3 ≤ (chanOf s k).cause → (chanOf s k).cause < 16 →
        ∃ t, exec (.xwait r a) s = .next t ∧ (chanOf t k).reported = true
          ∧ TrapEffect (s.onChan k fun c => { c with reported := true }) t .copyFault (chanOf s k).cause (nw (chanOf s k).fva) s.pc false))
    ∧ (running → s.input = some (.copyComplete s.cur ch) →
      c.view = [] → c.gran = none → c.rows = 1 → c.unit = 0 → c.ask = none → c.ans = none → c.done = 0 → c.regd = c.len → 0 < c.len →
      owned c.src c.len → owned c.dst c.len → spa = home c.src → dpa = home c.dst →
      (∀ i, i < c.len → s.isMem (spa + i) = true) →
      s.cregs = [{ slot := s.cur, chan := ch, die := dieOfRange s dpa c.len, lo := dpa, hi := dpa + c.len }] → s.poisonedAny spa c.len = false →
      (∀ i j, i < c.len → j < c.len → (spa + i) / 64 ≠ (dpa + j) / 64) →
      ∃ t, exec .copyComplete s = .next t ∧ chanOf t ch = { c with st := 0, done := c.len, ans := none, gran := (chanOf t ch).gran } ∧ t.cregs = []
        ∧ (∀ i, i < c.len → t.byteAt (dpa + i) = s.byteAt (spa + i))
        ∧ (∀ x, ¬(dpa ≤ x ∧ x < dpa + c.len) → t.byteAt x = s.byteAt x ∨ t.byteAt x = seen s x)
        ∧ t.pc = s.pc ∧ ∀ q, t.x q = s.x q)
    ∧ (running → c.done = c.regd → c.done < copyTotal c →
      (∀ pa, s.input = some (.copyPageRegister s.cur ch) → copyReach s c .write (copyDst c c.done) 1 = .ok (.mem pa) →
        regRoom s (dieOfRange s pa (pageRoom s c c.done)) = true → inTurn →
        ∃ t, exec .copyPageRegister s = .next t ∧ chanOf t ch = { c with regd := c.done + pageRoom s c c.done } ∧ written t
          ∧ t.cregs = (releaseRegs ch s).cregs ++ [{ slot := s.cur, chan := ch, die := dieOfRange s pa (pageRoom s c c.done),
                                                     lo := pa, hi := pa + pageRoom s c c.done }])
      ∧ (∀ e, s.input = some (.copyChannelFault s.cur ch) → copyReach s c .write (copyDst c c.done) 1 = .error e →
        ∃ t, exec .copyChannelFault s = .next t ∧ (chanOf t ch).st = 2 ∧ (chanOf t ch).cause = e
          ∧ (chanOf t ch).fva = copyDst c c.done % 2 ^ 53 ∧ (chanOf t ch).done = c.done ∧ t.cregs = s.cregs ∧ SameMemory s t))
    ∧ (let q := s.stream p
       s.hart.live = true → s.crew.place = .resident → s.crew.core < 160 → CacheSound s → q.st = .draining →
       s.hart.streamOut p = false →
       (∀ e ∈ q.pend, s.place e.pa = .mem e.pa ∧ unfilled s e.pa e.n = []) → s.input = some (.streamRetire s.cur p) →
       ∃ t, exec .streamRetire s = .next t ∧ (t.stream p).st = .unconfig ∧ (t.stream p).pend = [] ∧ t.pc = s.pc
         ∧ (∀ r, t.x r = s.x r) ∧ OthersKept s t
         ∧ ∀ x, match storedBy (q.pend.map fun e => (e.v, [(0, e.n, Place.mem e.pa)])) x with
           | some b => t.byteAt x = b
           | none => Kept s t x)

/-- For a header with two slots of codes 3 and 4 and members that decode to an unmasked VADD and an unmasked VMUL that
reads the VADD's result, on clean groups where the second destination meets no other group: the convoy completes in
one step with both destinations as R306 gives them, the second computed from the first, VSTART 0, INSTRET counting
both and the program counter past the header and both members; nothing else changes. A header that R287 does not allow
raises ILLEGAL_CONVOY with the header in TVAL. (06_core R144, 06_core R145, 06_core R146, 06_core R147, 12_encoding
R287, 12_encoding R297, 09_traps R223) -/
def Obligations.ConvoyRunsItsMembersInOrder : Prop :=
  ∀ (s : State) (h : Parcel) (w1 w2 : BitVec 64) (ws : List (BitVec 64)) (d a b e c : Reg),
    let eb := s.ebytes
    let x (i : Nat) : Nat := elementwise s .unmasked d.toNat eb (fun i => s.elem a.toNat eb i + s.elem b.toNat eb i) i
    let y (i : Nat) : Nat := elementwise s .unmasked e.toNat eb (fun i => x i * s.elem c.toNat eb i) i
    (headerOk h ws = false →
      (Quiet s → ∃ t, exec (.convoy h ws) s = .next t ∧ TrapEffect s.dropConvoy t .illegalConvoy 0 (h.setWidth 64) s.pc false)
      ∧ (¬Quiet s → exec (.convoy h ws) s = .next s))
    ∧ (headerOk h [w1, w2] = true → slotUnit h 0 = 3 → slotUnit h 1 = 4 → fld w1 2 6 = 3 → fld w2 2 6 = 3 →
      decode64 w1 = .ok (.vadd d a (.v b) .unmasked) → decode64 w2 = .ok (.vmul e d (.v c) .unmasked) →
      VecReady s [(a.toNat, eb), (b.toNat, eb), (c.toNat, eb), (d.toNat, eb), (e.toNat, eb)] [] →
      Clean s .unmasked a eb → Clean s .unmasked b eb → Clean s .unmasked c eb →
      (∀ g ∈ [a, b, c, d], s.groupsMeet (e.toNat, eb) (g.toNat, eb) = false) → s.groupsMeet (d.toNat, eb) (c.toNat, eb) = false →
      ∃ t, exec (.convoy h [w1, w2]) s = .next t
        ∧ (∀ i, i < s.mvl → t.elem d.toNat eb i = x i ∧ t.elem e.toNat eb i = y i)
        ∧ (∀ k, (∀ g ∈ [d, e], k < g.toNat * s.hart.vlenb ∨ g.toNat * s.hart.vlenb + s.mvl * eb ≤ k) →
            FMap.getD 0 k t.hart.v = FMap.getD 0 k s.hart.v)
        ∧ t.pc = s.pc + 20 ∧ (∀ r, t.x r = s.x r) ∧ SameMemory s t
        ∧ t.hart.csr = { s.hart.csr with vstart := 0, instret := s.hart.csr.instret + 2 })

/-- Each event, where its condition holds: VAUX_UP begins step 1 with memory lost (that lost memory reads zero is the
model's choice of log 3, here and at a trip and POWER_OFF); within a step's limit POWER_ON_STEP enables the step's next
rails once the last are good, and else starts the next step (step 3 where a firmware image verifies, step 5 with every
stack's temperature valid, step 7 with at most one stack lost), and step 8 sets READY and enables the scheduler; a
failed image, two lost stacks, a limit that has passed, or step 8 later than 900 ms, stops power-on with its step and
cause in MCSTAT and no rail left but VAUX (from where each limit counts is the model's choice of log 67); PERST_N, link
training and its timeout act on the host link; configuration requests get Retry Status until step 8 completes, then the
function's identity; a trip drops every rail but VAUX with CAUSE 4; POWER_OFF loses memory and removes the rails in
order, each once the last has fallen, VAUX and the registers last; a mailbox command sets BUSY and its end clears it,
RAISESVN raising the minimum; attestation answers (what CHALLENGE_AUTH signs is the model's choice of log 7), a
CHALLENGE waiting while a measurement is extended; a fatal error ends every crew and begins the dump, whose end counts
it, sets VALID and sends vector 0. (01_package R11, 01_package R16, 01_package R17, 01_package R18, 01_package R19,
01_package R20, 01_package R21, 03_host_launch R53, 03_host_launch R76, 03_host_launch R77, 03_host_launch R80, 09_traps
R237) -/
def Obligations.PackageAndMailboxEvents : Prop :=
  ∀ (s : State) (pg lost : BitVec 8) (side ok cut : Bool) (fn b k r : Nat) (z : BitVec 4) (a : BitVec 7) (arg : BitVec 8) (len : BitVec 13)
    (v : BitVec 32) (nonce : List Byte) (cause src : BitVec 16) (c : MbCmd),
    let steps (P : State → Prop) : Prop := Happens s (.powerOnStep pg lost) .powerOnStep P
    let starts (n : Nat) : Prop := steps fun t => t.pkg.step = n ∧ t.mcstat 48 4 = n
    let rails (n : Nat) : List Nat := if n = 3 then [0x08, 0x06] else if n = 4 then [0x20, 0x10] else if n = 5 then [0x40, 0x80] else []
    let next := (rails s.pkg.step).find? fun r => decide (s.pkg.vrEn &&& r ≠ r)
    let stops (cause : Nat) : Prop := Happens s (.powerOnStop lost) .powerOnStop fun t => t.pkg.stopped = true ∧ t.pkg.vaux = true
      ∧ t.mcstat 62 1 = 1 ∧ t.mcstat 48 4 = s.pkg.step ∧ t.mcstat 40 8 = cause ∧ t.crews = [] ∧ t.harts = [] ∧ t.pkg.up = false
      ∧ (s.pkg.vrEn < 256 → s.pkg.vrEn.testBit 0 = true → t.pkg.vrEn = 1)
    let late (t : State) : Prop := t.pkg.stopped = true ∧ t.pkg.vaux = true ∧ t.mcstat 62 1 = 1 ∧ t.mcstat 48 4 = 8 ∧ t.mcstat 40 8 = 1
      ∧ t.crews = [] ∧ t.harts = [] ∧ t.pkg.up = false ∧ (s.pkg.vrEn < 256 → s.pkg.vrEn.testBit 0 = true → t.pkg.vrEn = 1)
    let tripped (t : State) : Prop := t.pkg.trip = true ∧ t.pkg.stopped = true ∧ t.pkg.up = false ∧ t.pkg.vrEn = 1 ∧ t.crews = []
      ∧ t.harts = [] ∧ t.mem = [] ∧ t.mcstat 63 1 = 0 ∧ t.mcstat 40 8 = 4
    let mailbox (i : Input) (j : Instr) (op arg len value : Nat) : Prop :=
      s.pkg.mb = none → (if side then s.pkg.vaux else s.hostUp) = true →
      Happens s i j fun t => t.pkg.mb = some { side, op, arg, len, value } ∧ bit (t.reg rMBSTAT) 63 = true ∧ Aside s t
    let replies (i : Input) (j : Instr) (r : SpdmRsp) : Prop :=
      s.hostUp = true → Happens s i j fun t => t.out = s.out ++ [.spdm r] ∧ Aside s t
    let chain := Config.certBase ++ Config.certify Config.identityKey s.pkg.aliasKey
    let blocks := (List.range 8).map fun k => (k + 1, s.meas k)
    let identity (gib : Nat) : ConfigAnswer := .space 0x1F3D (if fn = 0 then 0x0940 else 0x0941) Config.stepping.toNat
      ([.msix, .resizableBar gib, .aer, .flr] ++ (if fn = 0 then [.sriov, .doe] else []))
    (s.pkg.vaux = false → Happens s .vauxUp .vauxUp fun t => t.pkg.vaux = true ∧ t.pkg.step = 1 ∧ t.mcstat 48 4 = 1 ∧ t.time = 0
        ∧ t.mem = [] ∧ t.bpl = s.bpl)
    ∧ (s.pkg.vaux = true → s.pkg.stopped = false → s.pkg.off = false → s.pkg.up = false → s.pkg.step < 16 →
        (s.overLimit = false →
          (s.pkg.step = 1 → starts 2)
          ∧ (s.pkg.step = 2 → steps fun t =>
              if s.bootImage = none then t.pkg = s.pkg else t.pkg.step = 3 ∧ t.mcstat 48 4 = 3 ∧ t.pkg.vrEn = s.pkg.vrEn ||| 0x08)
          ∧ (3 ≤ s.pkg.step → s.pkg.step ≤ 5 → pg.toNat &&& s.pkg.vrEn = s.pkg.vrEn →
              (next = some r → steps fun t => t.pkg.step = s.pkg.step ∧ t.pkg.vrEn = s.pkg.vrEn ||| r)
              ∧ (next = none → (s.pkg.step = 4 → s.stacksValid = true) → starts (s.pkg.step + 1)))
          ∧ (s.pkg.step = 6 → ((List.range 8).filter fun i => lost.getLsbD i).length ≤ 1 →
              steps fun t => t.pkg.step = 7 ∧ t.mcstat 48 4 = 7 ∧ t.mcstat 32 8 = lost.toNat ∧ bit (t.reg rMEMSTAT) 55 = decide (lost ≠ 0))
          ∧ (s.pkg.step = 7 → s.pkg.linkUp = true → s.overTotal = false →
              steps fun t => t.pkg.up = true ∧ t.mcstat 48 4 = 8 ∧ t.mcstat 63 1 = 1 ∧ bit (t.reg rSCHCFG) 63 = true))
        ∧ (s.pkg.step = 7 → s.overTotal = true → steps late ∧ Happens s (.powerOnStop lost) .powerOnStop late
            ∧ (s.pkg.step7 = some b → s.pkg.linkUp = false → b + 100000 ≤ s.time →
                Happens s .linkTrainingTimeout .linkTrainingTimeout late))
        ∧ (s.pkg.step = 2 → s.bootImage = none → stops 2)
        ∧ (s.pkg.step = 6 → 2 ≤ ((List.range 8).filter fun i => lost.getLsbD i).length → stops 3)
        ∧ (s.overLimit = true → s.pkg.step ≠ 6 → (s.pkg.step = 2 → s.bootImage ≠ none) → stops 1))
    ∧ Happens s .perstNDeassert .perstNDeassert (fun t => t.pkg.perst = false
        ∧ (s.pkg.perst = true → t.pkg.perstAt = s.time)
        ∧ (7 ≤ s.pkg.step → s.pkg.stopped = false → s.pkg.off = false → s.pkg.step7 = none → t.pkg.step7 = some s.time))
    ∧ Happens s .perstNAssert .perstNAssert (fun t => t.pkg.perst = true ∧ t.pkg.linkUp = false ∧ t.pkg.step7 = none)
    ∧ (s.pkg.step7 = some b → s.pkg.perst = false → s.pkg.stopped = false → s.pkg.off = false →
        Happens s .hostLinkTrained .hostLinkTrained fun t => t.pkg.linkUp = true ∧ t.mcstat 58 1 = 0 ∧ Aside s t)
    ∧ (s.pkg.step7 = some b → s.pkg.linkUp = false → s.pkg.stopped = false → s.pkg.off = false → b + 100000 ≤ s.time →
        (s.pkg.up = true ∨ s.overTotal = false) →
        Happens s .linkTrainingTimeout .linkTrainingTimeout fun t => t.pkg.up = true ∧ t.mcstat 58 1 = 1 ∧ Aside s t)
    ∧ (s.pkg.linkUp = true → fn < 16 →
        (s.pkg.up = false → Happens s (.configurationRequest fn none) .configurationRequest fun t =>
          t.out = s.out ++ [.config fn .retry] ∧ Aside s t)
        ∧ (s.pkg.up = true →
          Happens s (.configurationRequest fn none) .configurationRequest (fun t =>
            t.out = s.out ++ [.config fn (identity (2 ^ FMap.getD 0 fn s.bar4Size))] ∧ Aside s t)
          ∧ (z.toNat ≤ 9 → Happens s (.configurationRequest fn (some z)) .configurationRequest fun t =>
            t.out = s.out ++ [.config fn (identity (2 ^ z.toNat))] ∧ FMap.getD 0 fn t.bar4Size = z.toNat ∧ Aside s t)))
    ∧ (s.pkg.vaux = true → Happens s .thermalTrip .thermalTrip tripped ∧ (k < 8 → Happens s (.stackTripComparator k) .stackTripComparator tripped)
        ∧ Happens s .vrAlert .vrAlert (fun t => t.mcstat 57 1 = 1 ∧ t.out = s.out ++ [0, 1, 2, 3].map (fun q => .avs q .status) ∧ Aside s t)
        ∧ Happens s (.dynamicAddressAssign a) .dynamicAddressAssign (fun t => t.pkg.i3c = some a ∧ Aside s t)
        ∧ (s.pkg.off = false → Happens s (.powerOff pg) .powerOff fun t => t.mem = [] ∧ t.crews = [] ∧ t.harts = [] ∧ t.pkg.up = false)
        ∧ (pg.toNat ||| s.pkg.vrEn ≠ s.pkg.vrEn → Happens s (.powerOff pg) .powerOff fun t => t.pkg.vrEn = s.pkg.vrEn)
        ∧ (pg.toNat ||| s.pkg.vrEn = s.pkg.vrEn →
            (∀ i, [7, 6, 4, 5, 2, 1, 3].find? (fun i => s.pkg.vrEn.testBit i) = some i →
              Happens s (.powerOff pg) .powerOff fun t => t.pkg.vrEn = s.pkg.vrEn - 2 ^ i ∧ t.pkg.vaux = true)
            ∧ (s.pkg.vrEn = 1 → Happens s (.powerOff pg) .powerOff fun t => t.pkg.vaux = false ∧ t.mem = [] ∧ t.regs = [])))
    ∧ mailbox (.extend side arg len) .extend 1 arg.toNat len.toNat 0
    ∧ mailbox (.raisesvn side v) .raisesvn 2 0 0 v.toNat
    ∧ mailbox (.writeclass side) .writeclass 3 0 0 0
    ∧ mailbox (.readclass side) .readclass 4 0 0 0
    ∧ (s.pkg.mb = some c → Happens s (.mailboxCommandEnd ok) .mailboxCommandEnd fun t => t.pkg.mb = none ∧ t.pkg.held = []
        ∧ bit (t.reg rMBSTAT) 63 = false
        ∧ (c.op = 2 → c.side = false → c.arg = 0 → c.len = 0 → c.value ≤ 64 → c.value ≤ s.mcstat 0 32 →
            t.pkg.svnMin = max s.pkg.svnMin c.value ∧ fld (t.reg rMBSTAT) 48 8 = 0)
        ∧ (c.op = 2 → c.side = true → t.pkg.svnMin = s.pkg.svnMin ∧ fld (t.reg rMBSTAT) 48 8 = 6
            ∧ (s.pkg.svnMin < 2 ^ 32 → fld (t.reg rMBSTAT) 0 32 = s.pkg.svnMin)))
    ∧ replies .getVersion .getVersion .version
    ∧ replies .getCapabilities .getCapabilities .capabilities
    ∧ replies .negotiateAlgorithms .negotiateAlgorithms (.algorithms .ecdsaP521 .sha512)
    ∧ replies .getDigests .getDigests (.digests (Config.sha512 chain))
    ∧ replies .getCertificate .getCertificate (.certificate chain)
    ∧ replies .getMeasurements .getMeasurements (.measurements blocks)
    ∧ replies .spdmUnsupportedRequest .spdmUnsupportedRequest .unsupportedRequest
    ∧ (s.pkg.mb = none → replies (.challenge nonce) .challenge (.challengeAuth (Config.sha512 chain) nonce
        (Config.p521Sign s.pkg.aliasKey (nonce ++ (List.range 8).flatMap fun k => digestOctets (s.meas k)))))
    ∧ (s.pkg.mb = some c → s.hostUp = true → c.op = 1 →
        Happens s (.challenge nonce) .challenge fun t => t.pkg.held = s.pkg.held ++ [nonce] ∧ t.out = s.out ∧ Aside s t)
    ∧ (s.pkg.up = true → bit (s.reg rDUMPSTAT) 62 = false → s.pkg.fatal = false →
        Happens s (.fatalError cause src) .fatalError fun t => t.crews = [] ∧ t.harts = [] ∧ t.hart.live = false ∧ t.pkg.fatal = true
          ∧ t.pkg.dumpSeq = s.pkg.dumpSeq ∧ bit (t.reg rDUMPSTAT) 62 = true ∧ fld (t.reg rDUMPSTAT) 32 16 = cause.toNat
          ∧ fld (t.reg rDUMPSTAT) 0 32 = (s.pkg.dumpSeq + 1) % 2 ^ 32)
    ∧ (bit (s.reg rDUMPSTAT) 62 = true → FMap.getD false 0 s.msixMask = false →
        Happens s (.dumpComplete cut) .dumpComplete fun t => bit (t.reg rDUMPSTAT) 63 = true
        ∧ bit (t.reg rDUMPSTAT) 62 = false ∧ bit (t.reg rDUMPSTAT) 61 = cut ∧ t.pkg.dumpSeq = s.pkg.dumpSeq + 1 ∧ t.out = s.out ++ [.msix 0 0] ∧ t.mcstat 56 1 = 1)

/-- While the host reaches the device: a packet written in part is rejected with cause 1, and a valid one enters its
queue with the next launch ID, the only launch of the device entering READY when its wait is satisfied and it can be
placed, else WAIT; BAR4 in physical mode reads and writes local memory, or waits for a copy that has still to fill it;
counters take what their owner writes and adds; function-level resets end what belongs to the function; an answer
reaches the access that asked; RESUME, ABORT and PREEMPT act on the launch they name and stay busy until they end; the
fault queues and the drop log give up their oldest entry; invalidations are accepted and remove every translation they
cover; the bad-page list, ports and cache ways act as written, and a register write changes the bits its access codes
allow. That a function-level reset of the physical function keeps the bytes of memory and the poisoned lines (logs 14
and 29), and the reset value of MBDATA (log 5), are the model's choice. (03_host_launch R59, 03_host_launch R60,
03_host_launch R61, 03_host_launch R64, 03_host_launch R65, 04_scheduler R101, 05_power_thermal R129, 07_memory R182,
07_memory R184, 07_memory R189, 07_memory R190, 02_torus_links R51) -/
def Obligations.HostEvents : Prop :=
  ∀ (s : State) (fn p n off k tenant asid key tag dat : Nat) (ws : List Word) (bs : List Byte) (v : BitVec 32) (w : Word) (ok dn : Bool)
    (l : Launch) (r : FqRec) (rs : List FqRec) (g : FaqRec) (gs : List FaqRec) (f : BitVec 22) (e : BitVec 32) (ways : BitVec 16)
    (d : Word) (ds : List Word) (i : Inval) (is : List Inval) (rsp : RemoteRsp),
    let cfg := s.reg (lpKey p 0x110)
    let taken : State := (s.setRegFld (lpKey p 0x100) 0 32 s.nextId).setRegFld (lpKey p 0x108) 32 32
      (min (2 ^ 32 - 1) (fld (s.reg (lpKey p 0x108)) 32 32 + 1))
    let fresh : Launch := { seq := s.nextSeq, id := s.nextId, fn, asid := fld cfg 0 12, queue := p, words := ws, st := .queued, waited := false,
                            started := [], ended := [], homes := [], dieZero := none, energy := 0, noCap := false, hung := false,
                            held := false, cls := pkClass ws, waitedAt := 0, starving := false, claim := []
                            after := if p < 64 then s.nextHeld else 0, doneTag := none }
    let ready := s.reaches (pkWaitCtr ws) (pkWaitVal ws)
    let bar4 (m : Nat) : Prop := bit (s.reg (fnKey fn rW4CFG)) 63 = true ∧ 0 < m ∧ m ≤ 4096 ∧ off + m ≤ s.bar4Gib fn * 2 ^ 30 ∧ off < 2 ^ 39
      ∧ off % 2 ^ 17 + m ≤ 2 ^ 17 ∧ s.isMem off = true ∧ s.isMem (off + m - 1) = true
    let free (m : Nat) : Prop := unfilled s off m = [] ∧ ∀ h ∈ s.held, ∀ g o q, h.2 ≠ .event (.bar4Write g o q)
    let waits (i : Input) (t : State) : Prop := t.held = FMap.insert s.nextHeld (.event i) s.held ∧ t.nextHeld = s.nextHeld + 1
      ∧ t.out = s.out ∧ Aside s t
    let awaited (tag : Nat) : Prop := s.hart.live = true ∧ s.harts = [] ∧ s.hart.asked = [{ tag, key }] ∧ ∀ c ∈ s.hart.cp.toList, c.ask ≠ some tag
    let answered (a : Answer) (t : State) : Prop := t.hart.asked = [] ∧ FMap.find key t.hart.answers = some a ∧ t.pc = s.pc ∧ t.mem = s.mem
    let commands : Prop := s.hostUp = true ∧ s.launches = [(l.seq, l)] ∧ (∀ c ∈ s.allCrews, c.launch ≠ l.seq) ∧ l.fn = fn ∧ l.st ≠ .done
      ∧ l.id < 2 ^ 32 ∧ bit (s.reg (fnKey fn rSCHRES)) 63 = false
    let acts (op : Nat) (done : Bool) (l' : Launch) (t : State) : Prop := t.launches = [(l.seq, l')]
      ∧ t.cmds = s.cmds ++ [{ fn, op, seq := l.seq, done }] ∧ bit (t.reg (fnKey fn rSCHRES)) 63 = true
    let tens : Word := 0xE000FFFF000000FF
    let entry : BitVec 32 := f.setWidth 32 ||| (if bit (s.reg rMEMSTAT) 55 then 0x400000 else 0)
    (s.hostUp = true →
      (p < 64 →
        (Happens s (.launchPacket fn p false ws) .launchPacket fun t => bit (t.reg (lpKey p 0x100)) 63 = true
          ∧ fld (t.reg (lpKey p 0x100)) 48 8 = 1 ∧ t.launches = s.launches ∧ Aside s t)
        ∧ (ws.length = 8 → s.validate fn p ws (decide (s.portOwner p = fn) && bit cfg 31 && s.tenEn fn) = 0 →
            s.launches = [] → taken.unplaceable { fresh with st := .queued, waited := ready } = false →
            Happens s (.launchPacket fn p true ws) .launchPacket fun t =>
              t.launches = [(s.nextSeq, { fresh with st := if ready then .ready else .wait, waited := ready })]
              ∧ t.nextId = (s.nextId + 1) % 2 ^ 32 ∧ fld (t.reg (lpKey p 0x100)) 0 32 = s.nextId % 2 ^ 32 ∧ Aside s t))
      ∧ (bar4 n →
          (free n → s.poisonedAny off n = false →
            Happens s (.bar4Read fn off n) .bar4Read fun t => t.out = s.out ++ [.hostData fn off (s.bytesAt off n)] ∧ Aside s t)
          ∧ (unfilled s off n ≠ [] → Happens s (.bar4Read fn off n) .bar4Read (waits (.bar4Read fn off n))))
      ∧ (bar4 bs.length →
          (free bs.length → Happens s (.bar4Write fn off bs) .bar4Write fun t => Wrote s t off bs ∧ t.out = s.out ∧ t.hart = s.hart)
          ∧ (unfilled s off bs.length ≠ [] → Happens s (.bar4Write fn off bs) .bar4Write (waits (.bar4Write fn off bs))))
      ∧ (n < 1024 → s.ctrOwner n = fn → s.launches = [] →
          (Happens s (.counterWrite fn n v) .counterWrite fun t => t.ctr n = v ∧ (∀ m, m ≠ n → t.ctr m = s.ctr m) ∧ Aside s t)
          ∧ (Happens s (.counterAdd fn n v) .counterAdd fun t => t.ctr n = s.ctr n + v ∧ (∀ m, m ≠ n → t.ctr m = s.ctr m) ∧ Aside s t))
      ∧ (0 < fn → fn < 16 → (∀ q ∈ s.launches, q.2.fn = fn) →
          Happens s (.functionLevelResetVf fn) .functionLevelResetVf fun t => t.launches = [] ∧ FMap.find fn t.fq = none
            ∧ ∀ x ∈ t.recs, x.tenant ≠ fn)
      ∧ (Happens s .functionLevelResetPf .functionLevelResetPf fun t => t.mem = s.mem ∧ t.pois = s.pois ∧ t.crews = [] ∧ t.harts = []
          ∧ t.launches = [] ∧ t.pkg.mb = none ∧ t.pkg.fatal = false ∧ bit (t.reg rSCHCFG) 63 = true ∧ t.mcstat 56 1 = 0
          ∧ t.lockOvf = false ∧ t.reg rMEMSTAT = s.reg rMEMSTAT ∧ t.pkg.held = [] ∧ t.msixMask = [] ∧ t.bar4Size = []
          ∧ ∀ k, k < 512 → t.reg (rMBDATA + 8 * k) = regReset (rMBDATA + 8 * k))
      ∧ (commands →
          ((l.hung = true ∨ l.held = true) → Happens s (.resume fn l.id) .resume (acts 1 false { l with held := false, hung := false }))
          ∧ Happens s (.abort fn l.id dn) .abort (acts 2 dn { l with st := .done, held := true })
          ∧ Happens s (.preempt fn l.id) .preempt (acts 3 false { l with held := true }))
      ∧ (s.hart.live = true → s.crews = [] → s.crew.faulted = true → s.crew.place ≠ .ended → s.crew.tenant = fn →
          s.cur = slotOf s.crew.uid s.hart.idx → s.hart.idx < s.crew.hg →
          Happens s (.fqresume fn (s.crew.crewId % 2 ^ 32) (s.launchId s.crew.launch)) .fqresume fun t => t.crew.faulted = false ∧ t.hart.stopped = false
            ∧ fld (t.reg (fnKey fn rFQSTAT)) 40 8 = 0 ∧ t.pc = s.pc ∧ t.mem = s.mem)
      ∧ (FMap.find fn s.fq = some (r :: rs) → s.fqWait = [] →
          Happens s (.fqdata0Read fn) .fqdata0Read fun t => t.out = s.out ++ [.hostData fn (rFQDATA 0) (bytesLE 8 r.w0.toNat)]
            ∧ FMap.getD [] fn t.fq = rs ∧ t.reg (fnKey fn (rFQDATA 1)) = r.w1 ∧ t.reg (fnKey fn (rFQDATA 2)) = r.w2
            ∧ t.reg (fnKey fn (rFQDATA 3)) = r.w3 ∧ Aside s t)
      ∧ (s.drops = d :: ds → Happens s .ixdropRead .ixdropRead fun t =>
          t.out = s.out ++ [.hostData 0 rIXDROP (bytesLE 8 (d ||| BitVec.ofNat 64 (s.dropLost % 256)).toNat)] ∧ t.drops = ds ∧ t.dropLost = 0 ∧ Aside s t)
      ∧ (k < 8 → FMap.find k s.faq = some (g :: gs) → Happens s (.faultAddressQueueRead k) .faultAddressQueueRead fun t =>
          FMap.getD [] k t.faq = gs ∧ FMap.find k t.faqLost = none ∧ t.reg (rFAQ k + 8) = BitVec.ofNat 64 (g.pch * 2 ^ 56 + g.time % 2 ^ 48) ∧ Aside s t)
      ∧ (Happens s (.enlq fn w) .enlq fun t => t.reg (fnKey fn rENLQ) = w ∧ Aside s t)
      ∧ (s.invals.any (·.host) = false →
          let asks (op a : Nat) (t : State) : Prop := Aside s t
            ∧ t.invals = s.invals ++ [{ host := true, slot := 0, op, tenant, asid := a, page := fld (s.reg rTLBINVVA) 17 36 }]
          Happens s (.tlbinvTenant tenant) .tlbinvTenant (asks 1 0) ∧ Happens s (.tlbinvAsid tenant asid) .tlbinvAsid (asks 2 asid)
          ∧ Happens s (.tlbinvPage tenant asid) .tlbinvPage (asks 3 asid))
      ∧ (s.bplBusy = none → s.bpl.length < 8192 → s.bpl.contains entry = false → f.toNat * 2 ^ 17 < s.dramBytes →
          Happens s (.bpladd f) .bpladd fun t => t.bpl = s.bpl ++ [entry] ∧ t.bplBusy = some entry ∧ Aside s t)
      ∧ (n < 6 →
          (Happens s (.admindown n true) .admindown fun t => t.portState n = 0 ∧ bit (t.reg (rIXPSTAT n)) 2 = true ∧ Aside s t)
          ∧ (bit (s.reg (rIXPSTAT n)) 2 = true →
              Happens s (.admindown n false) .admindown fun t => t.portState n = 1 ∧ bit (t.reg (rIXPSTAT n)) 2 = false ∧ Aside s t)
          ∧ Happens s (.clrcnt n) .clrcnt (fun t => t.reg (rIXPCNT n) = 0 ∧ Aside s t))
      ∧ (k < 8 → (∀ x ∈ s.locked, s.stackOf (x * 64) ≠ k) → s.capLevel < 9 → ways ≠ 0xFFFF →
          Happens s (.wayreq k ways) .wayreq fun t => fld (t.reg (rSTKCTL k)) 32 16 = ways.toNat ∧ fld (t.reg (rSTKCTL k)) 16 16 = ways.toNat)
      ∧ (tenant < 16 → Happens s (.registerWrite 0 (rTENCFG tenant) w) .registerWrite fun t =>
          t.reg (rTENCFG tenant) = (s.reg (rTENCFG tenant) &&& ~~~tens) ||| (w &&& tens) ∧ Aside s t))
    ∧ (16 ≤ fn → s.pkg.vaux = true → n < 512 →
        Happens s (.registerWrite fn (0x1000 + n) w) .registerWrite fun t => t.reg (rMBDATA + 8 * n) = w ∧ Aside s t)
    ∧ (awaited rsp.tag → rsp.hops ≤ 64 → Happens s (.remoteResponse rsp) .remoteResponse
        (answered (if rsp.poisoned then .poisoned else if rsp.ok then .value rsp.dat else .refused)))
    ∧ (awaited tag → Happens s (.hostApertureResponse tag ok dat) .hostApertureResponse (answered (if ok then .value dat else .refused)))
    ∧ (s.cmds = [{ fn, op := 3, seq := n, done := dn }] → (∀ c ∈ s.allCrews, c.launch ≠ n) →
        Happens s (.schedulerCommandEnd fn) .schedulerCommandEnd fun t => t.cmds = [] ∧ bit (t.reg (fnKey fn rSCHRES)) 63 = false ∧ Aside s t)
    ∧ (s.invals = i :: is → s.invWaits i = false → Happens s .invalidationComplete .invalidationComplete fun t => t.invals = is
        ∧ ∀ x, x ∈ t.tlb ↔ x ∈ s.tlb ∧ invHits i x = false)
    ∧ (s.bplBusy = some e → Happens s (.bplFlashWriteDone ok) .bplFlashWriteDone fun t => t.bplBusy = none ∧ t.bpl = s.bpl
        ∧ fld (t.reg rBPLSTAT) 60 3 = (if ok then 0 else 4) ∧ Aside s t)

/-- A port that trains is UP at its width; a flit whose CRC-32C fails is answered with a flit of header bit NAK and
delivers nothing, and one in order is acknowledged and delivers the message it completes, the acknowledged flits leaving
the replay buffer and the rest sent again on NAK; a flit of no message only acknowledges; a port retrains after more
than 16 replays or 64 uncorrectable codewords in 1 ms or a lost block lock, and goes DOWN with vector 1 when that takes
over 100 ms or is the third start within 1 s, however it ends; a message for another chip leaves as flits by the port of
its route with one hop more, and one of a link queue with over 64 hops is only logged; remote reads, writes, atomics and
scattered pairs are performed at their home and answered, or wait for a copy that has still to fill it; a multicast
message lands in its group's zone. Messages of link queues change the endpoint they match: BIND and BINDACK bind it with
the credits FREE states, UNBIND makes it PENDING and sends BIND, NACK changes nothing, credits return, AWAY, AWAYACK and
BACK record the peer, and a well-formed tile message joins the entries of the queue it is for. That a tile message finds
its slot whatever the endpoint's state, PENDING and DOWN included, is the model's choice of log 64, and the check of its
sender and key that of log 11. (02_torus_links R25, 02_torus_links R26, 02_torus_links R28, 02_torus_links R31,
02_torus_links R37, 02_torus_links R42, 02_torus_links R46, 02_torus_links R47, 02_torus_links R49) -/
def Obligations.LinkEvents : Prop :=
  ∀ (s : State) (n : Fin 6) (width : BitVec 2) (f : Flit) (why : RetrainCause) (a line q inp : Nat)
    (m : Transit) (r : RemoteReq) (pr : PairMsg) (op : AtomOp) (g : McastMsg) (l : LqMsg) (tm : TileMsg),
    let p := s.port n
    let h := f.wire.hdr
    let crcOk : Prop := f.wire.crc = flitCrc h f.wire.payload
    let rest := (afterAck h.ackseq p.replay).getD p.replay
    let ahead := (h.seq + 4096 - p.ackSeq % 4096) % 4096
    let again : List Output := if h.nak = true ∧ rest ≠ [] then [.flits n (rest.map (·.wire))] else []
    let whole : List Input := match h.last, f.msg with
      | true, some x => arrivals h n x
      | _, _ => []
    let lately (t : Nat) : Bool := decide (s.time ≤ t + 1000)
    let grp := s.reg (rGROUP g.group)
    let lo := fld grp 24 15 * 2 ^ 24 + g.off
    let e := s.lqEnd s.crew.uid q
    let bound : LqEnd := { e with st := .bound, credit := if e.dir then l.free else 0, kept := none }
    let late : Prop := 3 ≤ p.retrains.length ∨ p.retrainAt = some a ∧ a + 100000 < s.time
    let fails (t : State) : Prop := t.portState n = 4 ∧ bit (t.reg (rIXPSTAT n)) 1 = true ∧ t.out = s.out ++ [.msix 0 1] ∧ t.mem = s.mem
    let answers (t : State) (chip : Nat) (x : RemoteRsp) : Prop := Leaves s t (.response chip { x with src := s.chipId })
    let home (i : Input) (tenant off w hops : Nat) : Prop := s.pkg.up = true ∧ s.remoteRefused tenant off w hops = none
      ∧ unfilled s off w = [] ∧ ∀ x ∈ s.held, staysBehind i x.2 = false
    let newR := atomNew op r.width (s.readHome r.off r.width) r.dat r.cmp
    let newP := atomNew (if pr.fp then .fadd else .add) pr.width (s.readHome pr.off pr.width) pr.v 0
    let here : Prop := e.pchip = s.chipId
    let passes (viaPort : Bool) (hops tenant : Nat) : Prop := viaPort = true → hops ≤ 64 ∧ s.faben = true ∧ s.tenmask tenant = true
    (s.pkg.up = true → width ≠ 0 → bit (s.reg (rIXPSTAT n)) 2 = false → (s.portState n = 0 ∨ s.portState n = 1 ∨ s.portState n = 3 ∧ s.retrainFails n = false) →
      Happens s (.linkPortTrained n width) .linkPortTrained fun t => t.portState n = 2 ∧ fld (t.reg (rIXPSTAT n)) 58 2 = width.toNat ∧ Aside s t)
    ∧ (s.portState n = 2 →
        (¬crcOk → Happens s (.flitReceive n f) .flitReceive fun t => t.out = s.out ++ [.flits n [ackFlit p true]] ∧ t.wire = s.wire
          ∧ (t.port n).replay = p.replay ∧ (t.port n).ackSeq = p.ackSeq ∧ Aside s t)
        ∧ (crcOk → h.nflit ≠ 0 → p.waiting = [] → ahead = 1 → Happens s (.flitReceive n f) .flitReceive fun t =>
            t.out = s.out ++ again ++ [.flits n [ackFlit { p with ackSeq := h.seq } false]] ∧ t.wire = s.wire ++ whole ∧ (t.port n).replay = rest ∧ (t.port n).ackSeq = h.seq
            ∧ Aside s t)
        ∧ (crcOk → h.nflit ≠ 0 → p.waiting = [] → ahead ≠ 1 → Happens s (.flitReceive n f) .flitReceive fun t =>
            t.out = s.out ++ again ++ [.flits n [ackFlit p (decide (1 < ahead) && decide (ahead < 2048))]] ∧ t.wire = s.wire
            ∧ (t.port n).replay = rest ∧ (t.port n).ackSeq = p.ackSeq ∧ Aside s t)
        ∧ (crcOk → h.nflit = 0 → p.waiting = [] → Happens s (.flitReceive n f) .flitReceive fun t => t.out = s.out ++ again
            ∧ t.wire = s.wire ∧ (t.port n).replay = rest ∧ (t.port n).ackSeq = p.ackSeq ∧ Aside s t)
        ∧ ((why = .replays → 16 < (p.replays.filter lately).length) →
            (why = .uncorrectable → 64 < (((p.uncs.filter fun u => lately u.1)).map (·.2)).foldl (· + ·) 0) →
            Happens s (.retrain n why) .retrain fun t => t.portState n = 3 ∧ (t.port n).retrainAt = some s.time ∧ Aside s t))
    ∧ (s.portState n = 3 → late → p.replay = [] → p.waiting = [] → s.pkg.fatal = false → FMap.getD false 1 s.msixMask = false →
        Happens s (.portDown n) .portDown fails
        ∧ (s.pkg.up = true → width ≠ 0 → bit (s.reg (rIXPSTAT n)) 2 = false → Happens s (.linkPortTrained n width) .linkPortTrained fails))
    ∧ (m.dest ≠ s.chipId → s.pkg.up = true → 64 < m.hops → m.mclass = 2 → s.drops.length < 64 →
        Happens s (.routerForward m) .routerForward fun t => (∃ w, t.drops = s.drops ++ [w])
          ∧ (∀ o, o ∈ t.out → o ∈ s.out ∨ o = .msix 0 1) ∧ t.ports = s.ports ∧ t.wire = s.wire ∧ Aside s t)
    ∧ (m.dest ≠ s.chipId → s.pkg.up = true → m.hops ≤ 64 → s.faben = true → s.route m.dest = some line → s.portState line ≠ 4 →
        Happens s (.routerForward m) .routerForward fun t =>
          Leaves s t (.forward line (s.hopVc m.src line) { m with hops := m.hops + 1 }) ∧ Aside s t)
    ∧ (home (.remoteRequest r) r.tenant r.off r.width r.hops →
        (r.kind = .write → Happens s (.remoteRequest r) .remoteRequest fun t => answers t r.src { tag := r.tag, ok := true, tenant := r.tenant }
          ∧ Wrote s t r.off (bytesLE r.width r.dat) ∧ t.hart = s.hart)
        ∧ (s.poisonedAny r.off r.width = false →
            (r.kind = .read → Happens s (.remoteRequest r) .remoteRequest fun t => Aside s t
              ∧ answers t r.src { tag := r.tag, ok := true, dat := s.readHome r.off r.width, width := r.width, tenant := r.tenant })
            ∧ (r.kind = .atomic op → Happens s (.remoteRequest r) .remoteRequest fun t =>
                answers t r.src { tag := r.tag, ok := true, dat := s.readHome r.off r.width, width := r.width, tenant := r.tenant, flags := newR.2 }
                ∧ Wrote s t r.off (bytesLE r.width newR.1) ∧ t.hart = s.hart)))
    ∧ (s.pkg.up = true → s.remoteRefused r.tenant r.off r.width r.hops = none → unfilled s r.off r.width ≠ [] →
        Happens s (.remoteRequest r) .remoteRequest fun t =>
          t.held = FMap.insert s.nextHeld (.event (.remoteRequest r)) s.held ∧ t.out = s.out ∧ Aside s t)
    ∧ (home (.scatterPair pr) pr.tenant pr.off pr.width pr.hops → s.poisonedAny pr.off pr.width = false →
        Happens s (.scatterPair pr) .scatterPair fun t => answers t pr.src { tag := pr.tag, ok := true, tenant := pr.tenant, flags := newP.2 }
          ∧ Wrote s t pr.off (bytesLE pr.width newP.1) ∧ t.hart = s.hart)
    ∧ (s.pkg.up = true → s.faben = true → g.hops ≤ 64 → bit grp 63 = true → fld grp 59 4 = g.tenant → (∀ p, p < 6 → bit grp (48 + p) = false) →
        bit grp 54 = true → s.isMem lo = true → s.isMem (lo + g.data.length - 1) = true → unfilled s lo g.data.length = [] → s.held = [] →
        Happens s (.multicastMessage inp g) .multicastMessage fun t => Wrote s t lo g.data ∧ t.out = s.out ∧ t.hart = s.hart)
    ∧ (s.hart.live = true → passes l.viaPort l.hops l.tenant → s.lqMatch l = some (s.crew.uid, q) →
        ((e.st = .pending ∨ e.st = .bound) → Happens s (.bind l) .bind fun t => EndIs s t q bound ∧ (here → Told s t e .bindack) ∧ t.hart = s.hart)
        ∧ (e.st = .pending → Happens s (.bindack l) .bindack fun t => EndIs s t q bound ∧ t.wire = s.wire ∧ t.hart = s.hart)
        ∧ Happens s (.nack l) .nack (fun t => EndIs s t q e ∧ t.wire = s.wire ∧ Aside s t)
        ∧ (e.st = .bound → Happens s (.unbind l) .unbind fun t => EndIs s t q { e with st := .pending, credit := 0, kept := none } ∧ (here → Told s t e .bind) ∧ t.hart = s.hart)
        ∧ (e.dir = true → e.st = .bound →
            Happens s (.creditReturn l) .creditReturn fun t => EndIs s t q { e with credit := min 4 (e.credit + 1) } ∧ t.wire = s.wire ∧ t.hart = s.hart)
        ∧ Happens s (.away l) .away (fun t => EndIs s t q { e with away := true } ∧ t.hart = s.hart
            ∧ (l.chip = s.chipId → ∃ x : LqMsg, t.wire = s.wire ++ [.awayack x] ∧ x.key = l.pkey ∧ x.pkey = l.key))
        ∧ Happens s (.awayack l) .awayack (fun t => EndIs s t q { e with leaving := false } ∧ t.wire = s.wire ∧ t.hart = s.hart)
        ∧ Happens s (.back l) .back (fun t => EndIs s t q { e with away := false } ∧ t.wire = s.wire ∧ t.hart = s.hart))
    ∧ (s.hart.live = true → e.st = .pending → here →
        Happens s (.bindResend s.crew.uid q) .bindResend fun t => EndIs s t q e ∧ Told s t e .bind ∧ Aside s t)
    ∧ (s.hart.live = true → passes tm.viaPort tm.hops tm.tenant → s.lqHolder false tm.key = some (s.crew.uid, q) → e.pchip = tm.chip → e.pkey = tm.skey →
        tileWf tm = true → e.held.length < 4 →
        Happens s (.tileMessage tm) .tileMessage fun t => EndIs s t q { e with held := e.held ++ [tm] } ∧ t.wire = s.wire ∧ t.hart = s.hart)

/-- Each event, where its condition holds: a placement starts one crew of the launch on the chosen core with its harts
at the entry PC; a crew whose harts have halted leaves the device; a launch with no crew left, or with a zero count,
completes: DONEADD is added, its vector sent, its queue entry gone; pre-emption, saving and return move a crew from
resident to leaving to saved and back; the quantum charges tenants, ageing raises a class, the watchdog marks a crew
HUNG; calibration and the energy cap account energy; the cap level moves by one; ballast is evicted above the setpoint;
sensors, the safe point and the ceilings act as R123 to R126 say; a critical die ends in a fatal error; scrubbing
records and poisons; an evicted line's dirty bytes are at their home. The SafeCeiling of 15 at the end of the safe point
(log 18), how the quantum accounts what crews held and who is served (log 30), the choice of the victim among cores (log
56), and how calibration accounts estimates and the energy of crews that have left (log 16) are the model's choice.
(03_host_launch R68, 04_scheduler R93, 04_scheduler R96, 04_scheduler R97, 04_scheduler R98, 04_scheduler R102,
04_scheduler R103, 05_power_thermal R113, 05_power_thermal R117, 05_power_thermal R124, 07_memory R188, 08_ordering
R205) -/
def Obligations.SchedulerGovernorMemoryEvents : Prop :=
  ∀ (s : State) (seq pick n core uid k uj line : Nat) (z die : Bool) (l : Launch) (c d : Crew) (tel : Telemetry) (raw : List (BitVec 16))
    (dl : DLine) (bs : List Ballast) (b1 b2 b3 at_ : Nat),
    let cs := s.choices (s.openTo l) l (b2n z)
    let dd := b2n die
    let pick2 {α : Type} (v : Vector α 2) : α := if die then v[1] else v[0]
    let crewNow (t : State) (p : Crew → Prop) : Prop := ∃ x, t.getCrew uid = some x ∧ p x
    let known : Prop := s.getCrew uid = some c ∧ c.uid = uid
    let here : Prop := s.launches = [(l.seq, l)] ∧ (pw l.words 6).toNat = 0 ∧ l.doneTag = none ∧ s.pkg.fatal = false ∧ l.seq = seq
      ∧ FMap.getD false (l.fn * 128 + pkMsix l.words) s.msixMask = false
    let used := tel.core - tel.idle
    let completed (t : State) : Prop := t.launches = [] ∧ t.hart = s.hart ∧ t.mem = s.mem
      ∧ t.out = s.out ++ (if pkMsien l.words then [.msix l.fn (pkMsix l.words)] else [])
      ∧ t.ctr (pkDoneCtr l.words) = s.ctr (pkDoneCtr l.words) + BitVec.ofNat 32 (pkDoneAdd l.words)
      ∧ t.gov.enl.head? = some { id := l.id, fn := l.fn, energy := l.energy, aborted := false }
    let age := fld (s.reg rAGETHR) (8 * l.cls) 8
    let avg1 := fld (s.reg rPWRSTAT) 0 16
    let avg10 := fld (s.reg rPWRSTAT) 16 16
    let cap := fld (s.reg rPWRCFG) 0 16
    let vs (k : Nat) : List Crew := if s.returnOk c k then s.victims (s.crewClass c) false k else []
    (FMap.find seq s.launches = some l → l.seq = seq → s.isHead l = true → s.placeable l = true → pkClass l.words ≠ 7 → s.served l = true →
      pkCosched l.words = false → cs[pick % cs.length]? = some (n, core) → s.crew.uid < s.nextUid →
      Happens s (.crewPlacement seq pick z) .crewPlacement fun t => t.nextUid = s.nextUid + 1
        ∧ (∃ x, t.getCrew s.nextUid = some x ∧ x.launch = seq ∧ x.crewId = n ∧ x.core = core ∧ x.place = .resident ∧ x.tenant = l.fn)
        ∧ ∀ i, i < pkHarts l.words → ∃ h, FMap.find (slotOf s.nextUid i) t.harts = some h ∧ h.live = true ∧ h.idx = i ∧ h.pc = pw l.words 1)
    ∧ (here → l.st = .ready → l.held = false → pkInstances l.words = 0 → bit (s.reg (rTENBUD l.fn)) 63 = false →
        Happens s (.zeroCountLaunch seq) .zeroCountLaunch completed)
    ∧ (here → l.st = .completing → Happens s (.launchCompletion seq) .launchCompletion completed)
    ∧ (known → c.place = .resident → s.crewDone c = true → Happens s (.crewEnd uid) .crewEnd fun t => t.getCrew uid = none)
    ∧ (known → c.place = .saved → (List.range 160).any (s.returnable c) = false → c.claim.any (s.making c.claim.toList (crewNeed c)) = false →
        s.victimSet (crewNeed c) core (vs core) = some [d] →
        (∀ j w, j < 160 → s.victimSet (crewNeed c) j (vs j) = some w → victimLt (s.victimRank w) (s.victimRank [d]) = false) → s.getCrew d.uid = some d →
        s.setOf d = [d] → d.place = .resident →
        Happens s (.preemption core (.returning uid)) .preemption fun t =>
          (∃ x, t.getCrew d.uid = some x ∧ x.place = .leaving) ∧ crewNow t fun x => x.claim = some core)
    ∧ (known → FMap.find c.launch s.launches = some l → l.st ≠ .done → c.place = .leaving → s.lqGone uid = true → s.quiet c = true → s.ctxRoom c = true →
        s.crewDone c = false → (∀ p ∈ s.crewHarts c, p.2.posted = []) →
        Happens s (.contextSaveDone uid) .contextSaveDone fun t => crewNow t fun x => x.place = .saved ∧ x.away = 0)
    ∧ (known → s.returnable c core = true → s.returnsLater c core = false → s.crewClass c ≠ 7 → s.setOf c = [c] →
        Happens s (.crewRestore uid core) .crewRestore fun t => crewNow t fun x => x.place = .resident ∧ x.core = core ∧ x.stay = 0)
    ∧ (s.launches = [] → s.gov.quantumAt + 1000 ≤ s.time → Happens s .fairnessQuantum .fairnessQuantum fun t => t.gov.laneUs = [] ∧ Aside s t ∧ ∀ j, j < 16 →
        FMap.getD 0 j t.gov.deficit = FMap.getD 0 j s.gov.deficit + ((1000 * fld (s.reg (rSCHTW j)) 0 8 : Nat) : Int) - ((FMap.getD 0 j s.gov.laneUs : Nat) : Int))
    ∧ (FMap.find seq s.launches = some l → s.isHead l = true → l.st = .ready → 0 < age → 1000 * age ≤ l.waitedAt →
        (1 < l.cls → l.cls < 7 → Happens s (.ageingThreshold seq) .ageingThreshold fun t =>
          FMap.find seq t.launches = some { l with cls := l.cls - 1, waitedAt := 0 } ∧ Aside s t)
        ∧ (l.cls = 1 → Happens s (.ageingThreshold seq) .ageingThreshold fun t =>
          FMap.find seq t.launches = some { l with starving := true } ∧ Aside s t))
    ∧ (known → FMap.find c.launch s.launches = some l → l.seq = c.launch → 0 < pkWdog l.words → c.issued = true → c.hung = false → c.place = .resident →
        s.setOf c = [c] → 1000 * 2 ^ (pkWdog l.words - 1) ≤ c.window →
        Happens s (.watchdogExpiry uid) .watchdogExpiry fun t => (crewNow t fun x => x.hung = true ∧ x.place = .leaving)
          ∧ FMap.find c.launch t.launches = some { l with hung := true })
    ∧ (known → s.pkg.vaux = true → s.gov.calibAt + 1000 ≤ s.time → 0 < uid → c.place = .resident → c.tenant < 16 → s.gov.est = [] → s.gov.left = [] →
        used < 2 ^ 64 →
        Happens s (.energyCalibration tel [(uid, uj)]) .energyCalibration fun t =>
          (crewNow t fun x => x.energy = c.energy + BitVec.ofNat 64 (used - c.est))
          ∧ t.reg (rTENUSED c.tenant) = s.reg (rTENUSED c.tenant) + BitVec.ofNat 64 used
          ∧ t.reg rDEVENERGY = s.reg rDEVENERGY + BitVec.ofNat 64 tel.dev ∧ fld (t.reg rPWRSTAT) 0 16 = min 65535 tel.avg1)
    ∧ (FMap.find seq s.launches = some l → l.seq = seq → 0 < pkEcap l.words → l.noCap = false → l.st ≠ .done →
        pkEcap l.words * 100000 ≤ s.launchEnergy l →
        Happens s (.energyCap seq) .energyCap fun t => FMap.find seq t.launches = some { l with noCap := true, held := true })
    ∧ Happens s (.tenantBudgetExhausted k) .tenantBudgetExhausted (Aside s)
    ∧ Happens s (.droopResponse core) .droopResponse (Aside s)
    ∧ Happens s (.dramRetraining k n) .dramRetraining (Aside s)
    ∧ (k < 16 → FMap.getD 0 k s.gov.tenAt + 1000 * fld (s.reg (rTENBUD k)) 32 16 ≤ s.time → Happens s (.tenantBudgetInterval k) .tenantBudgetInterval fun t => t.reg (rTENUSED k) = 0 ∧ Aside s t)
    ∧ (s.pkg.up = true → s.capLevel < 24 → cap < avg1 → Happens s .capLevelRaise .capLevelRaise fun t => t.capLevel = s.capLevel + 1 ∧ t.hart = s.hart)
    ∧ (s.pkg.up = true → 0 < s.capLevel → avg10 * 100 < cap * 97 → Happens s .capLevelLower .capLevelLower fun t => t.capLevel + 1 = s.capLevel ∧ t.hart = s.hart)
    ∧ (s.pkg.up = true → s.pkg.fatal = false → 0 < fld (s.reg rPWRCFG) 16 16 → s.capLevel = 0 → min (fld (s.reg rPWRCFG) 16 16) cap * 102 < avg10 * 100 →
        s.liveBallast = .synth b1 b2 b3 :: bs → Happens s .ballastStep .ballastStep fun t => t.gov.ballast = bs ∧ Aside s t)
    ∧ (s.pkg.vaux = true → raw.length = 72 → Happens s (.sensorSample raw tel) .sensorSample fun t =>
        (t.gov.sample = s.gov.sample + 1 ∨ t.pkg.trip = true) ∧ ∀ j, j < 72 → fld (t.reg (rTSENS j)) 0 16 = (raw.getD j 0).toNat)
    ∧ (k < 72 → 10000 ≤ (s.sensHist k).passed →
        Happens s (.sensorReturnValid k) .sensorReturnValid fun t => fld (t.reg (rTSENS k)) 62 2 = 0 ∧ fld (t.reg (rTSENS k)) 61 1 = 0
          ∧ fld (t.reg (rTSENS k)) 32 16 = fld (s.reg (rTSENS k)) 0 16 ∧ Aside s t)
    ∧ (s.safePoint dd = true →
        (s.safeCond dd = false → pick2 s.gov.safeLast + 10000 ≤ s.gov.sample →
          Happens s (.safePointExit die) .safePointExit fun t => t.safePoint dd = false ∧ pick2 t.gov.safe = 15 ∧ t.hart = s.hart ∧ t.mem = s.mem)
        ∧ (3 * cap < 10 * ((s.diePower dd).head?.map (·.1)).getD 0 →
          Happens s (.safeCeilingStep die) .safeCeilingStep fun t => pick2 t.gov.safe = pick2 s.gov.safe - 1 ∧ t.hart = s.hart ∧ t.mem = s.mem))
    ∧ Happens s (.thermalCeilingStep die) .thermalCeilingStep (fun t => t.hart = s.hart ∧ t.mem = s.mem
        ∧ pick2 t.gov.therm = if 2 ≤ s.thermState dd then pick2 s.gov.therm - 1 else min 15 (pick2 s.gov.therm + 1))
    ∧ (pick2 s.gov.critAt = some at_ → at_ + 10000 ≤ s.gov.sample → s.pkg.up = true → bit (s.reg rDUMPSTAT) 62 = false → s.pkg.fatal = false →
        Happens s (.criticalTimeout die) .criticalTimeout fun t => t.pkg.fatal = true ∧ fld (t.reg rDUMPSTAT) 32 16 = 5 ∧ t.crews = [] ∧ t.harts = [])
    ∧ (line * 64 < s.dramBytes → Happens s (.eccError (.dram line false)) .eccError (fun t => t.poisoned (line * 64) = true ∧ t.hart = s.hart ∧ t.mem = s.mem)
        ∧ (s.stackOf (line * 64) = k → (FMap.getD [] k s.faq).length < 512 → (∀ r ∈ FMap.getD [] k s.faq, r.pa ≠ line * 64) →
            Happens s (.dramScrub k [(line, true)]) .dramScrub fun t => Aside s t ∧ FMap.getD [] k t.faq = FMap.getD [] k s.faq ++
              [{ type := 2, count := 1, pa := line * 64, pch := Config.pseudoChannel (line * 64 / 64) % 160, time := s.time }]))
    ∧ (core < 160 → s.dline core line = some dl → dl.data.length = 64 → dl.dirty.length = 64 → s.stuck core line = false →
        Happens s (.cacheEviction core line) .cacheEviction fun t => t.dline core line = none ∧ (dl.bad = false → t.hart = s.hart)
          ∧ (dl.bad = true → dl.dirty.any id = true → t.poisoned (line * 64) = true)
          ∧ (∀ l', l' ≠ line → t.dline core l' = s.dline core l')
          ∧ ∀ a, t.byteAt a = if a / 64 = line ∧ dl.dirty.getD (a % 64) false = true then dl.data.getD (a % 64) 0 else s.byteAt a)
end

