-- ==== Sys2Proof/Laws/Encoding.lean ====
section
/-!
SUPPORT. Fields of a packed word, and the parcels an encoding has (12_encoding R281 to R288).
-/
namespace Sys2Proof

open BitVec

theorem F32.pack_t (x : F32) : x.pack.extractLsb' 27 5 = x.t :=
  (extractLsb'_append_eq_of_le (xhi := x.t ++ x.m ++ x.h ++ x.f ++ x.a ++ x.d) (xlo := x.op) (by decide)).trans <|
    (extractLsb'_append_eq_of_le (xhi := x.t ++ x.m ++ x.h ++ x.f ++ x.a) (xlo := x.d) (by decide)).trans <|
    (extractLsb'_append_eq_of_le (xhi := x.t ++ x.m ++ x.h ++ x.f) (xlo := x.a) (by decide)).trans <|
    (extractLsb'_append_eq_of_le (xhi := x.t ++ x.m ++ x.h) (xlo := x.f) (by decide)).trans <|
    (extractLsb'_append_eq_of_le (xhi := x.t ++ x.m) (xlo := x.h) (by decide)).trans <|
    (extractLsb'_append_eq_of_le (xhi := x.t) (xlo := x.m) (by decide)).trans <|
    extractLsb'_eq_self
theorem F32.pack_m (x : F32) : x.pack.extractLsb' 22 5 = x.m :=
  (extractLsb'_append_eq_of_le (xhi := x.t ++ x.m ++ x.h ++ x.f ++ x.a ++ x.d) (xlo := x.op) (by decide)).trans <|
    (extractLsb'_append_eq_of_le (xhi := x.t ++ x.m ++ x.h ++ x.f ++ x.a) (xlo := x.d) (by decide)).trans <|
    (extractLsb'_append_eq_of_le (xhi := x.t ++ x.m ++ x.h ++ x.f) (xlo := x.a) (by decide)).trans <|
    (extractLsb'_append_eq_of_le (xhi := x.t ++ x.m ++ x.h) (xlo := x.f) (by decide)).trans <|
    (extractLsb'_append_eq_of_le (xhi := x.t ++ x.m) (xlo := x.h) (by decide)).trans <|
    (extractLsb'_append_eq_of_add_le (xhi := x.t) (xlo := x.m) (by decide)).trans <|
    extractLsb'_eq_self
theorem F32.pack_h (x : F32) : x.pack.extractLsb' 20 2 = x.h :=
  (extractLsb'_append_eq_of_le (xhi := x.t ++ x.m ++ x.h ++ x.f ++ x.a ++ x.d) (xlo := x.op) (by decide)).trans <|
    (extractLsb'_append_eq_of_le (xhi := x.t ++ x.m ++ x.h ++ x.f ++ x.a) (xlo := x.d) (by decide)).trans <|
    (extractLsb'_append_eq_of_le (xhi := x.t ++ x.m ++ x.h ++ x.f) (xlo := x.a) (by decide)).trans <|
    (extractLsb'_append_eq_of_le (xhi := x.t ++ x.m ++ x.h) (xlo := x.f) (by decide)).trans <|
    (extractLsb'_append_eq_of_add_le (xhi := x.t ++ x.m) (xlo := x.h) (by decide)).trans <|
    extractLsb'_eq_self
theorem F32.pack_f (x : F32) : x.pack.extractLsb' 17 3 = x.f :=
  (extractLsb'_append_eq_of_le (xhi := x.t ++ x.m ++ x.h ++ x.f ++ x.a ++ x.d) (xlo := x.op) (by decide)).trans <|
    (extractLsb'_append_eq_of_le (xhi := x.t ++ x.m ++ x.h ++ x.f ++ x.a) (xlo := x.d) (by decide)).trans <|
    (extractLsb'_append_eq_of_le (xhi := x.t ++ x.m ++ x.h ++ x.f) (xlo := x.a) (by decide)).trans <|
    (extractLsb'_append_eq_of_add_le (xhi := x.t ++ x.m ++ x.h) (xlo := x.f) (by decide)).trans <|
    extractLsb'_eq_self
theorem F32.pack_a (x : F32) : x.pack.extractLsb' 12 5 = x.a :=
  (extractLsb'_append_eq_of_le (xhi := x.t ++ x.m ++ x.h ++ x.f ++ x.a ++ x.d) (xlo := x.op) (by decide)).trans <|
    (extractLsb'_append_eq_of_le (xhi := x.t ++ x.m ++ x.h ++ x.f ++ x.a) (xlo := x.d) (by decide)).trans <|
    (extractLsb'_append_eq_of_add_le (xhi := x.t ++ x.m ++ x.h ++ x.f) (xlo := x.a) (by decide)).trans <|
    extractLsb'_eq_self
theorem F32.pack_d (x : F32) : x.pack.extractLsb' 7 5 = x.d :=
  (extractLsb'_append_eq_of_le (xhi := x.t ++ x.m ++ x.h ++ x.f ++ x.a ++ x.d) (xlo := x.op) (by decide)).trans <|
    (extractLsb'_append_eq_of_add_le (xhi := x.t ++ x.m ++ x.h ++ x.f ++ x.a) (xlo := x.d) (by decide)).trans <|
    extractLsb'_eq_self
theorem F32.pack_op (x : F32) : x.pack.extractLsb' 0 7 = x.op :=
  (extractLsb'_append_eq_of_add_le (xhi := x.t ++ x.m ++ x.h ++ x.f ++ x.a ++ x.d) (xlo := x.op) (by decide)).trans <|
    extractLsb'_eq_self
/-- No field of a word is lost in packing it. -/
@[simp] theorem F32.unpack_pack (x : F32) : F32.unpack x.pack = x := by
  simp only [F32.unpack, F32.pack_t, F32.pack_m, F32.pack_h, F32.pack_f, F32.pack_a,
    F32.pack_d, F32.pack_op]

theorem F64.pack_imm (x : F64) : x.pack.extractLsb' 48 16 = x.imm :=
  (extractLsb'_append_eq_of_le (xhi := x.imm ++ x.op ++ x.mod ++ x.ssel ++ x.k1 ++ x.um ++ x.mreg ++ x.s3 ++ x.s2 ++ x.s1 ++ x.d ++ x.cls) (xlo := x.kind) (by decide)).trans <|
    (extractLsb'_append_eq_of_le (xhi := x.imm ++ x.op ++ x.mod ++ x.ssel ++ x.k1 ++ x.um ++ x.mreg ++ x.s3 ++ x.s2 ++ x.s1 ++ x.d) (xlo := x.cls) (by decide)).trans <|
    (extractLsb'_append_eq_of_le (xhi := x.imm ++ x.op ++ x.mod ++ x.ssel ++ x.k1 ++ x.um ++ x.mreg ++ x.s3 ++ x.s2 ++ x.s1) (xlo := x.d) (by decide)).trans <|
    (extractLsb'_append_eq_of_le (xhi := x.imm ++ x.op ++ x.mod ++ x.ssel ++ x.k1 ++ x.um ++ x.mreg ++ x.s3 ++ x.s2) (xlo := x.s1) (by decide)).trans <|
    (extractLsb'_append_eq_of_le (xhi := x.imm ++ x.op ++ x.mod ++ x.ssel ++ x.k1 ++ x.um ++ x.mreg ++ x.s3) (xlo := x.s2) (by decide)).trans <|
    (extractLsb'_append_eq_of_le (xhi := x.imm ++ x.op ++ x.mod ++ x.ssel ++ x.k1 ++ x.um ++ x.mreg) (xlo := x.s3) (by decide)).trans <|
    (extractLsb'_append_eq_of_le (xhi := x.imm ++ x.op ++ x.mod ++ x.ssel ++ x.k1 ++ x.um) (xlo := x.mreg) (by decide)).trans <|
    (extractLsb'_append_eq_of_le (xhi := x.imm ++ x.op ++ x.mod ++ x.ssel ++ x.k1) (xlo := x.um) (by decide)).trans <|
    (extractLsb'_append_eq_of_le (xhi := x.imm ++ x.op ++ x.mod ++ x.ssel) (xlo := x.k1) (by decide)).trans <|
    (extractLsb'_append_eq_of_le (xhi := x.imm ++ x.op ++ x.mod) (xlo := x.ssel) (by decide)).trans <|
    (extractLsb'_append_eq_of_le (xhi := x.imm ++ x.op) (xlo := x.mod) (by decide)).trans <|
    (extractLsb'_append_eq_of_le (xhi := x.imm) (xlo := x.op) (by decide)).trans <|
    extractLsb'_eq_self
theorem F64.pack_op (x : F64) : x.pack.extractLsb' 42 6 = x.op :=
  (extractLsb'_append_eq_of_le (xhi := x.imm ++ x.op ++ x.mod ++ x.ssel ++ x.k1 ++ x.um ++ x.mreg ++ x.s3 ++ x.s2 ++ x.s1 ++ x.d ++ x.cls) (xlo := x.kind) (by decide)).trans <|
    (extractLsb'_append_eq_of_le (xhi := x.imm ++ x.op ++ x.mod ++ x.ssel ++ x.k1 ++ x.um ++ x.mreg ++ x.s3 ++ x.s2 ++ x.s1 ++ x.d) (xlo := x.cls) (by decide)).trans <|
    (extractLsb'_append_eq_of_le (xhi := x.imm ++ x.op ++ x.mod ++ x.ssel ++ x.k1 ++ x.um ++ x.mreg ++ x.s3 ++ x.s2 ++ x.s1) (xlo := x.d) (by decide)).trans <|
    (extractLsb'_append_eq_of_le (xhi := x.imm ++ x.op ++ x.mod ++ x.ssel ++ x.k1 ++ x.um ++ x.mreg ++ x.s3 ++ x.s2) (xlo := x.s1) (by decide)).trans <|
    (extractLsb'_append_eq_of_le (xhi := x.imm ++ x.op ++ x.mod ++ x.ssel ++ x.k1 ++ x.um ++ x.mreg ++ x.s3) (xlo := x.s2) (by decide)).trans <|
    (extractLsb'_append_eq_of_le (xhi := x.imm ++ x.op ++ x.mod ++ x.ssel ++ x.k1 ++ x.um ++ x.mreg) (xlo := x.s3) (by decide)).trans <|
    (extractLsb'_append_eq_of_le (xhi := x.imm ++ x.op ++ x.mod ++ x.ssel ++ x.k1 ++ x.um) (xlo := x.mreg) (by decide)).trans <|
    (extractLsb'_append_eq_of_le (xhi := x.imm ++ x.op ++ x.mod ++ x.ssel ++ x.k1) (xlo := x.um) (by decide)).trans <|
    (extractLsb'_append_eq_of_le (xhi := x.imm ++ x.op ++ x.mod ++ x.ssel) (xlo := x.k1) (by decide)).trans <|
    (extractLsb'_append_eq_of_le (xhi := x.imm ++ x.op ++ x.mod) (xlo := x.ssel) (by decide)).trans <|
    (extractLsb'_append_eq_of_le (xhi := x.imm ++ x.op) (xlo := x.mod) (by decide)).trans <|
    (extractLsb'_append_eq_of_add_le (xhi := x.imm) (xlo := x.op) (by decide)).trans <|
    extractLsb'_eq_self
theorem F64.pack_mod (x : F64) : x.pack.extractLsb' 37 5 = x.mod :=
  (extractLsb'_append_eq_of_le (xhi := x.imm ++ x.op ++ x.mod ++ x.ssel ++ x.k1 ++ x.um ++ x.mreg ++ x.s3 ++ x.s2 ++ x.s1 ++ x.d ++ x.cls) (xlo := x.kind) (by decide)).trans <|
    (extractLsb'_append_eq_of_le (xhi := x.imm ++ x.op ++ x.mod ++ x.ssel ++ x.k1 ++ x.um ++ x.mreg ++ x.s3 ++ x.s2 ++ x.s1 ++ x.d) (xlo := x.cls) (by decide)).trans <|
    (extractLsb'_append_eq_of_le (xhi := x.imm ++ x.op ++ x.mod ++ x.ssel ++ x.k1 ++ x.um ++ x.mreg ++ x.s3 ++ x.s2 ++ x.s1) (xlo := x.d) (by decide)).trans <|
    (extractLsb'_append_eq_of_le (xhi := x.imm ++ x.op ++ x.mod ++ x.ssel ++ x.k1 ++ x.um ++ x.mreg ++ x.s3 ++ x.s2) (xlo := x.s1) (by decide)).trans <|
    (extractLsb'_append_eq_of_le (xhi := x.imm ++ x.op ++ x.mod ++ x.ssel ++ x.k1 ++ x.um ++ x.mreg ++ x.s3) (xlo := x.s2) (by decide)).trans <|
    (extractLsb'_append_eq_of_le (xhi := x.imm ++ x.op ++ x.mod ++ x.ssel ++ x.k1 ++ x.um ++ x.mreg) (xlo := x.s3) (by decide)).trans <|
    (extractLsb'_append_eq_of_le (xhi := x.imm ++ x.op ++ x.mod ++ x.ssel ++ x.k1 ++ x.um) (xlo := x.mreg) (by decide)).trans <|
    (extractLsb'_append_eq_of_le (xhi := x.imm ++ x.op ++ x.mod ++ x.ssel ++ x.k1) (xlo := x.um) (by decide)).trans <|
    (extractLsb'_append_eq_of_le (xhi := x.imm ++ x.op ++ x.mod ++ x.ssel) (xlo := x.k1) (by decide)).trans <|
    (extractLsb'_append_eq_of_le (xhi := x.imm ++ x.op ++ x.mod) (xlo := x.ssel) (by decide)).trans <|
    (extractLsb'_append_eq_of_add_le (xhi := x.imm ++ x.op) (xlo := x.mod) (by decide)).trans <|
    extractLsb'_eq_self
theorem F64.pack_ssel (x : F64) : x.pack.extractLsb' 34 3 = x.ssel :=
  (extractLsb'_append_eq_of_le (xhi := x.imm ++ x.op ++ x.mod ++ x.ssel ++ x.k1 ++ x.um ++ x.mreg ++ x.s3 ++ x.s2 ++ x.s1 ++ x.d ++ x.cls) (xlo := x.kind) (by decide)).trans <|
    (extractLsb'_append_eq_of_le (xhi := x.imm ++ x.op ++ x.mod ++ x.ssel ++ x.k1 ++ x.um ++ x.mreg ++ x.s3 ++ x.s2 ++ x.s1 ++ x.d) (xlo := x.cls) (by decide)).trans <|
    (extractLsb'_append_eq_of_le (xhi := x.imm ++ x.op ++ x.mod ++ x.ssel ++ x.k1 ++ x.um ++ x.mreg ++ x.s3 ++ x.s2 ++ x.s1) (xlo := x.d) (by decide)).trans <|
    (extractLsb'_append_eq_of_le (xhi := x.imm ++ x.op ++ x.mod ++ x.ssel ++ x.k1 ++ x.um ++ x.mreg ++ x.s3 ++ x.s2) (xlo := x.s1) (by decide)).trans <|
    (extractLsb'_append_eq_of_le (xhi := x.imm ++ x.op ++ x.mod ++ x.ssel ++ x.k1 ++ x.um ++ x.mreg ++ x.s3) (xlo := x.s2) (by decide)).trans <|
    (extractLsb'_append_eq_of_le (xhi := x.imm ++ x.op ++ x.mod ++ x.ssel ++ x.k1 ++ x.um ++ x.mreg) (xlo := x.s3) (by decide)).trans <|
    (extractLsb'_append_eq_of_le (xhi := x.imm ++ x.op ++ x.mod ++ x.ssel ++ x.k1 ++ x.um) (xlo := x.mreg) (by decide)).trans <|
    (extractLsb'_append_eq_of_le (xhi := x.imm ++ x.op ++ x.mod ++ x.ssel ++ x.k1) (xlo := x.um) (by decide)).trans <|
    (extractLsb'_append_eq_of_le (xhi := x.imm ++ x.op ++ x.mod ++ x.ssel) (xlo := x.k1) (by decide)).trans <|
    (extractLsb'_append_eq_of_add_le (xhi := x.imm ++ x.op ++ x.mod) (xlo := x.ssel) (by decide)).trans <|
    extractLsb'_eq_self
theorem F64.pack_k1 (x : F64) : x.pack.extractLsb' 32 2 = x.k1 :=
  (extractLsb'_append_eq_of_le (xhi := x.imm ++ x.op ++ x.mod ++ x.ssel ++ x.k1 ++ x.um ++ x.mreg ++ x.s3 ++ x.s2 ++ x.s1 ++ x.d ++ x.cls) (xlo := x.kind) (by decide)).trans <|
    (extractLsb'_append_eq_of_le (xhi := x.imm ++ x.op ++ x.mod ++ x.ssel ++ x.k1 ++ x.um ++ x.mreg ++ x.s3 ++ x.s2 ++ x.s1 ++ x.d) (xlo := x.cls) (by decide)).trans <|
    (extractLsb'_append_eq_of_le (xhi := x.imm ++ x.op ++ x.mod ++ x.ssel ++ x.k1 ++ x.um ++ x.mreg ++ x.s3 ++ x.s2 ++ x.s1) (xlo := x.d) (by decide)).trans <|
    (extractLsb'_append_eq_of_le (xhi := x.imm ++ x.op ++ x.mod ++ x.ssel ++ x.k1 ++ x.um ++ x.mreg ++ x.s3 ++ x.s2) (xlo := x.s1) (by decide)).trans <|
    (extractLsb'_append_eq_of_le (xhi := x.imm ++ x.op ++ x.mod ++ x.ssel ++ x.k1 ++ x.um ++ x.mreg ++ x.s3) (xlo := x.s2) (by decide)).trans <|
    (extractLsb'_append_eq_of_le (xhi := x.imm ++ x.op ++ x.mod ++ x.ssel ++ x.k1 ++ x.um ++ x.mreg) (xlo := x.s3) (by decide)).trans <|
    (extractLsb'_append_eq_of_le (xhi := x.imm ++ x.op ++ x.mod ++ x.ssel ++ x.k1 ++ x.um) (xlo := x.mreg) (by decide)).trans <|
    (extractLsb'_append_eq_of_le (xhi := x.imm ++ x.op ++ x.mod ++ x.ssel ++ x.k1) (xlo := x.um) (by decide)).trans <|
    (extractLsb'_append_eq_of_add_le (xhi := x.imm ++ x.op ++ x.mod ++ x.ssel) (xlo := x.k1) (by decide)).trans <|
    extractLsb'_eq_self
theorem F64.pack_um (x : F64) : x.pack.extractLsb' 31 1 = x.um :=
  (extractLsb'_append_eq_of_le (xhi := x.imm ++ x.op ++ x.mod ++ x.ssel ++ x.k1 ++ x.um ++ x.mreg ++ x.s3 ++ x.s2 ++ x.s1 ++ x.d ++ x.cls) (xlo := x.kind) (by decide)).trans <|
    (extractLsb'_append_eq_of_le (xhi := x.imm ++ x.op ++ x.mod ++ x.ssel ++ x.k1 ++ x.um ++ x.mreg ++ x.s3 ++ x.s2 ++ x.s1 ++ x.d) (xlo := x.cls) (by decide)).trans <|
    (extractLsb'_append_eq_of_le (xhi := x.imm ++ x.op ++ x.mod ++ x.ssel ++ x.k1 ++ x.um ++ x.mreg ++ x.s3 ++ x.s2 ++ x.s1) (xlo := x.d) (by decide)).trans <|
    (extractLsb'_append_eq_of_le (xhi := x.imm ++ x.op ++ x.mod ++ x.ssel ++ x.k1 ++ x.um ++ x.mreg ++ x.s3 ++ x.s2) (xlo := x.s1) (by decide)).trans <|
    (extractLsb'_append_eq_of_le (xhi := x.imm ++ x.op ++ x.mod ++ x.ssel ++ x.k1 ++ x.um ++ x.mreg ++ x.s3) (xlo := x.s2) (by decide)).trans <|
    (extractLsb'_append_eq_of_le (xhi := x.imm ++ x.op ++ x.mod ++ x.ssel ++ x.k1 ++ x.um ++ x.mreg) (xlo := x.s3) (by decide)).trans <|
    (extractLsb'_append_eq_of_le (xhi := x.imm ++ x.op ++ x.mod ++ x.ssel ++ x.k1 ++ x.um) (xlo := x.mreg) (by decide)).trans <|
    (extractLsb'_append_eq_of_add_le (xhi := x.imm ++ x.op ++ x.mod ++ x.ssel ++ x.k1) (xlo := x.um) (by decide)).trans <|
    extractLsb'_eq_self
theorem F64.pack_mreg (x : F64) : x.pack.extractLsb' 28 3 = x.mreg :=
  (extractLsb'_append_eq_of_le (xhi := x.imm ++ x.op ++ x.mod ++ x.ssel ++ x.k1 ++ x.um ++ x.mreg ++ x.s3 ++ x.s2 ++ x.s1 ++ x.d ++ x.cls) (xlo := x.kind) (by decide)).trans <|
    (extractLsb'_append_eq_of_le (xhi := x.imm ++ x.op ++ x.mod ++ x.ssel ++ x.k1 ++ x.um ++ x.mreg ++ x.s3 ++ x.s2 ++ x.s1 ++ x.d) (xlo := x.cls) (by decide)).trans <|
    (extractLsb'_append_eq_of_le (xhi := x.imm ++ x.op ++ x.mod ++ x.ssel ++ x.k1 ++ x.um ++ x.mreg ++ x.s3 ++ x.s2 ++ x.s1) (xlo := x.d) (by decide)).trans <|
    (extractLsb'_append_eq_of_le (xhi := x.imm ++ x.op ++ x.mod ++ x.ssel ++ x.k1 ++ x.um ++ x.mreg ++ x.s3 ++ x.s2) (xlo := x.s1) (by decide)).trans <|
    (extractLsb'_append_eq_of_le (xhi := x.imm ++ x.op ++ x.mod ++ x.ssel ++ x.k1 ++ x.um ++ x.mreg ++ x.s3) (xlo := x.s2) (by decide)).trans <|
    (extractLsb'_append_eq_of_le (xhi := x.imm ++ x.op ++ x.mod ++ x.ssel ++ x.k1 ++ x.um ++ x.mreg) (xlo := x.s3) (by decide)).trans <|
    (extractLsb'_append_eq_of_add_le (xhi := x.imm ++ x.op ++ x.mod ++ x.ssel ++ x.k1 ++ x.um) (xlo := x.mreg) (by decide)).trans <|
    extractLsb'_eq_self
theorem F64.pack_s3 (x : F64) : x.pack.extractLsb' 23 5 = x.s3 :=
  (extractLsb'_append_eq_of_le (xhi := x.imm ++ x.op ++ x.mod ++ x.ssel ++ x.k1 ++ x.um ++ x.mreg ++ x.s3 ++ x.s2 ++ x.s1 ++ x.d ++ x.cls) (xlo := x.kind) (by decide)).trans <|
    (extractLsb'_append_eq_of_le (xhi := x.imm ++ x.op ++ x.mod ++ x.ssel ++ x.k1 ++ x.um ++ x.mreg ++ x.s3 ++ x.s2 ++ x.s1 ++ x.d) (xlo := x.cls) (by decide)).trans <|
    (extractLsb'_append_eq_of_le (xhi := x.imm ++ x.op ++ x.mod ++ x.ssel ++ x.k1 ++ x.um ++ x.mreg ++ x.s3 ++ x.s2 ++ x.s1) (xlo := x.d) (by decide)).trans <|
    (extractLsb'_append_eq_of_le (xhi := x.imm ++ x.op ++ x.mod ++ x.ssel ++ x.k1 ++ x.um ++ x.mreg ++ x.s3 ++ x.s2) (xlo := x.s1) (by decide)).trans <|
    (extractLsb'_append_eq_of_le (xhi := x.imm ++ x.op ++ x.mod ++ x.ssel ++ x.k1 ++ x.um ++ x.mreg ++ x.s3) (xlo := x.s2) (by decide)).trans <|
    (extractLsb'_append_eq_of_add_le (xhi := x.imm ++ x.op ++ x.mod ++ x.ssel ++ x.k1 ++ x.um ++ x.mreg) (xlo := x.s3) (by decide)).trans <|
    extractLsb'_eq_self
theorem F64.pack_s2 (x : F64) : x.pack.extractLsb' 18 5 = x.s2 :=
  (extractLsb'_append_eq_of_le (xhi := x.imm ++ x.op ++ x.mod ++ x.ssel ++ x.k1 ++ x.um ++ x.mreg ++ x.s3 ++ x.s2 ++ x.s1 ++ x.d ++ x.cls) (xlo := x.kind) (by decide)).trans <|
    (extractLsb'_append_eq_of_le (xhi := x.imm ++ x.op ++ x.mod ++ x.ssel ++ x.k1 ++ x.um ++ x.mreg ++ x.s3 ++ x.s2 ++ x.s1 ++ x.d) (xlo := x.cls) (by decide)).trans <|
    (extractLsb'_append_eq_of_le (xhi := x.imm ++ x.op ++ x.mod ++ x.ssel ++ x.k1 ++ x.um ++ x.mreg ++ x.s3 ++ x.s2 ++ x.s1) (xlo := x.d) (by decide)).trans <|
    (extractLsb'_append_eq_of_le (xhi := x.imm ++ x.op ++ x.mod ++ x.ssel ++ x.k1 ++ x.um ++ x.mreg ++ x.s3 ++ x.s2) (xlo := x.s1) (by decide)).trans <|
    (extractLsb'_append_eq_of_add_le (xhi := x.imm ++ x.op ++ x.mod ++ x.ssel ++ x.k1 ++ x.um ++ x.mreg ++ x.s3) (xlo := x.s2) (by decide)).trans <|
    extractLsb'_eq_self
theorem F64.pack_s1 (x : F64) : x.pack.extractLsb' 13 5 = x.s1 :=
  (extractLsb'_append_eq_of_le (xhi := x.imm ++ x.op ++ x.mod ++ x.ssel ++ x.k1 ++ x.um ++ x.mreg ++ x.s3 ++ x.s2 ++ x.s1 ++ x.d ++ x.cls) (xlo := x.kind) (by decide)).trans <|
    (extractLsb'_append_eq_of_le (xhi := x.imm ++ x.op ++ x.mod ++ x.ssel ++ x.k1 ++ x.um ++ x.mreg ++ x.s3 ++ x.s2 ++ x.s1 ++ x.d) (xlo := x.cls) (by decide)).trans <|
    (extractLsb'_append_eq_of_le (xhi := x.imm ++ x.op ++ x.mod ++ x.ssel ++ x.k1 ++ x.um ++ x.mreg ++ x.s3 ++ x.s2 ++ x.s1) (xlo := x.d) (by decide)).trans <|
    (extractLsb'_append_eq_of_add_le (xhi := x.imm ++ x.op ++ x.mod ++ x.ssel ++ x.k1 ++ x.um ++ x.mreg ++ x.s3 ++ x.s2) (xlo := x.s1) (by decide)).trans <|
    extractLsb'_eq_self
theorem F64.pack_d (x : F64) : x.pack.extractLsb' 8 5 = x.d :=
  (extractLsb'_append_eq_of_le (xhi := x.imm ++ x.op ++ x.mod ++ x.ssel ++ x.k1 ++ x.um ++ x.mreg ++ x.s3 ++ x.s2 ++ x.s1 ++ x.d ++ x.cls) (xlo := x.kind) (by decide)).trans <|
    (extractLsb'_append_eq_of_le (xhi := x.imm ++ x.op ++ x.mod ++ x.ssel ++ x.k1 ++ x.um ++ x.mreg ++ x.s3 ++ x.s2 ++ x.s1 ++ x.d) (xlo := x.cls) (by decide)).trans <|
    (extractLsb'_append_eq_of_add_le (xhi := x.imm ++ x.op ++ x.mod ++ x.ssel ++ x.k1 ++ x.um ++ x.mreg ++ x.s3 ++ x.s2 ++ x.s1) (xlo := x.d) (by decide)).trans <|
    extractLsb'_eq_self
theorem F64.pack_cls (x : F64) : x.pack.extractLsb' 2 6 = x.cls :=
  (extractLsb'_append_eq_of_le (xhi := x.imm ++ x.op ++ x.mod ++ x.ssel ++ x.k1 ++ x.um ++ x.mreg ++ x.s3 ++ x.s2 ++ x.s1 ++ x.d ++ x.cls) (xlo := x.kind) (by decide)).trans <|
    (extractLsb'_append_eq_of_add_le (xhi := x.imm ++ x.op ++ x.mod ++ x.ssel ++ x.k1 ++ x.um ++ x.mreg ++ x.s3 ++ x.s2 ++ x.s1 ++ x.d) (xlo := x.cls) (by decide)).trans <|
    extractLsb'_eq_self
theorem F64.pack_kind (x : F64) : x.pack.extractLsb' 0 2 = x.kind :=
  (extractLsb'_append_eq_of_add_le (xhi := x.imm ++ x.op ++ x.mod ++ x.ssel ++ x.k1 ++ x.um ++ x.mreg ++ x.s3 ++ x.s2 ++ x.s1 ++ x.d ++ x.cls) (xlo := x.kind) (by decide)).trans <|
    extractLsb'_eq_self
/-- No field of a word is lost in packing it. -/
@[simp] theorem F64.unpack_pack (x : F64) : F64.unpack x.pack = x := by
  simp only [F64.unpack, F64.pack_imm, F64.pack_op, F64.pack_mod, F64.pack_ssel, F64.pack_k1,
    F64.pack_um, F64.pack_mreg, F64.pack_s3, F64.pack_s2, F64.pack_s1,
    F64.pack_d, F64.pack_cls, F64.pack_kind]

/-- The two parcels of a 64-bit word give it back. -/
theorem join_parcels (w : BitVec 64) : w.extractLsb' 32 32 ++ w.extractLsb' 0 32 = w := by
  ext i hi
  simp only [getElem_append, getElem_extractLsb']
  split
  · simp [getLsbD_eq_getElem, hi]
  · rename_i h
    have : 32 + (i - 32) = i := by omega
    simp [this, getLsbD_eq_getElem, hi]

theorem pairParcels_split (ms : List (BitVec 64)) :
    pairParcels (ms.flatMap fun w => [w.extractLsb' 0 32, w.extractLsb' 32 32]) = ms := by
  induction ms with
  | nil => rfl
  | cons w ms ih =>
    simp only [List.flatMap_cons, List.cons_append, List.nil_append, pairParcels, ih, List.cons.injEq, and_true]
    exact join_parcels w

theorem encode_of_fields32 {i : Instr} {x : F32} (h : i.fields32 = some x) : encode i = [x.pack] := by
  unfold encode; rw [h]

theorem encode_of_fields64 {i : Instr} {x : F64} (h : i.fields32 = none) (k : i.fields64 = some x) :
    encode i = [x.pack.extractLsb' 0 32, x.pack.extractLsb' 32 32] := by
  unfold encode; rw [h, k]

/-- A word's kind bits are the low bits of its opcode field. -/
theorem F32.pack_low (x : F32) : x.pack.extractLsb' 0 2 = x.op.extractLsb' 0 2 :=
  extractLsb'_append_eq_of_add_le (xhi := x.t ++ x.m ++ x.h ++ x.f ++ x.a ++ x.d) (xlo := x.op) (by decide)

theorem F64.pack_low (x : F64) : (x.pack.extractLsb' 0 32).extractLsb' 0 2 = x.kind := by
  rw [← F64.pack_kind x]
  ext i hi
  simp

@[simp] theorem F64.withMask_kind (x : F64) (m : VMask) : (x.withMask m).kind = x.kind := by cases m <;> rfl
@[simp] theorem F64.withSrc1_kind (x : F64) (s : Src1) : (x.withSrc1 s).kind = x.kind := by cases s <;> rfl
@[simp] theorem F64.withXI_kind (x : F64) (s : XOrImm) : (x.withXI s).kind = x.kind := by cases s <;> rfl
@[simp] theorem F64.withVX_kind (x : F64) (s : VOrX) : (x.withVX s).kind = x.kind := by cases s <;> rfl
@[simp] theorem F64.base_kind (c o : BitVec 6) : (F64.base c o).kind = 3 := rfl
@[simp] theorem F64.vec_kind (c o : BitVec 6) (d a : Reg) (s : Src1) (x : BitVec 5) (m : VMask) :
    (F64.vec c o d a s x m).kind = 3 := by simp [F64.vec]
@[simp] theorem F64.vecXI_kind (c o : BitVec 6) (d a : Reg) (s : XOrImm) (x : BitVec 5) (m : VMask) :
    (F64.vecXI c o d a s x m).kind = 3 := by simp [F64.vecXI]
@[simp] theorem F64.vecVX_kind (c o : BitVec 6) (d a : Reg) (s : VOrX) (x : BitVec 5) (m : VMask) :
    (F64.vecVX c o d a s x m).kind = 3 := by simp [F64.vecVX]
@[simp] theorem F64.vec1_kind (c o : BitVec 6) (d a b : Reg) (i : BitVec 16) (x : BitVec 5) (m : VMask) :
    (F64.vec1 c o d a b i x m).kind = 3 := by simp [F64.vec1]

end Sys2Proof
end

