-- ==== Sys2Proof/Laws/Map.lean ====
section
/-!
SUPPORT. Laws of finite maps: reading after writing, and that every operation keeps the canonical form.
-/
namespace Sys2Proof.Machine.FMap

variable {α : Type}

@[simp] theorem find_nil (k : Nat) : find k ([] : FMap α) = none := rfl

theorem find_erase_same (k : Nat) (m : FMap α) : find k (erase k m) = none := by
  induction m with
  | nil => rfl
  | cons p m ih =>
    by_cases h : p.1 = k <;> simp [erase, find, h, ih]

theorem find_erase_ne {j k : Nat} (h : j ≠ k) (m : FMap α) : find k (erase j m) = find k m := by
  induction m with
  | nil => rfl
  | cons p m ih =>
    by_cases hj : p.1 = j
    · have : p.1 ≠ k := fun e => h (hj ▸ e)
      simp [erase, find, hj, ih, h]
    · by_cases hk : p.1 = k
      · subst hk; simp [erase, find, hj]
      · simp [erase, find, hj, hk, ih]

theorem find_insert_same (k : Nat) (a : α) (m : FMap α) : find k (insert k a m) = some a := by
  induction m with
  | nil => simp [insert, find]
  | cons p m ih =>
    by_cases h1 : k < p.1
    · simp [insert, find, h1]
    · by_cases h2 : k = p.1
      · simp [insert, find, h2]
      · have : p.1 ≠ k := fun e => h2 e.symm
        simp [insert, find, h1, h2, this, ih]

theorem find_insert_ne {j k : Nat} (h : j ≠ k) (a : α) (m : FMap α) : find k (insert j a m) = find k m := by
  induction m with
  | nil => simp [insert, find, h]
  | cons p m ih =>
    by_cases h1 : j < p.1
    · simp [insert, find, h1, h]
    · by_cases h2 : j = p.1
      · subst h2; simp [insert, find, h]
      · by_cases h3 : p.1 = k
        · subst h3; simp [insert, find, h1, h2]
        · simp [insert, find, h1, h2, h3, ih]

/-- A write reads back. -/
theorem getD_setD_same [DecidableEq α] (d : α) (k : Nat) (a : α) (m : FMap α) : getD d k (setD d k a m) = a := by
  unfold getD setD
  split
  · rename_i h; simp [find_erase_same, h]
  · simp [find_insert_same]

/-- A write leaves every other key alone. -/
theorem getD_setD_ne [DecidableEq α] {j k : Nat} (h : j ≠ k) (e d a : α) (m : FMap α) :
    getD e k (setD d j a m) = getD e k m := by
  unfold getD setD
  split
  · rw [find_erase_ne h]
  · rw [find_insert_ne h]

theorem getD_setD [DecidableEq α] (d : α) (j k : Nat) (a : α) (m : FMap α) :
    getD d k (setD d j a m) = if j = k then a else getD d k m := by
  split
  · rename_i h; rw [h, getD_setD_same]
  · rename_i h; rw [getD_setD_ne h]

theorem sortedFrom_mono {b c : Nat} (h : b ≤ c) {m : FMap α} (s : sortedFrom c m = true) : sortedFrom b m = true := by
  cases m with
  | nil => rfl
  | cons p m =>
    simp only [sortedFrom, Bool.and_eq_true, decide_eq_true_eq] at s ⊢
    exact ⟨by omega, s.2⟩

theorem sortedFrom_filter (f : Nat × α → Bool) {b : Nat} {m : FMap α} (s : sortedFrom b m = true) :
    sortedFrom b (m.filter f) = true := by
  induction m generalizing b with
  | nil => rfl
  | cons p m ih =>
    simp only [sortedFrom, Bool.and_eq_true, decide_eq_true_eq] at s
    by_cases h : f p = true
    · simp only [List.filter, h, sortedFrom, Bool.and_eq_true, decide_eq_true_eq]
      exact ⟨s.1, ih s.2⟩
    · simp only [List.filter, h]
      exact ih (sortedFrom_mono (by omega) s.2)

theorem erase_eq_filter (k : Nat) (m : FMap α) : erase k m = m.filter (fun p => decide (p.1 ≠ k)) := by
  induction m with
  | nil => rfl
  | cons p m ih => by_cases h : p.1 = k <;> simp [erase, List.filter, h, ih]

theorem sortedFrom_erase (k : Nat) {b : Nat} {m : FMap α} (s : sortedFrom b m = true) : sortedFrom b (erase k m) = true := by
  rw [erase_eq_filter]; exact sortedFrom_filter _ s

theorem sortedFrom_insert {k b : Nat} (a : α) (h : b ≤ k) {m : FMap α} (s : sortedFrom b m = true) :
    sortedFrom b (insert k a m) = true := by
  induction m generalizing b with
  | nil => simp [insert, sortedFrom, h]
  | cons p m ih =>
    simp only [sortedFrom, Bool.and_eq_true, decide_eq_true_eq] at s
    by_cases h1 : k < p.1
    · simp only [insert, h1, if_true, sortedFrom, Bool.and_eq_true, decide_eq_true_eq]
      exact ⟨h, by omega, s.2⟩
    · by_cases h2 : k = p.1
      · subst h2
        simp only [insert, Nat.lt_irrefl, if_false, if_true, sortedFrom, Bool.and_eq_true, decide_eq_true_eq]
        exact s
      · simp only [insert, h1, h2, if_false, sortedFrom, Bool.and_eq_true, decide_eq_true_eq]
        exact ⟨s.1, ih (by omega) s.2⟩

theorem mem_insert {k : Nat} {a : α} {m : FMap α} {p : Nat × α} (h : p ∈ insert k a m) : p = (k, a) ∨ p ∈ m := by
  induction m with
  | nil => simpa [insert] using h
  | cons q m ih =>
    unfold insert at h
    split at h
    · simpa using h
    · split at h
      · rcases List.mem_cons.1 h with h | h
        · exact .inl h
        · exact .inr (List.mem_cons_of_mem _ h)
      · rcases List.mem_cons.1 h with h | h
        · exact .inr (h ▸ List.mem_cons_self)
        · exact (ih h).imp id (List.mem_cons_of_mem _)

/-- A key below every listed one is not listed. -/
theorem find_of_lt {b k : Nat} {m : FMap α} (s : sortedFrom b m = true) (h : k < b) : find k m = none := by
  induction m generalizing b with
  | nil => rfl
  | cons p m ih =>
    simp only [sortedFrom, Bool.and_eq_true, decide_eq_true_eq] at s
    have : p.1 ≠ k := by omega
    simp only [find, this, if_false]
    exact ih s.2 (by omega)

variable [DecidableEq α]

theorem wf_nil (d : α) : wf d ([] : FMap α) = true := rfl

theorem wf_filter (d : α) (f : Nat × α → Bool) {m : FMap α} (h : wf d m = true) : wf d (m.filter f) = true := by
  simp only [wf, Bool.and_eq_true, List.all_eq_true] at h ⊢
  exact ⟨sortedFrom_filter f h.1, fun p hp => h.2 p (List.mem_filter.1 hp).1⟩

/-- Writing keeps the canonical form. -/
theorem wf_setD (d : α) (k : Nat) (a : α) {m : FMap α} (h : wf d m = true) : wf d (setD d k a m) = true := by
  unfold setD
  split
  · rw [erase_eq_filter]; exact wf_filter d _ h
  · rename_i ne
    simp only [wf, Bool.and_eq_true, List.all_eq_true] at h ⊢
    refine ⟨sortedFrom_insert a (Nat.zero_le _) h.1, fun p hp => ?_⟩
    rcases mem_insert hp with rfl | hp
    · simpa using ne
    · exact h.2 p hp

end Sys2Proof.Machine.FMap
end

