-- ==== Sys2Proof/Laws/State.lean ====
section
/-!
SUPPORT. What each elementary update of `State` leaves alone and what it sets, one lemma for each field, so that no proof
unfolds a record update.
-/
namespace Sys2Proof.Machine.State

/-! ### onHart -/

@[simp] theorem onHart_time (s : State) (f : Hart → Hart) : (s.onHart f).time = s.time := rfl
@[simp] theorem onHart_moves (s : State) (f : Hart → Hart) : (s.onHart f).moves = s.moves := rfl
@[simp] theorem onHart_input (s : State) (f : Hart → Hart) : (s.onHart f).input = s.input := rfl
@[simp] theorem onHart_freeCtr (s : State) (f : Hart → Hart) : (s.onHart f).freeCtr = s.freeCtr := rfl
@[simp] theorem onHart_out (s : State) (f : Hart → Hart) : (s.onHart f).out = s.out := rfl
@[simp] theorem onHart_cur (s : State) (f : Hart → Hart) : (s.onHart f).cur = s.cur := rfl
@[simp] theorem onHart_crew (s : State) (f : Hart → Hart) : (s.onHart f).crew = s.crew := rfl
@[simp] theorem onHart_harts (s : State) (f : Hart → Hart) : (s.onHart f).harts = s.harts := rfl
@[simp] theorem onHart_crews (s : State) (f : Hart → Hart) : (s.onHart f).crews = s.crews := rfl
@[simp] theorem onHart_nextUid (s : State) (f : Hart → Hart) : (s.onHart f).nextUid = s.nextUid := rfl
@[simp] theorem onHart_nextTag (s : State) (f : Hart → Hart) : (s.onHart f).nextTag = s.nextTag := rfl
@[simp] theorem onHart_dcache (s : State) (f : Hart → Hart) : (s.onHart f).dcache = s.dcache := rfl
@[simp] theorem onHart_icache (s : State) (f : Hart → Hart) : (s.onHart f).icache = s.icache := rfl
@[simp] theorem onHart_mnet (s : State) (f : Hart → Hart) : (s.onHart f).mnet = s.mnet := rfl
@[simp] theorem onHart_recs (s : State) (f : Hart → Hart) : (s.onHart f).recs = s.recs := rfl
@[simp] theorem onHart_mem (s : State) (f : Hart → Hart) : (s.onHart f).mem = s.mem := rfl
@[simp] theorem onHart_pois (s : State) (f : Hart → Hart) : (s.onHart f).pois = s.pois := rfl
@[simp] theorem onHart_cregs (s : State) (f : Hart → Hart) : (s.onHart f).cregs = s.cregs := rfl
@[simp] theorem onHart_tlb (s : State) (f : Hart → Hart) : (s.onHart f).tlb = s.tlb := rfl
@[simp] theorem onHart_walks (s : State) (f : Hart → Hart) : (s.onHart f).walks = s.walks := rfl
@[simp] theorem onHart_invals (s : State) (f : Hart → Hart) : (s.onHart f).invals = s.invals := rfl
@[simp] theorem onHart_regs (s : State) (f : Hart → Hart) : (s.onHart f).regs = s.regs := rfl
@[simp] theorem onHart_ctrs (s : State) (f : Hart → Hart) : (s.onHart f).ctrs = s.ctrs := rfl
@[simp] theorem onHart_launches (s : State) (f : Hart → Hart) : (s.onHart f).launches = s.launches := rfl
@[simp] theorem onHart_nextSeq (s : State) (f : Hart → Hart) : (s.onHart f).nextSeq = s.nextSeq := rfl
@[simp] theorem onHart_nextId (s : State) (f : Hart → Hart) : (s.onHart f).nextId = s.nextId := rfl
@[simp] theorem onHart_cmds (s : State) (f : Hart → Hart) : (s.onHart f).cmds = s.cmds := rfl
@[simp] theorem onHart_fq (s : State) (f : Hart → Hart) : (s.onHart f).fq = s.fq := rfl
@[simp] theorem onHart_fqWait (s : State) (f : Hart → Hart) : (s.onHart f).fqWait = s.fqWait := rfl
@[simp] theorem onHart_faq (s : State) (f : Hart → Hart) : (s.onHart f).faq = s.faq := rfl
@[simp] theorem onHart_faqLost (s : State) (f : Hart → Hart) : (s.onHart f).faqLost = s.faqLost := rfl
@[simp] theorem onHart_errs (s : State) (f : Hart → Hart) : (s.onHart f).errs = s.errs := rfl
@[simp] theorem onHart_events (s : State) (f : Hart → Hart) : (s.onHart f).events = s.events := rfl
@[simp] theorem onHart_bpl (s : State) (f : Hart → Hart) : (s.onHart f).bpl = s.bpl := rfl
@[simp] theorem onHart_bplBusy (s : State) (f : Hart → Hart) : (s.onHart f).bplBusy = s.bplBusy := rfl
@[simp] theorem onHart_bplTemp (s : State) (f : Hart → Hart) : (s.onHart f).bplTemp = s.bplTemp := rfl
@[simp] theorem onHart_locked (s : State) (f : Hart → Hart) : (s.onHart f).locked = s.locked := rfl
@[simp] theorem onHart_lockOvf (s : State) (f : Hart → Hart) : (s.onHart f).lockOvf = s.lockOvf := rfl
@[simp] theorem onHart_pkg (s : State) (f : Hart → Hart) : (s.onHart f).pkg = s.pkg := rfl
@[simp] theorem onHart_gov (s : State) (f : Hart → Hart) : (s.onHart f).gov = s.gov := rfl
@[simp] theorem onHart_ports (s : State) (f : Hart → Hart) : (s.onHart f).ports = s.ports := rfl
@[simp] theorem onHart_dir (s : State) (f : Hart → Hart) : (s.onHart f).dir = s.dir := rfl
@[simp] theorem onHart_drops (s : State) (f : Hart → Hart) : (s.onHart f).drops = s.drops := rfl
@[simp] theorem onHart_dropLost (s : State) (f : Hart → Hart) : (s.onHart f).dropLost = s.dropLost := rfl
@[simp] theorem onHart_msixMask (s : State) (f : Hart → Hart) : (s.onHart f).msixMask = s.msixMask := rfl
@[simp] theorem onHart_msixPend (s : State) (f : Hart → Hart) : (s.onHart f).msixPend = s.msixPend := rfl
@[simp] theorem onHart_bar4Size (s : State) (f : Hart → Hart) : (s.onHart f).bar4Size = s.bar4Size := rfl
@[simp] theorem onHart_wire (s : State) (f : Hart → Hart) : (s.onHart f).wire = s.wire := rfl
@[simp] theorem onHart_held (s : State) (f : Hart → Hart) : (s.onHart f).held = s.held := rfl
@[simp] theorem onHart_nextHeld (s : State) (f : Hart → Hart) : (s.onHart f).nextHeld = s.nextHeld := rfl
@[simp] theorem onHart_lqTags (s : State) (f : Hart → Hart) : (s.onHart f).lqTags = s.lqTags := rfl
@[simp] theorem onHart_mcTags (s : State) (f : Hart → Hart) : (s.onHart f).mcTags = s.mcTags := rfl

/-! ### onCrew -/

@[simp] theorem onCrew_time (s : State) (f : Crew → Crew) : (s.onCrew f).time = s.time := rfl
@[simp] theorem onCrew_moves (s : State) (f : Crew → Crew) : (s.onCrew f).moves = s.moves := rfl
@[simp] theorem onCrew_input (s : State) (f : Crew → Crew) : (s.onCrew f).input = s.input := rfl
@[simp] theorem onCrew_freeCtr (s : State) (f : Crew → Crew) : (s.onCrew f).freeCtr = s.freeCtr := rfl
@[simp] theorem onCrew_out (s : State) (f : Crew → Crew) : (s.onCrew f).out = s.out := rfl
@[simp] theorem onCrew_cur (s : State) (f : Crew → Crew) : (s.onCrew f).cur = s.cur := rfl
@[simp] theorem onCrew_hart (s : State) (f : Crew → Crew) : (s.onCrew f).hart = s.hart := rfl
@[simp] theorem onCrew_harts (s : State) (f : Crew → Crew) : (s.onCrew f).harts = s.harts := rfl
@[simp] theorem onCrew_crews (s : State) (f : Crew → Crew) : (s.onCrew f).crews = s.crews := rfl
@[simp] theorem onCrew_nextUid (s : State) (f : Crew → Crew) : (s.onCrew f).nextUid = s.nextUid := rfl
@[simp] theorem onCrew_nextTag (s : State) (f : Crew → Crew) : (s.onCrew f).nextTag = s.nextTag := rfl
@[simp] theorem onCrew_dcache (s : State) (f : Crew → Crew) : (s.onCrew f).dcache = s.dcache := rfl
@[simp] theorem onCrew_icache (s : State) (f : Crew → Crew) : (s.onCrew f).icache = s.icache := rfl
@[simp] theorem onCrew_mnet (s : State) (f : Crew → Crew) : (s.onCrew f).mnet = s.mnet := rfl
@[simp] theorem onCrew_recs (s : State) (f : Crew → Crew) : (s.onCrew f).recs = s.recs := rfl
@[simp] theorem onCrew_mem (s : State) (f : Crew → Crew) : (s.onCrew f).mem = s.mem := rfl
@[simp] theorem onCrew_pois (s : State) (f : Crew → Crew) : (s.onCrew f).pois = s.pois := rfl
@[simp] theorem onCrew_cregs (s : State) (f : Crew → Crew) : (s.onCrew f).cregs = s.cregs := rfl
@[simp] theorem onCrew_tlb (s : State) (f : Crew → Crew) : (s.onCrew f).tlb = s.tlb := rfl
@[simp] theorem onCrew_walks (s : State) (f : Crew → Crew) : (s.onCrew f).walks = s.walks := rfl
@[simp] theorem onCrew_invals (s : State) (f : Crew → Crew) : (s.onCrew f).invals = s.invals := rfl
@[simp] theorem onCrew_regs (s : State) (f : Crew → Crew) : (s.onCrew f).regs = s.regs := rfl
@[simp] theorem onCrew_ctrs (s : State) (f : Crew → Crew) : (s.onCrew f).ctrs = s.ctrs := rfl
@[simp] theorem onCrew_launches (s : State) (f : Crew → Crew) : (s.onCrew f).launches = s.launches := rfl
@[simp] theorem onCrew_nextSeq (s : State) (f : Crew → Crew) : (s.onCrew f).nextSeq = s.nextSeq := rfl
@[simp] theorem onCrew_nextId (s : State) (f : Crew → Crew) : (s.onCrew f).nextId = s.nextId := rfl
@[simp] theorem onCrew_cmds (s : State) (f : Crew → Crew) : (s.onCrew f).cmds = s.cmds := rfl
@[simp] theorem onCrew_fq (s : State) (f : Crew → Crew) : (s.onCrew f).fq = s.fq := rfl
@[simp] theorem onCrew_fqWait (s : State) (f : Crew → Crew) : (s.onCrew f).fqWait = s.fqWait := rfl
@[simp] theorem onCrew_faq (s : State) (f : Crew → Crew) : (s.onCrew f).faq = s.faq := rfl
@[simp] theorem onCrew_faqLost (s : State) (f : Crew → Crew) : (s.onCrew f).faqLost = s.faqLost := rfl
@[simp] theorem onCrew_errs (s : State) (f : Crew → Crew) : (s.onCrew f).errs = s.errs := rfl
@[simp] theorem onCrew_events (s : State) (f : Crew → Crew) : (s.onCrew f).events = s.events := rfl
@[simp] theorem onCrew_bpl (s : State) (f : Crew → Crew) : (s.onCrew f).bpl = s.bpl := rfl
@[simp] theorem onCrew_bplBusy (s : State) (f : Crew → Crew) : (s.onCrew f).bplBusy = s.bplBusy := rfl
@[simp] theorem onCrew_bplTemp (s : State) (f : Crew → Crew) : (s.onCrew f).bplTemp = s.bplTemp := rfl
@[simp] theorem onCrew_locked (s : State) (f : Crew → Crew) : (s.onCrew f).locked = s.locked := rfl
@[simp] theorem onCrew_lockOvf (s : State) (f : Crew → Crew) : (s.onCrew f).lockOvf = s.lockOvf := rfl
@[simp] theorem onCrew_pkg (s : State) (f : Crew → Crew) : (s.onCrew f).pkg = s.pkg := rfl
@[simp] theorem onCrew_gov (s : State) (f : Crew → Crew) : (s.onCrew f).gov = s.gov := rfl
@[simp] theorem onCrew_ports (s : State) (f : Crew → Crew) : (s.onCrew f).ports = s.ports := rfl
@[simp] theorem onCrew_dir (s : State) (f : Crew → Crew) : (s.onCrew f).dir = s.dir := rfl
@[simp] theorem onCrew_drops (s : State) (f : Crew → Crew) : (s.onCrew f).drops = s.drops := rfl
@[simp] theorem onCrew_dropLost (s : State) (f : Crew → Crew) : (s.onCrew f).dropLost = s.dropLost := rfl
@[simp] theorem onCrew_msixMask (s : State) (f : Crew → Crew) : (s.onCrew f).msixMask = s.msixMask := rfl
@[simp] theorem onCrew_msixPend (s : State) (f : Crew → Crew) : (s.onCrew f).msixPend = s.msixPend := rfl
@[simp] theorem onCrew_bar4Size (s : State) (f : Crew → Crew) : (s.onCrew f).bar4Size = s.bar4Size := rfl
@[simp] theorem onCrew_wire (s : State) (f : Crew → Crew) : (s.onCrew f).wire = s.wire := rfl
@[simp] theorem onCrew_held (s : State) (f : Crew → Crew) : (s.onCrew f).held = s.held := rfl
@[simp] theorem onCrew_nextHeld (s : State) (f : Crew → Crew) : (s.onCrew f).nextHeld = s.nextHeld := rfl
@[simp] theorem onCrew_lqTags (s : State) (f : Crew → Crew) : (s.onCrew f).lqTags = s.lqTags := rfl
@[simp] theorem onCrew_mcTags (s : State) (f : Crew → Crew) : (s.onCrew f).mcTags = s.mcTags := rfl

/-! ### onCsr -/

@[simp] theorem onCsr_time (s : State) (f : Csrs → Csrs) : (s.onCsr f).time = s.time := rfl
@[simp] theorem onCsr_moves (s : State) (f : Csrs → Csrs) : (s.onCsr f).moves = s.moves := rfl
@[simp] theorem onCsr_input (s : State) (f : Csrs → Csrs) : (s.onCsr f).input = s.input := rfl
@[simp] theorem onCsr_freeCtr (s : State) (f : Csrs → Csrs) : (s.onCsr f).freeCtr = s.freeCtr := rfl
@[simp] theorem onCsr_out (s : State) (f : Csrs → Csrs) : (s.onCsr f).out = s.out := rfl
@[simp] theorem onCsr_cur (s : State) (f : Csrs → Csrs) : (s.onCsr f).cur = s.cur := rfl
@[simp] theorem onCsr_crew (s : State) (f : Csrs → Csrs) : (s.onCsr f).crew = s.crew := rfl
@[simp] theorem onCsr_harts (s : State) (f : Csrs → Csrs) : (s.onCsr f).harts = s.harts := rfl
@[simp] theorem onCsr_crews (s : State) (f : Csrs → Csrs) : (s.onCsr f).crews = s.crews := rfl
@[simp] theorem onCsr_nextUid (s : State) (f : Csrs → Csrs) : (s.onCsr f).nextUid = s.nextUid := rfl
@[simp] theorem onCsr_nextTag (s : State) (f : Csrs → Csrs) : (s.onCsr f).nextTag = s.nextTag := rfl
@[simp] theorem onCsr_dcache (s : State) (f : Csrs → Csrs) : (s.onCsr f).dcache = s.dcache := rfl
@[simp] theorem onCsr_icache (s : State) (f : Csrs → Csrs) : (s.onCsr f).icache = s.icache := rfl
@[simp] theorem onCsr_mnet (s : State) (f : Csrs → Csrs) : (s.onCsr f).mnet = s.mnet := rfl
@[simp] theorem onCsr_recs (s : State) (f : Csrs → Csrs) : (s.onCsr f).recs = s.recs := rfl
@[simp] theorem onCsr_mem (s : State) (f : Csrs → Csrs) : (s.onCsr f).mem = s.mem := rfl
@[simp] theorem onCsr_pois (s : State) (f : Csrs → Csrs) : (s.onCsr f).pois = s.pois := rfl
@[simp] theorem onCsr_cregs (s : State) (f : Csrs → Csrs) : (s.onCsr f).cregs = s.cregs := rfl
@[simp] theorem onCsr_tlb (s : State) (f : Csrs → Csrs) : (s.onCsr f).tlb = s.tlb := rfl
@[simp] theorem onCsr_walks (s : State) (f : Csrs → Csrs) : (s.onCsr f).walks = s.walks := rfl
@[simp] theorem onCsr_invals (s : State) (f : Csrs → Csrs) : (s.onCsr f).invals = s.invals := rfl
@[simp] theorem onCsr_regs (s : State) (f : Csrs → Csrs) : (s.onCsr f).regs = s.regs := rfl
@[simp] theorem onCsr_ctrs (s : State) (f : Csrs → Csrs) : (s.onCsr f).ctrs = s.ctrs := rfl
@[simp] theorem onCsr_launches (s : State) (f : Csrs → Csrs) : (s.onCsr f).launches = s.launches := rfl
@[simp] theorem onCsr_nextSeq (s : State) (f : Csrs → Csrs) : (s.onCsr f).nextSeq = s.nextSeq := rfl
@[simp] theorem onCsr_nextId (s : State) (f : Csrs → Csrs) : (s.onCsr f).nextId = s.nextId := rfl
@[simp] theorem onCsr_cmds (s : State) (f : Csrs → Csrs) : (s.onCsr f).cmds = s.cmds := rfl
@[simp] theorem onCsr_fq (s : State) (f : Csrs → Csrs) : (s.onCsr f).fq = s.fq := rfl
@[simp] theorem onCsr_fqWait (s : State) (f : Csrs → Csrs) : (s.onCsr f).fqWait = s.fqWait := rfl
@[simp] theorem onCsr_faq (s : State) (f : Csrs → Csrs) : (s.onCsr f).faq = s.faq := rfl
@[simp] theorem onCsr_faqLost (s : State) (f : Csrs → Csrs) : (s.onCsr f).faqLost = s.faqLost := rfl
@[simp] theorem onCsr_errs (s : State) (f : Csrs → Csrs) : (s.onCsr f).errs = s.errs := rfl
@[simp] theorem onCsr_events (s : State) (f : Csrs → Csrs) : (s.onCsr f).events = s.events := rfl
@[simp] theorem onCsr_bpl (s : State) (f : Csrs → Csrs) : (s.onCsr f).bpl = s.bpl := rfl
@[simp] theorem onCsr_bplBusy (s : State) (f : Csrs → Csrs) : (s.onCsr f).bplBusy = s.bplBusy := rfl
@[simp] theorem onCsr_bplTemp (s : State) (f : Csrs → Csrs) : (s.onCsr f).bplTemp = s.bplTemp := rfl
@[simp] theorem onCsr_locked (s : State) (f : Csrs → Csrs) : (s.onCsr f).locked = s.locked := rfl
@[simp] theorem onCsr_lockOvf (s : State) (f : Csrs → Csrs) : (s.onCsr f).lockOvf = s.lockOvf := rfl
@[simp] theorem onCsr_pkg (s : State) (f : Csrs → Csrs) : (s.onCsr f).pkg = s.pkg := rfl
@[simp] theorem onCsr_gov (s : State) (f : Csrs → Csrs) : (s.onCsr f).gov = s.gov := rfl
@[simp] theorem onCsr_ports (s : State) (f : Csrs → Csrs) : (s.onCsr f).ports = s.ports := rfl
@[simp] theorem onCsr_dir (s : State) (f : Csrs → Csrs) : (s.onCsr f).dir = s.dir := rfl
@[simp] theorem onCsr_drops (s : State) (f : Csrs → Csrs) : (s.onCsr f).drops = s.drops := rfl
@[simp] theorem onCsr_dropLost (s : State) (f : Csrs → Csrs) : (s.onCsr f).dropLost = s.dropLost := rfl
@[simp] theorem onCsr_msixMask (s : State) (f : Csrs → Csrs) : (s.onCsr f).msixMask = s.msixMask := rfl
@[simp] theorem onCsr_msixPend (s : State) (f : Csrs → Csrs) : (s.onCsr f).msixPend = s.msixPend := rfl
@[simp] theorem onCsr_bar4Size (s : State) (f : Csrs → Csrs) : (s.onCsr f).bar4Size = s.bar4Size := rfl
@[simp] theorem onCsr_wire (s : State) (f : Csrs → Csrs) : (s.onCsr f).wire = s.wire := rfl
@[simp] theorem onCsr_held (s : State) (f : Csrs → Csrs) : (s.onCsr f).held = s.held := rfl
@[simp] theorem onCsr_nextHeld (s : State) (f : Csrs → Csrs) : (s.onCsr f).nextHeld = s.nextHeld := rfl
@[simp] theorem onCsr_lqTags (s : State) (f : Csrs → Csrs) : (s.onCsr f).lqTags = s.lqTags := rfl
@[simp] theorem onCsr_mcTags (s : State) (f : Csrs → Csrs) : (s.onCsr f).mcTags = s.mcTags := rfl
@[simp] theorem onCsr_hart_live (s : State) (f : Csrs → Csrs) : (s.onCsr f).hart.live = s.hart.live := rfl
@[simp] theorem onCsr_hart_idx (s : State) (f : Csrs → Csrs) : (s.onCsr f).hart.idx = s.hart.idx := rfl
@[simp] theorem onCsr_hart_pc (s : State) (f : Csrs → Csrs) : (s.onCsr f).hart.pc = s.hart.pc := rfl
@[simp] theorem onCsr_hart_x (s : State) (f : Csrs → Csrs) : (s.onCsr f).hart.x = s.hart.x := rfl
@[simp] theorem onCsr_hart_ir (s : State) (f : Csrs → Csrs) : (s.onCsr f).hart.ir = s.hart.ir := rfl
@[simp] theorem onCsr_hart_ibuf (s : State) (f : Csrs → Csrs) : (s.onCsr f).hart.ibuf = s.hart.ibuf := rfl
@[simp] theorem onCsr_hart_imp (s : State) (f : Csrs → Csrs) : (s.onCsr f).hart.imp = s.hart.imp := rfl
@[simp] theorem onCsr_hart_nreg (s : State) (f : Csrs → Csrs) : (s.onCsr f).hart.nreg = s.hart.nreg := rfl
@[simp] theorem onCsr_hart_sewMax (s : State) (f : Csrs → Csrs) : (s.onCsr f).hart.sewMax = s.hart.sewMax := rfl
@[simp] theorem onCsr_hart_vlenb (s : State) (f : Csrs → Csrs) : (s.onCsr f).hart.vlenb = s.hart.vlenb := rfl
@[simp] theorem onCsr_hart_v (s : State) (f : Csrs → Csrs) : (s.onCsr f).hart.v = s.hart.v := rfl
@[simp] theorem onCsr_hart_vpois (s : State) (f : Csrs → Csrs) : (s.onCsr f).hart.vpois = s.hart.vpois := rfl
@[simp] theorem onCsr_hart_m (s : State) (f : Csrs → Csrs) : (s.onCsr f).hart.m = s.hart.m := rfl
@[simp] theorem onCsr_hart_wext (s : State) (f : Csrs → Csrs) : (s.onCsr f).hart.wext = s.hart.wext := rfl
@[simp] theorem onCsr_hart_tiles (s : State) (f : Csrs → Csrs) : (s.onCsr f).hart.tiles = s.hart.tiles := rfl
@[simp] theorem onCsr_hart_acc (s : State) (f : Csrs → Csrs) : (s.onCsr f).hart.acc = s.hart.acc := rfl
@[simp] theorem onCsr_hart_accPois (s : State) (f : Csrs → Csrs) : (s.onCsr f).hart.accPois = s.hart.accPois := rfl
@[simp] theorem onCsr_hart_pend (s : State) (f : Csrs → Csrs) : (s.onCsr f).hart.pend = s.hart.pend := rfl
@[simp] theorem onCsr_hart_sa (s : State) (f : Csrs → Csrs) : (s.onCsr f).hart.sa = s.hart.sa := rfl
@[simp] theorem onCsr_hart_sb (s : State) (f : Csrs → Csrs) : (s.onCsr f).hart.sb = s.hart.sb := rfl
@[simp] theorem onCsr_hart_scaled (s : State) (f : Csrs → Csrs) : (s.onCsr f).hart.scaled = s.hart.scaled := rfl
@[simp] theorem onCsr_hart_holdq (s : State) (f : Csrs → Csrs) : (s.onCsr f).hart.holdq = s.hart.holdq := rfl
@[simp] theorem onCsr_hart_trow (s : State) (f : Csrs → Csrs) : (s.onCsr f).hart.trow = s.hart.trow := rfl
@[simp] theorem onCsr_hart_ds (s : State) (f : Csrs → Csrs) : (s.onCsr f).hart.ds = s.hart.ds := rfl
@[simp] theorem onCsr_hart_cp (s : State) (f : Csrs → Csrs) : (s.onCsr f).hart.cp = s.hart.cp := rfl
@[simp] theorem onCsr_hart_staged (s : State) (f : Csrs → Csrs) : (s.onCsr f).hart.staged = s.hart.staged := rfl
@[simp] theorem onCsr_hart_drain (s : State) (f : Csrs → Csrs) : (s.onCsr f).hart.drain = s.hart.drain := rfl
@[simp] theorem onCsr_hart_merge (s : State) (f : Csrs → Csrs) : (s.onCsr f).hart.merge = s.hart.merge := rfl
@[simp] theorem onCsr_hart_asked (s : State) (f : Csrs → Csrs) : (s.onCsr f).hart.asked = s.hart.asked := rfl
@[simp] theorem onCsr_hart_answers (s : State) (f : Csrs → Csrs) : (s.onCsr f).hart.answers = s.hart.answers := rfl
@[simp] theorem onCsr_hart_posted (s : State) (f : Csrs → Csrs) : (s.onCsr f).hart.posted = s.hart.posted := rfl
@[simp] theorem onCsr_hart_pairs (s : State) (f : Csrs → Csrs) : (s.onCsr f).hart.pairs = s.hart.pairs := rfl
@[simp] theorem onCsr_hart_olds (s : State) (f : Csrs → Csrs) : (s.onCsr f).hart.olds = s.hart.olds := rfl
@[simp] theorem onCsr_hart_early (s : State) (f : Csrs → Csrs) : (s.onCsr f).hart.early = s.hart.early := rfl
@[simp] theorem onCsr_hart_stq (s : State) (f : Csrs → Csrs) : (s.onCsr f).hart.stq = s.hart.stq := rfl
@[simp] theorem onCsr_hart_late (s : State) (f : Csrs → Csrs) : (s.onCsr f).hart.late = s.hart.late := rfl
@[simp] theorem onCsr_hart_lockRun (s : State) (f : Csrs → Csrs) : (s.onCsr f).hart.lockRun = s.hart.lockRun := rfl
@[simp] theorem onCsr_hart_vlDs (s : State) (f : Csrs → Csrs) : (s.onCsr f).hart.vlDs = s.hart.vlDs := rfl
@[simp] theorem onCsr_hart_barAt (s : State) (f : Csrs → Csrs) : (s.onCsr f).hart.barAt = s.hart.barAt := rfl
@[simp] theorem onCsr_hart_barGo (s : State) (f : Csrs → Csrs) : (s.onCsr f).hart.barGo = s.hart.barGo := rfl
@[simp] theorem onCsr_hart_halted (s : State) (f : Csrs → Csrs) : (s.onCsr f).hart.halted = s.hart.halted := rfl
@[simp] theorem onCsr_hart_stopped (s : State) (f : Csrs → Csrs) : (s.onCsr f).hart.stopped = s.hart.stopped := rfl
@[simp] theorem onCsr_hart_deficit (s : State) (f : Csrs → Csrs) : (s.onCsr f).hart.deficit = s.hart.deficit := rfl
@[simp] theorem onCsr_hart_head (s : State) (f : Csrs → Csrs) : (s.onCsr f).hart.head = s.hart.head := rfl
@[simp] theorem onCsr_hart_limit (s : State) (f : Csrs → Csrs) : (s.onCsr f).hart.limit = s.hart.limit := rfl
@[simp] theorem onCsr_hart_conv (s : State) (f : Csrs → Csrs) : (s.onCsr f).hart.conv = s.hart.conv := rfl

/-! ### setX -/

@[simp] theorem setX_time (s : State) (r : Reg) (v : Word) : (s.setX r v).time = s.time := by unfold State.setX; split <;> rfl
@[simp] theorem setX_moves (s : State) (r : Reg) (v : Word) : (s.setX r v).moves = s.moves := by unfold State.setX; split <;> rfl
@[simp] theorem setX_input (s : State) (r : Reg) (v : Word) : (s.setX r v).input = s.input := by unfold State.setX; split <;> rfl
@[simp] theorem setX_freeCtr (s : State) (r : Reg) (v : Word) : (s.setX r v).freeCtr = s.freeCtr := by unfold State.setX; split <;> rfl
@[simp] theorem setX_out (s : State) (r : Reg) (v : Word) : (s.setX r v).out = s.out := by unfold State.setX; split <;> rfl
@[simp] theorem setX_cur (s : State) (r : Reg) (v : Word) : (s.setX r v).cur = s.cur := by unfold State.setX; split <;> rfl
@[simp] theorem setX_crew (s : State) (r : Reg) (v : Word) : (s.setX r v).crew = s.crew := by unfold State.setX; split <;> rfl
@[simp] theorem setX_harts (s : State) (r : Reg) (v : Word) : (s.setX r v).harts = s.harts := by unfold State.setX; split <;> rfl
@[simp] theorem setX_crews (s : State) (r : Reg) (v : Word) : (s.setX r v).crews = s.crews := by unfold State.setX; split <;> rfl
@[simp] theorem setX_nextUid (s : State) (r : Reg) (v : Word) : (s.setX r v).nextUid = s.nextUid := by unfold State.setX; split <;> rfl
@[simp] theorem setX_nextTag (s : State) (r : Reg) (v : Word) : (s.setX r v).nextTag = s.nextTag := by unfold State.setX; split <;> rfl
@[simp] theorem setX_dcache (s : State) (r : Reg) (v : Word) : (s.setX r v).dcache = s.dcache := by unfold State.setX; split <;> rfl
@[simp] theorem setX_icache (s : State) (r : Reg) (v : Word) : (s.setX r v).icache = s.icache := by unfold State.setX; split <;> rfl
@[simp] theorem setX_mnet (s : State) (r : Reg) (v : Word) : (s.setX r v).mnet = s.mnet := by unfold State.setX; split <;> rfl
@[simp] theorem setX_recs (s : State) (r : Reg) (v : Word) : (s.setX r v).recs = s.recs := by unfold State.setX; split <;> rfl
@[simp] theorem setX_mem (s : State) (r : Reg) (v : Word) : (s.setX r v).mem = s.mem := by unfold State.setX; split <;> rfl
@[simp] theorem setX_pois (s : State) (r : Reg) (v : Word) : (s.setX r v).pois = s.pois := by unfold State.setX; split <;> rfl
@[simp] theorem setX_cregs (s : State) (r : Reg) (v : Word) : (s.setX r v).cregs = s.cregs := by unfold State.setX; split <;> rfl
@[simp] theorem setX_tlb (s : State) (r : Reg) (v : Word) : (s.setX r v).tlb = s.tlb := by unfold State.setX; split <;> rfl
@[simp] theorem setX_walks (s : State) (r : Reg) (v : Word) : (s.setX r v).walks = s.walks := by unfold State.setX; split <;> rfl
@[simp] theorem setX_invals (s : State) (r : Reg) (v : Word) : (s.setX r v).invals = s.invals := by unfold State.setX; split <;> rfl
@[simp] theorem setX_regs (s : State) (r : Reg) (v : Word) : (s.setX r v).regs = s.regs := by unfold State.setX; split <;> rfl
@[simp] theorem setX_ctrs (s : State) (r : Reg) (v : Word) : (s.setX r v).ctrs = s.ctrs := by unfold State.setX; split <;> rfl
@[simp] theorem setX_launches (s : State) (r : Reg) (v : Word) : (s.setX r v).launches = s.launches := by unfold State.setX; split <;> rfl
@[simp] theorem setX_nextSeq (s : State) (r : Reg) (v : Word) : (s.setX r v).nextSeq = s.nextSeq := by unfold State.setX; split <;> rfl
@[simp] theorem setX_nextId (s : State) (r : Reg) (v : Word) : (s.setX r v).nextId = s.nextId := by unfold State.setX; split <;> rfl
@[simp] theorem setX_cmds (s : State) (r : Reg) (v : Word) : (s.setX r v).cmds = s.cmds := by unfold State.setX; split <;> rfl
@[simp] theorem setX_fq (s : State) (r : Reg) (v : Word) : (s.setX r v).fq = s.fq := by unfold State.setX; split <;> rfl
@[simp] theorem setX_fqWait (s : State) (r : Reg) (v : Word) : (s.setX r v).fqWait = s.fqWait := by unfold State.setX; split <;> rfl
@[simp] theorem setX_faq (s : State) (r : Reg) (v : Word) : (s.setX r v).faq = s.faq := by unfold State.setX; split <;> rfl
@[simp] theorem setX_faqLost (s : State) (r : Reg) (v : Word) : (s.setX r v).faqLost = s.faqLost := by unfold State.setX; split <;> rfl
@[simp] theorem setX_errs (s : State) (r : Reg) (v : Word) : (s.setX r v).errs = s.errs := by unfold State.setX; split <;> rfl
@[simp] theorem setX_events (s : State) (r : Reg) (v : Word) : (s.setX r v).events = s.events := by unfold State.setX; split <;> rfl
@[simp] theorem setX_bpl (s : State) (r : Reg) (v : Word) : (s.setX r v).bpl = s.bpl := by unfold State.setX; split <;> rfl
@[simp] theorem setX_bplBusy (s : State) (r : Reg) (v : Word) : (s.setX r v).bplBusy = s.bplBusy := by unfold State.setX; split <;> rfl
@[simp] theorem setX_bplTemp (s : State) (r : Reg) (v : Word) : (s.setX r v).bplTemp = s.bplTemp := by unfold State.setX; split <;> rfl
@[simp] theorem setX_locked (s : State) (r : Reg) (v : Word) : (s.setX r v).locked = s.locked := by unfold State.setX; split <;> rfl
@[simp] theorem setX_lockOvf (s : State) (r : Reg) (v : Word) : (s.setX r v).lockOvf = s.lockOvf := by unfold State.setX; split <;> rfl
@[simp] theorem setX_pkg (s : State) (r : Reg) (v : Word) : (s.setX r v).pkg = s.pkg := by unfold State.setX; split <;> rfl
@[simp] theorem setX_gov (s : State) (r : Reg) (v : Word) : (s.setX r v).gov = s.gov := by unfold State.setX; split <;> rfl
@[simp] theorem setX_ports (s : State) (r : Reg) (v : Word) : (s.setX r v).ports = s.ports := by unfold State.setX; split <;> rfl
@[simp] theorem setX_dir (s : State) (r : Reg) (v : Word) : (s.setX r v).dir = s.dir := by unfold State.setX; split <;> rfl
@[simp] theorem setX_drops (s : State) (r : Reg) (v : Word) : (s.setX r v).drops = s.drops := by unfold State.setX; split <;> rfl
@[simp] theorem setX_dropLost (s : State) (r : Reg) (v : Word) : (s.setX r v).dropLost = s.dropLost := by unfold State.setX; split <;> rfl
@[simp] theorem setX_msixMask (s : State) (r : Reg) (v : Word) : (s.setX r v).msixMask = s.msixMask := by unfold State.setX; split <;> rfl
@[simp] theorem setX_msixPend (s : State) (r : Reg) (v : Word) : (s.setX r v).msixPend = s.msixPend := by unfold State.setX; split <;> rfl
@[simp] theorem setX_bar4Size (s : State) (r : Reg) (v : Word) : (s.setX r v).bar4Size = s.bar4Size := by unfold State.setX; split <;> rfl
@[simp] theorem setX_wire (s : State) (r : Reg) (v : Word) : (s.setX r v).wire = s.wire := by unfold State.setX; split <;> rfl
@[simp] theorem setX_held (s : State) (r : Reg) (v : Word) : (s.setX r v).held = s.held := by unfold State.setX; split <;> rfl
@[simp] theorem setX_nextHeld (s : State) (r : Reg) (v : Word) : (s.setX r v).nextHeld = s.nextHeld := by unfold State.setX; split <;> rfl
@[simp] theorem setX_lqTags (s : State) (r : Reg) (v : Word) : (s.setX r v).lqTags = s.lqTags := by unfold State.setX; split <;> rfl
@[simp] theorem setX_mcTags (s : State) (r : Reg) (v : Word) : (s.setX r v).mcTags = s.mcTags := by unfold State.setX; split <;> rfl
@[simp] theorem setX_hart_live (s : State) (r : Reg) (v : Word) : (s.setX r v).hart.live = s.hart.live := by unfold State.setX; split <;> rfl
@[simp] theorem setX_hart_idx (s : State) (r : Reg) (v : Word) : (s.setX r v).hart.idx = s.hart.idx := by unfold State.setX; split <;> rfl
@[simp] theorem setX_hart_pc (s : State) (r : Reg) (v : Word) : (s.setX r v).hart.pc = s.hart.pc := by unfold State.setX; split <;> rfl
@[simp] theorem setX_hart_ir (s : State) (r : Reg) (v : Word) : (s.setX r v).hart.ir = s.hart.ir := by unfold State.setX; split <;> rfl
@[simp] theorem setX_hart_ibuf (s : State) (r : Reg) (v : Word) : (s.setX r v).hart.ibuf = s.hart.ibuf := by unfold State.setX; split <;> rfl
@[simp] theorem setX_hart_csr (s : State) (r : Reg) (v : Word) : (s.setX r v).hart.csr = s.hart.csr := by unfold State.setX; split <;> rfl
@[simp] theorem setX_hart_imp (s : State) (r : Reg) (v : Word) : (s.setX r v).hart.imp = s.hart.imp := by unfold State.setX; split <;> rfl
@[simp] theorem setX_hart_nreg (s : State) (r : Reg) (v : Word) : (s.setX r v).hart.nreg = s.hart.nreg := by unfold State.setX; split <;> rfl
@[simp] theorem setX_hart_sewMax (s : State) (r : Reg) (v : Word) : (s.setX r v).hart.sewMax = s.hart.sewMax := by unfold State.setX; split <;> rfl
@[simp] theorem setX_hart_vlenb (s : State) (r : Reg) (v : Word) : (s.setX r v).hart.vlenb = s.hart.vlenb := by unfold State.setX; split <;> rfl
@[simp] theorem setX_hart_v (s : State) (r : Reg) (v : Word) : (s.setX r v).hart.v = s.hart.v := by unfold State.setX; split <;> rfl
@[simp] theorem setX_hart_vpois (s : State) (r : Reg) (v : Word) : (s.setX r v).hart.vpois = s.hart.vpois := by unfold State.setX; split <;> rfl
@[simp] theorem setX_hart_m (s : State) (r : Reg) (v : Word) : (s.setX r v).hart.m = s.hart.m := by unfold State.setX; split <;> rfl
@[simp] theorem setX_hart_wext (s : State) (r : Reg) (v : Word) : (s.setX r v).hart.wext = s.hart.wext := by unfold State.setX; split <;> rfl
@[simp] theorem setX_hart_tiles (s : State) (r : Reg) (v : Word) : (s.setX r v).hart.tiles = s.hart.tiles := by unfold State.setX; split <;> rfl
@[simp] theorem setX_hart_acc (s : State) (r : Reg) (v : Word) : (s.setX r v).hart.acc = s.hart.acc := by unfold State.setX; split <;> rfl
@[simp] theorem setX_hart_accPois (s : State) (r : Reg) (v : Word) : (s.setX r v).hart.accPois = s.hart.accPois := by unfold State.setX; split <;> rfl
@[simp] theorem setX_hart_pend (s : State) (r : Reg) (v : Word) : (s.setX r v).hart.pend = s.hart.pend := by unfold State.setX; split <;> rfl
@[simp] theorem setX_hart_sa (s : State) (r : Reg) (v : Word) : (s.setX r v).hart.sa = s.hart.sa := by unfold State.setX; split <;> rfl
@[simp] theorem setX_hart_sb (s : State) (r : Reg) (v : Word) : (s.setX r v).hart.sb = s.hart.sb := by unfold State.setX; split <;> rfl
@[simp] theorem setX_hart_scaled (s : State) (r : Reg) (v : Word) : (s.setX r v).hart.scaled = s.hart.scaled := by unfold State.setX; split <;> rfl
@[simp] theorem setX_hart_holdq (s : State) (r : Reg) (v : Word) : (s.setX r v).hart.holdq = s.hart.holdq := by unfold State.setX; split <;> rfl
@[simp] theorem setX_hart_trow (s : State) (r : Reg) (v : Word) : (s.setX r v).hart.trow = s.hart.trow := by unfold State.setX; split <;> rfl
@[simp] theorem setX_hart_ds (s : State) (r : Reg) (v : Word) : (s.setX r v).hart.ds = s.hart.ds := by unfold State.setX; split <;> rfl
@[simp] theorem setX_hart_cp (s : State) (r : Reg) (v : Word) : (s.setX r v).hart.cp = s.hart.cp := by unfold State.setX; split <;> rfl
@[simp] theorem setX_hart_staged (s : State) (r : Reg) (v : Word) : (s.setX r v).hart.staged = s.hart.staged := by unfold State.setX; split <;> rfl
@[simp] theorem setX_hart_drain (s : State) (r : Reg) (v : Word) : (s.setX r v).hart.drain = s.hart.drain := by unfold State.setX; split <;> rfl
@[simp] theorem setX_hart_merge (s : State) (r : Reg) (v : Word) : (s.setX r v).hart.merge = s.hart.merge := by unfold State.setX; split <;> rfl
@[simp] theorem setX_hart_asked (s : State) (r : Reg) (v : Word) : (s.setX r v).hart.asked = s.hart.asked := by unfold State.setX; split <;> rfl
@[simp] theorem setX_hart_answers (s : State) (r : Reg) (v : Word) : (s.setX r v).hart.answers = s.hart.answers := by unfold State.setX; split <;> rfl
@[simp] theorem setX_hart_posted (s : State) (r : Reg) (v : Word) : (s.setX r v).hart.posted = s.hart.posted := by unfold State.setX; split <;> rfl
@[simp] theorem setX_hart_pairs (s : State) (r : Reg) (v : Word) : (s.setX r v).hart.pairs = s.hart.pairs := by unfold State.setX; split <;> rfl
@[simp] theorem setX_hart_olds (s : State) (r : Reg) (v : Word) : (s.setX r v).hart.olds = s.hart.olds := by unfold State.setX; split <;> rfl
@[simp] theorem setX_hart_early (s : State) (r : Reg) (v : Word) : (s.setX r v).hart.early = s.hart.early := by unfold State.setX; split <;> rfl
@[simp] theorem setX_hart_stq (s : State) (r : Reg) (v : Word) : (s.setX r v).hart.stq = s.hart.stq := by unfold State.setX; split <;> rfl
@[simp] theorem setX_hart_late (s : State) (r : Reg) (v : Word) : (s.setX r v).hart.late = s.hart.late := by unfold State.setX; split <;> rfl
@[simp] theorem setX_hart_lockRun (s : State) (r : Reg) (v : Word) : (s.setX r v).hart.lockRun = s.hart.lockRun := by unfold State.setX; split <;> rfl
@[simp] theorem setX_hart_vlDs (s : State) (r : Reg) (v : Word) : (s.setX r v).hart.vlDs = s.hart.vlDs := by unfold State.setX; split <;> rfl
@[simp] theorem setX_hart_barAt (s : State) (r : Reg) (v : Word) : (s.setX r v).hart.barAt = s.hart.barAt := by unfold State.setX; split <;> rfl
@[simp] theorem setX_hart_barGo (s : State) (r : Reg) (v : Word) : (s.setX r v).hart.barGo = s.hart.barGo := by unfold State.setX; split <;> rfl
@[simp] theorem setX_hart_halted (s : State) (r : Reg) (v : Word) : (s.setX r v).hart.halted = s.hart.halted := by unfold State.setX; split <;> rfl
@[simp] theorem setX_hart_stopped (s : State) (r : Reg) (v : Word) : (s.setX r v).hart.stopped = s.hart.stopped := by unfold State.setX; split <;> rfl
@[simp] theorem setX_hart_deficit (s : State) (r : Reg) (v : Word) : (s.setX r v).hart.deficit = s.hart.deficit := by unfold State.setX; split <;> rfl
@[simp] theorem setX_hart_head (s : State) (r : Reg) (v : Word) : (s.setX r v).hart.head = s.hart.head := by unfold State.setX; split <;> rfl
@[simp] theorem setX_hart_limit (s : State) (r : Reg) (v : Word) : (s.setX r v).hart.limit = s.hart.limit := by unfold State.setX; split <;> rfl
@[simp] theorem setX_hart_conv (s : State) (r : Reg) (v : Word) : (s.setX r v).hart.conv = s.hart.conv := by unfold State.setX; split <;> rfl

/-! ### setPc -/

@[simp] theorem setPc_time (s : State) (v : Word) : (s.setPc v).time = s.time := rfl
@[simp] theorem setPc_moves (s : State) (v : Word) : (s.setPc v).moves = s.moves := rfl
@[simp] theorem setPc_input (s : State) (v : Word) : (s.setPc v).input = s.input := rfl
@[simp] theorem setPc_freeCtr (s : State) (v : Word) : (s.setPc v).freeCtr = s.freeCtr := rfl
@[simp] theorem setPc_out (s : State) (v : Word) : (s.setPc v).out = s.out := rfl
@[simp] theorem setPc_cur (s : State) (v : Word) : (s.setPc v).cur = s.cur := rfl
@[simp] theorem setPc_crew (s : State) (v : Word) : (s.setPc v).crew = s.crew := rfl
@[simp] theorem setPc_harts (s : State) (v : Word) : (s.setPc v).harts = s.harts := rfl
@[simp] theorem setPc_crews (s : State) (v : Word) : (s.setPc v).crews = s.crews := rfl
@[simp] theorem setPc_nextUid (s : State) (v : Word) : (s.setPc v).nextUid = s.nextUid := rfl
@[simp] theorem setPc_nextTag (s : State) (v : Word) : (s.setPc v).nextTag = s.nextTag := rfl
@[simp] theorem setPc_dcache (s : State) (v : Word) : (s.setPc v).dcache = s.dcache := rfl
@[simp] theorem setPc_icache (s : State) (v : Word) : (s.setPc v).icache = s.icache := rfl
@[simp] theorem setPc_mnet (s : State) (v : Word) : (s.setPc v).mnet = s.mnet := rfl
@[simp] theorem setPc_recs (s : State) (v : Word) : (s.setPc v).recs = s.recs := rfl
@[simp] theorem setPc_mem (s : State) (v : Word) : (s.setPc v).mem = s.mem := rfl
@[simp] theorem setPc_pois (s : State) (v : Word) : (s.setPc v).pois = s.pois := rfl
@[simp] theorem setPc_cregs (s : State) (v : Word) : (s.setPc v).cregs = s.cregs := rfl
@[simp] theorem setPc_tlb (s : State) (v : Word) : (s.setPc v).tlb = s.tlb := rfl
@[simp] theorem setPc_walks (s : State) (v : Word) : (s.setPc v).walks = s.walks := rfl
@[simp] theorem setPc_invals (s : State) (v : Word) : (s.setPc v).invals = s.invals := rfl
@[simp] theorem setPc_regs (s : State) (v : Word) : (s.setPc v).regs = s.regs := rfl
@[simp] theorem setPc_ctrs (s : State) (v : Word) : (s.setPc v).ctrs = s.ctrs := rfl
@[simp] theorem setPc_launches (s : State) (v : Word) : (s.setPc v).launches = s.launches := rfl
@[simp] theorem setPc_nextSeq (s : State) (v : Word) : (s.setPc v).nextSeq = s.nextSeq := rfl
@[simp] theorem setPc_nextId (s : State) (v : Word) : (s.setPc v).nextId = s.nextId := rfl
@[simp] theorem setPc_cmds (s : State) (v : Word) : (s.setPc v).cmds = s.cmds := rfl
@[simp] theorem setPc_fq (s : State) (v : Word) : (s.setPc v).fq = s.fq := rfl
@[simp] theorem setPc_fqWait (s : State) (v : Word) : (s.setPc v).fqWait = s.fqWait := rfl
@[simp] theorem setPc_faq (s : State) (v : Word) : (s.setPc v).faq = s.faq := rfl
@[simp] theorem setPc_faqLost (s : State) (v : Word) : (s.setPc v).faqLost = s.faqLost := rfl
@[simp] theorem setPc_errs (s : State) (v : Word) : (s.setPc v).errs = s.errs := rfl
@[simp] theorem setPc_events (s : State) (v : Word) : (s.setPc v).events = s.events := rfl
@[simp] theorem setPc_bpl (s : State) (v : Word) : (s.setPc v).bpl = s.bpl := rfl
@[simp] theorem setPc_bplBusy (s : State) (v : Word) : (s.setPc v).bplBusy = s.bplBusy := rfl
@[simp] theorem setPc_bplTemp (s : State) (v : Word) : (s.setPc v).bplTemp = s.bplTemp := rfl
@[simp] theorem setPc_locked (s : State) (v : Word) : (s.setPc v).locked = s.locked := rfl
@[simp] theorem setPc_lockOvf (s : State) (v : Word) : (s.setPc v).lockOvf = s.lockOvf := rfl
@[simp] theorem setPc_pkg (s : State) (v : Word) : (s.setPc v).pkg = s.pkg := rfl
@[simp] theorem setPc_gov (s : State) (v : Word) : (s.setPc v).gov = s.gov := rfl
@[simp] theorem setPc_ports (s : State) (v : Word) : (s.setPc v).ports = s.ports := rfl
@[simp] theorem setPc_dir (s : State) (v : Word) : (s.setPc v).dir = s.dir := rfl
@[simp] theorem setPc_drops (s : State) (v : Word) : (s.setPc v).drops = s.drops := rfl
@[simp] theorem setPc_dropLost (s : State) (v : Word) : (s.setPc v).dropLost = s.dropLost := rfl
@[simp] theorem setPc_msixMask (s : State) (v : Word) : (s.setPc v).msixMask = s.msixMask := rfl
@[simp] theorem setPc_msixPend (s : State) (v : Word) : (s.setPc v).msixPend = s.msixPend := rfl
@[simp] theorem setPc_bar4Size (s : State) (v : Word) : (s.setPc v).bar4Size = s.bar4Size := rfl
@[simp] theorem setPc_wire (s : State) (v : Word) : (s.setPc v).wire = s.wire := rfl
@[simp] theorem setPc_held (s : State) (v : Word) : (s.setPc v).held = s.held := rfl
@[simp] theorem setPc_nextHeld (s : State) (v : Word) : (s.setPc v).nextHeld = s.nextHeld := rfl
@[simp] theorem setPc_lqTags (s : State) (v : Word) : (s.setPc v).lqTags = s.lqTags := rfl
@[simp] theorem setPc_mcTags (s : State) (v : Word) : (s.setPc v).mcTags = s.mcTags := rfl
@[simp] theorem setPc_hart_live (s : State) (v : Word) : (s.setPc v).hart.live = s.hart.live := rfl
@[simp] theorem setPc_hart_idx (s : State) (v : Word) : (s.setPc v).hart.idx = s.hart.idx := rfl
@[simp] theorem setPc_hart_x (s : State) (v : Word) : (s.setPc v).hart.x = s.hart.x := rfl
@[simp] theorem setPc_hart_ir (s : State) (v : Word) : (s.setPc v).hart.ir = s.hart.ir := rfl
@[simp] theorem setPc_hart_ibuf (s : State) (v : Word) : (s.setPc v).hart.ibuf = s.hart.ibuf := rfl
@[simp] theorem setPc_hart_csr (s : State) (v : Word) : (s.setPc v).hart.csr = s.hart.csr := rfl
@[simp] theorem setPc_hart_imp (s : State) (v : Word) : (s.setPc v).hart.imp = s.hart.imp := rfl
@[simp] theorem setPc_hart_nreg (s : State) (v : Word) : (s.setPc v).hart.nreg = s.hart.nreg := rfl
@[simp] theorem setPc_hart_sewMax (s : State) (v : Word) : (s.setPc v).hart.sewMax = s.hart.sewMax := rfl
@[simp] theorem setPc_hart_vlenb (s : State) (v : Word) : (s.setPc v).hart.vlenb = s.hart.vlenb := rfl
@[simp] theorem setPc_hart_v (s : State) (v : Word) : (s.setPc v).hart.v = s.hart.v := rfl
@[simp] theorem setPc_hart_vpois (s : State) (v : Word) : (s.setPc v).hart.vpois = s.hart.vpois := rfl
@[simp] theorem setPc_hart_m (s : State) (v : Word) : (s.setPc v).hart.m = s.hart.m := rfl
@[simp] theorem setPc_hart_wext (s : State) (v : Word) : (s.setPc v).hart.wext = s.hart.wext := rfl
@[simp] theorem setPc_hart_tiles (s : State) (v : Word) : (s.setPc v).hart.tiles = s.hart.tiles := rfl
@[simp] theorem setPc_hart_acc (s : State) (v : Word) : (s.setPc v).hart.acc = s.hart.acc := rfl
@[simp] theorem setPc_hart_accPois (s : State) (v : Word) : (s.setPc v).hart.accPois = s.hart.accPois := rfl
@[simp] theorem setPc_hart_pend (s : State) (v : Word) : (s.setPc v).hart.pend = s.hart.pend := rfl
@[simp] theorem setPc_hart_sa (s : State) (v : Word) : (s.setPc v).hart.sa = s.hart.sa := rfl
@[simp] theorem setPc_hart_sb (s : State) (v : Word) : (s.setPc v).hart.sb = s.hart.sb := rfl
@[simp] theorem setPc_hart_scaled (s : State) (v : Word) : (s.setPc v).hart.scaled = s.hart.scaled := rfl
@[simp] theorem setPc_hart_holdq (s : State) (v : Word) : (s.setPc v).hart.holdq = s.hart.holdq := rfl
@[simp] theorem setPc_hart_trow (s : State) (v : Word) : (s.setPc v).hart.trow = s.hart.trow := rfl
@[simp] theorem setPc_hart_ds (s : State) (v : Word) : (s.setPc v).hart.ds = s.hart.ds := rfl
@[simp] theorem setPc_hart_cp (s : State) (v : Word) : (s.setPc v).hart.cp = s.hart.cp := rfl
@[simp] theorem setPc_hart_staged (s : State) (v : Word) : (s.setPc v).hart.staged = s.hart.staged := rfl
@[simp] theorem setPc_hart_drain (s : State) (v : Word) : (s.setPc v).hart.drain = s.hart.drain := rfl
@[simp] theorem setPc_hart_merge (s : State) (v : Word) : (s.setPc v).hart.merge = s.hart.merge := rfl
@[simp] theorem setPc_hart_asked (s : State) (v : Word) : (s.setPc v).hart.asked = s.hart.asked := rfl
@[simp] theorem setPc_hart_answers (s : State) (v : Word) : (s.setPc v).hart.answers = s.hart.answers := rfl
@[simp] theorem setPc_hart_posted (s : State) (v : Word) : (s.setPc v).hart.posted = s.hart.posted := rfl
@[simp] theorem setPc_hart_pairs (s : State) (v : Word) : (s.setPc v).hart.pairs = s.hart.pairs := rfl
@[simp] theorem setPc_hart_olds (s : State) (v : Word) : (s.setPc v).hart.olds = s.hart.olds := rfl
@[simp] theorem setPc_hart_early (s : State) (v : Word) : (s.setPc v).hart.early = s.hart.early := rfl
@[simp] theorem setPc_hart_stq (s : State) (v : Word) : (s.setPc v).hart.stq = s.hart.stq := rfl
@[simp] theorem setPc_hart_late (s : State) (v : Word) : (s.setPc v).hart.late = s.hart.late := rfl
@[simp] theorem setPc_hart_lockRun (s : State) (v : Word) : (s.setPc v).hart.lockRun = s.hart.lockRun := rfl
@[simp] theorem setPc_hart_vlDs (s : State) (v : Word) : (s.setPc v).hart.vlDs = s.hart.vlDs := rfl
@[simp] theorem setPc_hart_barAt (s : State) (v : Word) : (s.setPc v).hart.barAt = s.hart.barAt := rfl
@[simp] theorem setPc_hart_barGo (s : State) (v : Word) : (s.setPc v).hart.barGo = s.hart.barGo := rfl
@[simp] theorem setPc_hart_halted (s : State) (v : Word) : (s.setPc v).hart.halted = s.hart.halted := rfl
@[simp] theorem setPc_hart_stopped (s : State) (v : Word) : (s.setPc v).hart.stopped = s.hart.stopped := rfl
@[simp] theorem setPc_hart_deficit (s : State) (v : Word) : (s.setPc v).hart.deficit = s.hart.deficit := rfl
@[simp] theorem setPc_hart_head (s : State) (v : Word) : (s.setPc v).hart.head = s.hart.head := rfl
@[simp] theorem setPc_hart_limit (s : State) (v : Word) : (s.setPc v).hart.limit = s.hart.limit := rfl
@[simp] theorem setPc_hart_conv (s : State) (v : Word) : (s.setPc v).hart.conv = s.hart.conv := rfl

/-! ### advance -/

@[simp] theorem advance_time (s : State) (n : Nat) : (s.advance n).time = s.time := rfl
@[simp] theorem advance_moves (s : State) (n : Nat) : (s.advance n).moves = s.moves := rfl
@[simp] theorem advance_input (s : State) (n : Nat) : (s.advance n).input = s.input := rfl
@[simp] theorem advance_freeCtr (s : State) (n : Nat) : (s.advance n).freeCtr = s.freeCtr := rfl
@[simp] theorem advance_out (s : State) (n : Nat) : (s.advance n).out = s.out := rfl
@[simp] theorem advance_cur (s : State) (n : Nat) : (s.advance n).cur = s.cur := rfl
@[simp] theorem advance_crew (s : State) (n : Nat) : (s.advance n).crew = s.crew := rfl
@[simp] theorem advance_harts (s : State) (n : Nat) : (s.advance n).harts = s.harts := rfl
@[simp] theorem advance_crews (s : State) (n : Nat) : (s.advance n).crews = s.crews := rfl
@[simp] theorem advance_nextUid (s : State) (n : Nat) : (s.advance n).nextUid = s.nextUid := rfl
@[simp] theorem advance_nextTag (s : State) (n : Nat) : (s.advance n).nextTag = s.nextTag := rfl
@[simp] theorem advance_dcache (s : State) (n : Nat) : (s.advance n).dcache = s.dcache := rfl
@[simp] theorem advance_icache (s : State) (n : Nat) : (s.advance n).icache = s.icache := rfl
@[simp] theorem advance_mnet (s : State) (n : Nat) : (s.advance n).mnet = s.mnet := rfl
@[simp] theorem advance_recs (s : State) (n : Nat) : (s.advance n).recs = s.recs := rfl
@[simp] theorem advance_mem (s : State) (n : Nat) : (s.advance n).mem = s.mem := rfl
@[simp] theorem advance_pois (s : State) (n : Nat) : (s.advance n).pois = s.pois := rfl
@[simp] theorem advance_cregs (s : State) (n : Nat) : (s.advance n).cregs = s.cregs := rfl
@[simp] theorem advance_tlb (s : State) (n : Nat) : (s.advance n).tlb = s.tlb := rfl
@[simp] theorem advance_walks (s : State) (n : Nat) : (s.advance n).walks = s.walks := rfl
@[simp] theorem advance_invals (s : State) (n : Nat) : (s.advance n).invals = s.invals := rfl
@[simp] theorem advance_regs (s : State) (n : Nat) : (s.advance n).regs = s.regs := rfl
@[simp] theorem advance_ctrs (s : State) (n : Nat) : (s.advance n).ctrs = s.ctrs := rfl
@[simp] theorem advance_launches (s : State) (n : Nat) : (s.advance n).launches = s.launches := rfl
@[simp] theorem advance_nextSeq (s : State) (n : Nat) : (s.advance n).nextSeq = s.nextSeq := rfl
@[simp] theorem advance_nextId (s : State) (n : Nat) : (s.advance n).nextId = s.nextId := rfl
@[simp] theorem advance_cmds (s : State) (n : Nat) : (s.advance n).cmds = s.cmds := rfl
@[simp] theorem advance_fq (s : State) (n : Nat) : (s.advance n).fq = s.fq := rfl
@[simp] theorem advance_fqWait (s : State) (n : Nat) : (s.advance n).fqWait = s.fqWait := rfl
@[simp] theorem advance_faq (s : State) (n : Nat) : (s.advance n).faq = s.faq := rfl
@[simp] theorem advance_faqLost (s : State) (n : Nat) : (s.advance n).faqLost = s.faqLost := rfl
@[simp] theorem advance_errs (s : State) (n : Nat) : (s.advance n).errs = s.errs := rfl
@[simp] theorem advance_events (s : State) (n : Nat) : (s.advance n).events = s.events := rfl
@[simp] theorem advance_bpl (s : State) (n : Nat) : (s.advance n).bpl = s.bpl := rfl
@[simp] theorem advance_bplBusy (s : State) (n : Nat) : (s.advance n).bplBusy = s.bplBusy := rfl
@[simp] theorem advance_bplTemp (s : State) (n : Nat) : (s.advance n).bplTemp = s.bplTemp := rfl
@[simp] theorem advance_locked (s : State) (n : Nat) : (s.advance n).locked = s.locked := rfl
@[simp] theorem advance_lockOvf (s : State) (n : Nat) : (s.advance n).lockOvf = s.lockOvf := rfl
@[simp] theorem advance_pkg (s : State) (n : Nat) : (s.advance n).pkg = s.pkg := rfl
@[simp] theorem advance_gov (s : State) (n : Nat) : (s.advance n).gov = s.gov := rfl
@[simp] theorem advance_ports (s : State) (n : Nat) : (s.advance n).ports = s.ports := rfl
@[simp] theorem advance_dir (s : State) (n : Nat) : (s.advance n).dir = s.dir := rfl
@[simp] theorem advance_drops (s : State) (n : Nat) : (s.advance n).drops = s.drops := rfl
@[simp] theorem advance_dropLost (s : State) (n : Nat) : (s.advance n).dropLost = s.dropLost := rfl
@[simp] theorem advance_msixMask (s : State) (n : Nat) : (s.advance n).msixMask = s.msixMask := rfl
@[simp] theorem advance_msixPend (s : State) (n : Nat) : (s.advance n).msixPend = s.msixPend := rfl
@[simp] theorem advance_bar4Size (s : State) (n : Nat) : (s.advance n).bar4Size = s.bar4Size := rfl
@[simp] theorem advance_wire (s : State) (n : Nat) : (s.advance n).wire = s.wire := rfl
@[simp] theorem advance_held (s : State) (n : Nat) : (s.advance n).held = s.held := rfl
@[simp] theorem advance_nextHeld (s : State) (n : Nat) : (s.advance n).nextHeld = s.nextHeld := rfl
@[simp] theorem advance_lqTags (s : State) (n : Nat) : (s.advance n).lqTags = s.lqTags := rfl
@[simp] theorem advance_mcTags (s : State) (n : Nat) : (s.advance n).mcTags = s.mcTags := rfl
@[simp] theorem advance_hart_live (s : State) (n : Nat) : (s.advance n).hart.live = s.hart.live := rfl
@[simp] theorem advance_hart_idx (s : State) (n : Nat) : (s.advance n).hart.idx = s.hart.idx := rfl
@[simp] theorem advance_hart_x (s : State) (n : Nat) : (s.advance n).hart.x = s.hart.x := rfl
@[simp] theorem advance_hart_ir (s : State) (n : Nat) : (s.advance n).hart.ir = s.hart.ir := rfl
@[simp] theorem advance_hart_ibuf (s : State) (n : Nat) : (s.advance n).hart.ibuf = s.hart.ibuf := rfl
@[simp] theorem advance_hart_imp (s : State) (n : Nat) : (s.advance n).hart.imp = s.hart.imp := rfl
@[simp] theorem advance_hart_nreg (s : State) (n : Nat) : (s.advance n).hart.nreg = s.hart.nreg := rfl
@[simp] theorem advance_hart_sewMax (s : State) (n : Nat) : (s.advance n).hart.sewMax = s.hart.sewMax := rfl
@[simp] theorem advance_hart_vlenb (s : State) (n : Nat) : (s.advance n).hart.vlenb = s.hart.vlenb := rfl
@[simp] theorem advance_hart_v (s : State) (n : Nat) : (s.advance n).hart.v = s.hart.v := rfl
@[simp] theorem advance_hart_vpois (s : State) (n : Nat) : (s.advance n).hart.vpois = s.hart.vpois := rfl
@[simp] theorem advance_hart_m (s : State) (n : Nat) : (s.advance n).hart.m = s.hart.m := rfl
@[simp] theorem advance_hart_wext (s : State) (n : Nat) : (s.advance n).hart.wext = s.hart.wext := rfl
@[simp] theorem advance_hart_tiles (s : State) (n : Nat) : (s.advance n).hart.tiles = s.hart.tiles := rfl
@[simp] theorem advance_hart_acc (s : State) (n : Nat) : (s.advance n).hart.acc = s.hart.acc := rfl
@[simp] theorem advance_hart_accPois (s : State) (n : Nat) : (s.advance n).hart.accPois = s.hart.accPois := rfl
@[simp] theorem advance_hart_pend (s : State) (n : Nat) : (s.advance n).hart.pend = s.hart.pend := rfl
@[simp] theorem advance_hart_sa (s : State) (n : Nat) : (s.advance n).hart.sa = s.hart.sa := rfl
@[simp] theorem advance_hart_sb (s : State) (n : Nat) : (s.advance n).hart.sb = s.hart.sb := rfl
@[simp] theorem advance_hart_scaled (s : State) (n : Nat) : (s.advance n).hart.scaled = s.hart.scaled := rfl
@[simp] theorem advance_hart_holdq (s : State) (n : Nat) : (s.advance n).hart.holdq = s.hart.holdq := rfl
@[simp] theorem advance_hart_trow (s : State) (n : Nat) : (s.advance n).hart.trow = s.hart.trow := rfl
@[simp] theorem advance_hart_ds (s : State) (n : Nat) : (s.advance n).hart.ds = s.hart.ds := rfl
@[simp] theorem advance_hart_cp (s : State) (n : Nat) : (s.advance n).hart.cp = s.hart.cp := rfl
@[simp] theorem advance_hart_staged (s : State) (n : Nat) : (s.advance n).hart.staged = s.hart.staged := rfl
@[simp] theorem advance_hart_drain (s : State) (n : Nat) : (s.advance n).hart.drain = s.hart.drain := rfl
@[simp] theorem advance_hart_merge (s : State) (n : Nat) : (s.advance n).hart.merge = s.hart.merge := rfl
@[simp] theorem advance_hart_posted (s : State) (n : Nat) : (s.advance n).hart.posted = s.hart.posted := rfl
@[simp] theorem advance_hart_pairs (s : State) (n : Nat) : (s.advance n).hart.pairs = s.hart.pairs := rfl
@[simp] theorem advance_hart_olds (s : State) (n : Nat) : (s.advance n).hart.olds = s.hart.olds := rfl
@[simp] theorem advance_hart_early (s : State) (n : Nat) : (s.advance n).hart.early = s.hart.early := rfl
@[simp] theorem advance_hart_stq (s : State) (n : Nat) : (s.advance n).hart.stq = s.hart.stq := rfl
@[simp] theorem advance_hart_late (s : State) (n : Nat) : (s.advance n).hart.late = s.hart.late := rfl
@[simp] theorem advance_hart_lockRun (s : State) (n : Nat) : (s.advance n).hart.lockRun = s.hart.lockRun := rfl
@[simp] theorem advance_hart_vlDs (s : State) (n : Nat) : (s.advance n).hart.vlDs = s.hart.vlDs := rfl
@[simp] theorem advance_hart_barAt (s : State) (n : Nat) : (s.advance n).hart.barAt = s.hart.barAt := rfl
@[simp] theorem advance_hart_barGo (s : State) (n : Nat) : (s.advance n).hart.barGo = s.hart.barGo := rfl
@[simp] theorem advance_hart_halted (s : State) (n : Nat) : (s.advance n).hart.halted = s.hart.halted := rfl
@[simp] theorem advance_hart_stopped (s : State) (n : Nat) : (s.advance n).hart.stopped = s.hart.stopped := rfl
@[simp] theorem advance_hart_deficit (s : State) (n : Nat) : (s.advance n).hart.deficit = s.hart.deficit := rfl
@[simp] theorem advance_hart_head (s : State) (n : Nat) : (s.advance n).hart.head = s.hart.head := rfl
@[simp] theorem advance_hart_limit (s : State) (n : Nat) : (s.advance n).hart.limit = s.hart.limit := rfl
@[simp] theorem advance_hart_conv (s : State) (n : Nat) : (s.advance n).hart.conv = s.hart.conv := rfl

/-! ### jumpTo -/

@[simp] theorem jumpTo_time (s : State) (v : Word) : (s.jumpTo v).time = s.time := rfl
@[simp] theorem jumpTo_moves (s : State) (v : Word) : (s.jumpTo v).moves = s.moves := rfl
@[simp] theorem jumpTo_input (s : State) (v : Word) : (s.jumpTo v).input = s.input := rfl
@[simp] theorem jumpTo_freeCtr (s : State) (v : Word) : (s.jumpTo v).freeCtr = s.freeCtr := rfl
@[simp] theorem jumpTo_out (s : State) (v : Word) : (s.jumpTo v).out = s.out := rfl
@[simp] theorem jumpTo_cur (s : State) (v : Word) : (s.jumpTo v).cur = s.cur := rfl
@[simp] theorem jumpTo_crew (s : State) (v : Word) : (s.jumpTo v).crew = s.crew := rfl
@[simp] theorem jumpTo_harts (s : State) (v : Word) : (s.jumpTo v).harts = s.harts := rfl
@[simp] theorem jumpTo_crews (s : State) (v : Word) : (s.jumpTo v).crews = s.crews := rfl
@[simp] theorem jumpTo_nextUid (s : State) (v : Word) : (s.jumpTo v).nextUid = s.nextUid := rfl
@[simp] theorem jumpTo_nextTag (s : State) (v : Word) : (s.jumpTo v).nextTag = s.nextTag := rfl
@[simp] theorem jumpTo_dcache (s : State) (v : Word) : (s.jumpTo v).dcache = s.dcache := rfl
@[simp] theorem jumpTo_icache (s : State) (v : Word) : (s.jumpTo v).icache = s.icache := rfl
@[simp] theorem jumpTo_mnet (s : State) (v : Word) : (s.jumpTo v).mnet = s.mnet := rfl
@[simp] theorem jumpTo_recs (s : State) (v : Word) : (s.jumpTo v).recs = s.recs := rfl
@[simp] theorem jumpTo_mem (s : State) (v : Word) : (s.jumpTo v).mem = s.mem := rfl
@[simp] theorem jumpTo_pois (s : State) (v : Word) : (s.jumpTo v).pois = s.pois := rfl
@[simp] theorem jumpTo_cregs (s : State) (v : Word) : (s.jumpTo v).cregs = s.cregs := rfl
@[simp] theorem jumpTo_tlb (s : State) (v : Word) : (s.jumpTo v).tlb = s.tlb := rfl
@[simp] theorem jumpTo_walks (s : State) (v : Word) : (s.jumpTo v).walks = s.walks := rfl
@[simp] theorem jumpTo_invals (s : State) (v : Word) : (s.jumpTo v).invals = s.invals := rfl
@[simp] theorem jumpTo_regs (s : State) (v : Word) : (s.jumpTo v).regs = s.regs := rfl
@[simp] theorem jumpTo_ctrs (s : State) (v : Word) : (s.jumpTo v).ctrs = s.ctrs := rfl
@[simp] theorem jumpTo_launches (s : State) (v : Word) : (s.jumpTo v).launches = s.launches := rfl
@[simp] theorem jumpTo_nextSeq (s : State) (v : Word) : (s.jumpTo v).nextSeq = s.nextSeq := rfl
@[simp] theorem jumpTo_nextId (s : State) (v : Word) : (s.jumpTo v).nextId = s.nextId := rfl
@[simp] theorem jumpTo_cmds (s : State) (v : Word) : (s.jumpTo v).cmds = s.cmds := rfl
@[simp] theorem jumpTo_fq (s : State) (v : Word) : (s.jumpTo v).fq = s.fq := rfl
@[simp] theorem jumpTo_fqWait (s : State) (v : Word) : (s.jumpTo v).fqWait = s.fqWait := rfl
@[simp] theorem jumpTo_faq (s : State) (v : Word) : (s.jumpTo v).faq = s.faq := rfl
@[simp] theorem jumpTo_faqLost (s : State) (v : Word) : (s.jumpTo v).faqLost = s.faqLost := rfl
@[simp] theorem jumpTo_errs (s : State) (v : Word) : (s.jumpTo v).errs = s.errs := rfl
@[simp] theorem jumpTo_events (s : State) (v : Word) : (s.jumpTo v).events = s.events := rfl
@[simp] theorem jumpTo_bpl (s : State) (v : Word) : (s.jumpTo v).bpl = s.bpl := rfl
@[simp] theorem jumpTo_bplBusy (s : State) (v : Word) : (s.jumpTo v).bplBusy = s.bplBusy := rfl
@[simp] theorem jumpTo_bplTemp (s : State) (v : Word) : (s.jumpTo v).bplTemp = s.bplTemp := rfl
@[simp] theorem jumpTo_locked (s : State) (v : Word) : (s.jumpTo v).locked = s.locked := rfl
@[simp] theorem jumpTo_lockOvf (s : State) (v : Word) : (s.jumpTo v).lockOvf = s.lockOvf := rfl
@[simp] theorem jumpTo_pkg (s : State) (v : Word) : (s.jumpTo v).pkg = s.pkg := rfl
@[simp] theorem jumpTo_gov (s : State) (v : Word) : (s.jumpTo v).gov = s.gov := rfl
@[simp] theorem jumpTo_ports (s : State) (v : Word) : (s.jumpTo v).ports = s.ports := rfl
@[simp] theorem jumpTo_dir (s : State) (v : Word) : (s.jumpTo v).dir = s.dir := rfl
@[simp] theorem jumpTo_drops (s : State) (v : Word) : (s.jumpTo v).drops = s.drops := rfl
@[simp] theorem jumpTo_dropLost (s : State) (v : Word) : (s.jumpTo v).dropLost = s.dropLost := rfl
@[simp] theorem jumpTo_msixMask (s : State) (v : Word) : (s.jumpTo v).msixMask = s.msixMask := rfl
@[simp] theorem jumpTo_msixPend (s : State) (v : Word) : (s.jumpTo v).msixPend = s.msixPend := rfl
@[simp] theorem jumpTo_bar4Size (s : State) (v : Word) : (s.jumpTo v).bar4Size = s.bar4Size := rfl
@[simp] theorem jumpTo_wire (s : State) (v : Word) : (s.jumpTo v).wire = s.wire := rfl
@[simp] theorem jumpTo_held (s : State) (v : Word) : (s.jumpTo v).held = s.held := rfl
@[simp] theorem jumpTo_nextHeld (s : State) (v : Word) : (s.jumpTo v).nextHeld = s.nextHeld := rfl
@[simp] theorem jumpTo_lqTags (s : State) (v : Word) : (s.jumpTo v).lqTags = s.lqTags := rfl
@[simp] theorem jumpTo_mcTags (s : State) (v : Word) : (s.jumpTo v).mcTags = s.mcTags := rfl
@[simp] theorem jumpTo_hart_live (s : State) (v : Word) : (s.jumpTo v).hart.live = s.hart.live := rfl
@[simp] theorem jumpTo_hart_idx (s : State) (v : Word) : (s.jumpTo v).hart.idx = s.hart.idx := rfl
@[simp] theorem jumpTo_hart_x (s : State) (v : Word) : (s.jumpTo v).hart.x = s.hart.x := rfl
@[simp] theorem jumpTo_hart_ir (s : State) (v : Word) : (s.jumpTo v).hart.ir = s.hart.ir := rfl
@[simp] theorem jumpTo_hart_ibuf (s : State) (v : Word) : (s.jumpTo v).hart.ibuf = s.hart.ibuf := rfl
@[simp] theorem jumpTo_hart_imp (s : State) (v : Word) : (s.jumpTo v).hart.imp = s.hart.imp := rfl
@[simp] theorem jumpTo_hart_nreg (s : State) (v : Word) : (s.jumpTo v).hart.nreg = s.hart.nreg := rfl
@[simp] theorem jumpTo_hart_sewMax (s : State) (v : Word) : (s.jumpTo v).hart.sewMax = s.hart.sewMax := rfl
@[simp] theorem jumpTo_hart_vlenb (s : State) (v : Word) : (s.jumpTo v).hart.vlenb = s.hart.vlenb := rfl
@[simp] theorem jumpTo_hart_v (s : State) (v : Word) : (s.jumpTo v).hart.v = s.hart.v := rfl
@[simp] theorem jumpTo_hart_vpois (s : State) (v : Word) : (s.jumpTo v).hart.vpois = s.hart.vpois := rfl
@[simp] theorem jumpTo_hart_m (s : State) (v : Word) : (s.jumpTo v).hart.m = s.hart.m := rfl
@[simp] theorem jumpTo_hart_wext (s : State) (v : Word) : (s.jumpTo v).hart.wext = s.hart.wext := rfl
@[simp] theorem jumpTo_hart_tiles (s : State) (v : Word) : (s.jumpTo v).hart.tiles = s.hart.tiles := rfl
@[simp] theorem jumpTo_hart_acc (s : State) (v : Word) : (s.jumpTo v).hart.acc = s.hart.acc := rfl
@[simp] theorem jumpTo_hart_accPois (s : State) (v : Word) : (s.jumpTo v).hart.accPois = s.hart.accPois := rfl
@[simp] theorem jumpTo_hart_pend (s : State) (v : Word) : (s.jumpTo v).hart.pend = s.hart.pend := rfl
@[simp] theorem jumpTo_hart_sa (s : State) (v : Word) : (s.jumpTo v).hart.sa = s.hart.sa := rfl
@[simp] theorem jumpTo_hart_sb (s : State) (v : Word) : (s.jumpTo v).hart.sb = s.hart.sb := rfl
@[simp] theorem jumpTo_hart_scaled (s : State) (v : Word) : (s.jumpTo v).hart.scaled = s.hart.scaled := rfl
@[simp] theorem jumpTo_hart_holdq (s : State) (v : Word) : (s.jumpTo v).hart.holdq = s.hart.holdq := rfl
@[simp] theorem jumpTo_hart_trow (s : State) (v : Word) : (s.jumpTo v).hart.trow = s.hart.trow := rfl
@[simp] theorem jumpTo_hart_ds (s : State) (v : Word) : (s.jumpTo v).hart.ds = s.hart.ds := rfl
@[simp] theorem jumpTo_hart_cp (s : State) (v : Word) : (s.jumpTo v).hart.cp = s.hart.cp := rfl
@[simp] theorem jumpTo_hart_staged (s : State) (v : Word) : (s.jumpTo v).hart.staged = s.hart.staged := rfl
@[simp] theorem jumpTo_hart_drain (s : State) (v : Word) : (s.jumpTo v).hart.drain = s.hart.drain := rfl
@[simp] theorem jumpTo_hart_merge (s : State) (v : Word) : (s.jumpTo v).hart.merge = s.hart.merge := rfl
@[simp] theorem jumpTo_hart_posted (s : State) (v : Word) : (s.jumpTo v).hart.posted = s.hart.posted := rfl
@[simp] theorem jumpTo_hart_pairs (s : State) (v : Word) : (s.jumpTo v).hart.pairs = s.hart.pairs := rfl
@[simp] theorem jumpTo_hart_olds (s : State) (v : Word) : (s.jumpTo v).hart.olds = s.hart.olds := rfl
@[simp] theorem jumpTo_hart_early (s : State) (v : Word) : (s.jumpTo v).hart.early = s.hart.early := rfl
@[simp] theorem jumpTo_hart_stq (s : State) (v : Word) : (s.jumpTo v).hart.stq = s.hart.stq := rfl
@[simp] theorem jumpTo_hart_late (s : State) (v : Word) : (s.jumpTo v).hart.late = s.hart.late := rfl
@[simp] theorem jumpTo_hart_lockRun (s : State) (v : Word) : (s.jumpTo v).hart.lockRun = s.hart.lockRun := rfl
@[simp] theorem jumpTo_hart_vlDs (s : State) (v : Word) : (s.jumpTo v).hart.vlDs = s.hart.vlDs := rfl
@[simp] theorem jumpTo_hart_barAt (s : State) (v : Word) : (s.jumpTo v).hart.barAt = s.hart.barAt := rfl
@[simp] theorem jumpTo_hart_barGo (s : State) (v : Word) : (s.jumpTo v).hart.barGo = s.hart.barGo := rfl
@[simp] theorem jumpTo_hart_halted (s : State) (v : Word) : (s.jumpTo v).hart.halted = s.hart.halted := rfl
@[simp] theorem jumpTo_hart_stopped (s : State) (v : Word) : (s.jumpTo v).hart.stopped = s.hart.stopped := rfl
@[simp] theorem jumpTo_hart_deficit (s : State) (v : Word) : (s.jumpTo v).hart.deficit = s.hart.deficit := rfl
@[simp] theorem jumpTo_hart_head (s : State) (v : Word) : (s.jumpTo v).hart.head = s.hart.head := rfl
@[simp] theorem jumpTo_hart_limit (s : State) (v : Word) : (s.jumpTo v).hart.limit = s.hart.limit := rfl
@[simp] theorem jumpTo_hart_conv (s : State) (v : Word) : (s.jumpTo v).hart.conv = s.hart.conv := rfl

/-! ### addFlags -/

@[simp] theorem addFlags_time (s : State) (n : Nat) : (s.addFlags n).time = s.time := by unfold State.addFlags; split <;> rfl
@[simp] theorem addFlags_moves (s : State) (n : Nat) : (s.addFlags n).moves = s.moves := by unfold State.addFlags; split <;> rfl
@[simp] theorem addFlags_input (s : State) (n : Nat) : (s.addFlags n).input = s.input := by unfold State.addFlags; split <;> rfl
@[simp] theorem addFlags_freeCtr (s : State) (n : Nat) : (s.addFlags n).freeCtr = s.freeCtr := by unfold State.addFlags; split <;> rfl
@[simp] theorem addFlags_out (s : State) (n : Nat) : (s.addFlags n).out = s.out := by unfold State.addFlags; split <;> rfl
@[simp] theorem addFlags_cur (s : State) (n : Nat) : (s.addFlags n).cur = s.cur := by unfold State.addFlags; split <;> rfl
@[simp] theorem addFlags_crew (s : State) (n : Nat) : (s.addFlags n).crew = s.crew := by unfold State.addFlags; split <;> rfl
@[simp] theorem addFlags_harts (s : State) (n : Nat) : (s.addFlags n).harts = s.harts := by unfold State.addFlags; split <;> rfl
@[simp] theorem addFlags_crews (s : State) (n : Nat) : (s.addFlags n).crews = s.crews := by unfold State.addFlags; split <;> rfl
@[simp] theorem addFlags_nextUid (s : State) (n : Nat) : (s.addFlags n).nextUid = s.nextUid := by unfold State.addFlags; split <;> rfl
@[simp] theorem addFlags_nextTag (s : State) (n : Nat) : (s.addFlags n).nextTag = s.nextTag := by unfold State.addFlags; split <;> rfl
@[simp] theorem addFlags_dcache (s : State) (n : Nat) : (s.addFlags n).dcache = s.dcache := by unfold State.addFlags; split <;> rfl
@[simp] theorem addFlags_icache (s : State) (n : Nat) : (s.addFlags n).icache = s.icache := by unfold State.addFlags; split <;> rfl
@[simp] theorem addFlags_mnet (s : State) (n : Nat) : (s.addFlags n).mnet = s.mnet := by unfold State.addFlags; split <;> rfl
@[simp] theorem addFlags_recs (s : State) (n : Nat) : (s.addFlags n).recs = s.recs := by unfold State.addFlags; split <;> rfl
@[simp] theorem addFlags_mem (s : State) (n : Nat) : (s.addFlags n).mem = s.mem := by unfold State.addFlags; split <;> rfl
@[simp] theorem addFlags_pois (s : State) (n : Nat) : (s.addFlags n).pois = s.pois := by unfold State.addFlags; split <;> rfl
@[simp] theorem addFlags_cregs (s : State) (n : Nat) : (s.addFlags n).cregs = s.cregs := by unfold State.addFlags; split <;> rfl
@[simp] theorem addFlags_tlb (s : State) (n : Nat) : (s.addFlags n).tlb = s.tlb := by unfold State.addFlags; split <;> rfl
@[simp] theorem addFlags_walks (s : State) (n : Nat) : (s.addFlags n).walks = s.walks := by unfold State.addFlags; split <;> rfl
@[simp] theorem addFlags_invals (s : State) (n : Nat) : (s.addFlags n).invals = s.invals := by unfold State.addFlags; split <;> rfl
@[simp] theorem addFlags_regs (s : State) (n : Nat) : (s.addFlags n).regs = s.regs := by unfold State.addFlags; split <;> rfl
@[simp] theorem addFlags_ctrs (s : State) (n : Nat) : (s.addFlags n).ctrs = s.ctrs := by unfold State.addFlags; split <;> rfl
@[simp] theorem addFlags_launches (s : State) (n : Nat) : (s.addFlags n).launches = s.launches := by unfold State.addFlags; split <;> rfl
@[simp] theorem addFlags_nextSeq (s : State) (n : Nat) : (s.addFlags n).nextSeq = s.nextSeq := by unfold State.addFlags; split <;> rfl
@[simp] theorem addFlags_nextId (s : State) (n : Nat) : (s.addFlags n).nextId = s.nextId := by unfold State.addFlags; split <;> rfl
@[simp] theorem addFlags_cmds (s : State) (n : Nat) : (s.addFlags n).cmds = s.cmds := by unfold State.addFlags; split <;> rfl
@[simp] theorem addFlags_fq (s : State) (n : Nat) : (s.addFlags n).fq = s.fq := by unfold State.addFlags; split <;> rfl
@[simp] theorem addFlags_fqWait (s : State) (n : Nat) : (s.addFlags n).fqWait = s.fqWait := by unfold State.addFlags; split <;> rfl
@[simp] theorem addFlags_faq (s : State) (n : Nat) : (s.addFlags n).faq = s.faq := by unfold State.addFlags; split <;> rfl
@[simp] theorem addFlags_faqLost (s : State) (n : Nat) : (s.addFlags n).faqLost = s.faqLost := by unfold State.addFlags; split <;> rfl
@[simp] theorem addFlags_errs (s : State) (n : Nat) : (s.addFlags n).errs = s.errs := by unfold State.addFlags; split <;> rfl
@[simp] theorem addFlags_events (s : State) (n : Nat) : (s.addFlags n).events = s.events := by unfold State.addFlags; split <;> rfl
@[simp] theorem addFlags_bpl (s : State) (n : Nat) : (s.addFlags n).bpl = s.bpl := by unfold State.addFlags; split <;> rfl
@[simp] theorem addFlags_bplBusy (s : State) (n : Nat) : (s.addFlags n).bplBusy = s.bplBusy := by unfold State.addFlags; split <;> rfl
@[simp] theorem addFlags_bplTemp (s : State) (n : Nat) : (s.addFlags n).bplTemp = s.bplTemp := by unfold State.addFlags; split <;> rfl
@[simp] theorem addFlags_locked (s : State) (n : Nat) : (s.addFlags n).locked = s.locked := by unfold State.addFlags; split <;> rfl
@[simp] theorem addFlags_lockOvf (s : State) (n : Nat) : (s.addFlags n).lockOvf = s.lockOvf := by unfold State.addFlags; split <;> rfl
@[simp] theorem addFlags_pkg (s : State) (n : Nat) : (s.addFlags n).pkg = s.pkg := by unfold State.addFlags; split <;> rfl
@[simp] theorem addFlags_gov (s : State) (n : Nat) : (s.addFlags n).gov = s.gov := by unfold State.addFlags; split <;> rfl
@[simp] theorem addFlags_ports (s : State) (n : Nat) : (s.addFlags n).ports = s.ports := by unfold State.addFlags; split <;> rfl
@[simp] theorem addFlags_dir (s : State) (n : Nat) : (s.addFlags n).dir = s.dir := by unfold State.addFlags; split <;> rfl
@[simp] theorem addFlags_drops (s : State) (n : Nat) : (s.addFlags n).drops = s.drops := by unfold State.addFlags; split <;> rfl
@[simp] theorem addFlags_dropLost (s : State) (n : Nat) : (s.addFlags n).dropLost = s.dropLost := by unfold State.addFlags; split <;> rfl
@[simp] theorem addFlags_msixMask (s : State) (n : Nat) : (s.addFlags n).msixMask = s.msixMask := by unfold State.addFlags; split <;> rfl
@[simp] theorem addFlags_msixPend (s : State) (n : Nat) : (s.addFlags n).msixPend = s.msixPend := by unfold State.addFlags; split <;> rfl
@[simp] theorem addFlags_bar4Size (s : State) (n : Nat) : (s.addFlags n).bar4Size = s.bar4Size := by unfold State.addFlags; split <;> rfl
@[simp] theorem addFlags_wire (s : State) (n : Nat) : (s.addFlags n).wire = s.wire := by unfold State.addFlags; split <;> rfl
@[simp] theorem addFlags_held (s : State) (n : Nat) : (s.addFlags n).held = s.held := by unfold State.addFlags; split <;> rfl
@[simp] theorem addFlags_nextHeld (s : State) (n : Nat) : (s.addFlags n).nextHeld = s.nextHeld := by unfold State.addFlags; split <;> rfl
@[simp] theorem addFlags_lqTags (s : State) (n : Nat) : (s.addFlags n).lqTags = s.lqTags := by unfold State.addFlags; split <;> rfl
@[simp] theorem addFlags_mcTags (s : State) (n : Nat) : (s.addFlags n).mcTags = s.mcTags := by unfold State.addFlags; split <;> rfl
@[simp] theorem addFlags_hart_live (s : State) (n : Nat) : (s.addFlags n).hart.live = s.hart.live := by unfold State.addFlags; split <;> rfl
@[simp] theorem addFlags_hart_idx (s : State) (n : Nat) : (s.addFlags n).hart.idx = s.hart.idx := by unfold State.addFlags; split <;> rfl
@[simp] theorem addFlags_hart_pc (s : State) (n : Nat) : (s.addFlags n).hart.pc = s.hart.pc := by unfold State.addFlags; split <;> rfl
@[simp] theorem addFlags_hart_x (s : State) (n : Nat) : (s.addFlags n).hart.x = s.hart.x := by unfold State.addFlags; split <;> rfl
@[simp] theorem addFlags_hart_ir (s : State) (n : Nat) : (s.addFlags n).hart.ir = s.hart.ir := by unfold State.addFlags; split <;> rfl
@[simp] theorem addFlags_hart_ibuf (s : State) (n : Nat) : (s.addFlags n).hart.ibuf = s.hart.ibuf := by unfold State.addFlags; split <;> rfl
@[simp] theorem addFlags_hart_imp (s : State) (n : Nat) : (s.addFlags n).hart.imp = s.hart.imp := by unfold State.addFlags; split <;> rfl
@[simp] theorem addFlags_hart_nreg (s : State) (n : Nat) : (s.addFlags n).hart.nreg = s.hart.nreg := by unfold State.addFlags; split <;> rfl
@[simp] theorem addFlags_hart_sewMax (s : State) (n : Nat) : (s.addFlags n).hart.sewMax = s.hart.sewMax := by unfold State.addFlags; split <;> rfl
@[simp] theorem addFlags_hart_vlenb (s : State) (n : Nat) : (s.addFlags n).hart.vlenb = s.hart.vlenb := by unfold State.addFlags; split <;> rfl
@[simp] theorem addFlags_hart_v (s : State) (n : Nat) : (s.addFlags n).hart.v = s.hart.v := by unfold State.addFlags; split <;> rfl
@[simp] theorem addFlags_hart_vpois (s : State) (n : Nat) : (s.addFlags n).hart.vpois = s.hart.vpois := by unfold State.addFlags; split <;> rfl
@[simp] theorem addFlags_hart_m (s : State) (n : Nat) : (s.addFlags n).hart.m = s.hart.m := by unfold State.addFlags; split <;> rfl
@[simp] theorem addFlags_hart_wext (s : State) (n : Nat) : (s.addFlags n).hart.wext = s.hart.wext := by unfold State.addFlags; split <;> rfl
@[simp] theorem addFlags_hart_tiles (s : State) (n : Nat) : (s.addFlags n).hart.tiles = s.hart.tiles := by unfold State.addFlags; split <;> rfl
@[simp] theorem addFlags_hart_acc (s : State) (n : Nat) : (s.addFlags n).hart.acc = s.hart.acc := by unfold State.addFlags; split <;> rfl
@[simp] theorem addFlags_hart_accPois (s : State) (n : Nat) : (s.addFlags n).hart.accPois = s.hart.accPois := by unfold State.addFlags; split <;> rfl
@[simp] theorem addFlags_hart_pend (s : State) (n : Nat) : (s.addFlags n).hart.pend = s.hart.pend := by unfold State.addFlags; split <;> rfl
@[simp] theorem addFlags_hart_sa (s : State) (n : Nat) : (s.addFlags n).hart.sa = s.hart.sa := by unfold State.addFlags; split <;> rfl
@[simp] theorem addFlags_hart_sb (s : State) (n : Nat) : (s.addFlags n).hart.sb = s.hart.sb := by unfold State.addFlags; split <;> rfl
@[simp] theorem addFlags_hart_scaled (s : State) (n : Nat) : (s.addFlags n).hart.scaled = s.hart.scaled := by unfold State.addFlags; split <;> rfl
@[simp] theorem addFlags_hart_holdq (s : State) (n : Nat) : (s.addFlags n).hart.holdq = s.hart.holdq := by unfold State.addFlags; split <;> rfl
@[simp] theorem addFlags_hart_trow (s : State) (n : Nat) : (s.addFlags n).hart.trow = s.hart.trow := by unfold State.addFlags; split <;> rfl
@[simp] theorem addFlags_hart_ds (s : State) (n : Nat) : (s.addFlags n).hart.ds = s.hart.ds := by unfold State.addFlags; split <;> rfl
@[simp] theorem addFlags_hart_cp (s : State) (n : Nat) : (s.addFlags n).hart.cp = s.hart.cp := by unfold State.addFlags; split <;> rfl
@[simp] theorem addFlags_hart_staged (s : State) (n : Nat) : (s.addFlags n).hart.staged = s.hart.staged := by unfold State.addFlags; split <;> rfl
@[simp] theorem addFlags_hart_drain (s : State) (n : Nat) : (s.addFlags n).hart.drain = s.hart.drain := by unfold State.addFlags; split <;> rfl
@[simp] theorem addFlags_hart_merge (s : State) (n : Nat) : (s.addFlags n).hart.merge = s.hart.merge := by unfold State.addFlags; split <;> rfl
@[simp] theorem addFlags_hart_asked (s : State) (n : Nat) : (s.addFlags n).hart.asked = s.hart.asked := by unfold State.addFlags; split <;> rfl
@[simp] theorem addFlags_hart_answers (s : State) (n : Nat) : (s.addFlags n).hart.answers = s.hart.answers := by unfold State.addFlags; split <;> rfl
@[simp] theorem addFlags_hart_posted (s : State) (n : Nat) : (s.addFlags n).hart.posted = s.hart.posted := by unfold State.addFlags; split <;> rfl
@[simp] theorem addFlags_hart_pairs (s : State) (n : Nat) : (s.addFlags n).hart.pairs = s.hart.pairs := by unfold State.addFlags; split <;> rfl
@[simp] theorem addFlags_hart_olds (s : State) (n : Nat) : (s.addFlags n).hart.olds = s.hart.olds := by unfold State.addFlags; split <;> rfl
@[simp] theorem addFlags_hart_early (s : State) (n : Nat) : (s.addFlags n).hart.early = s.hart.early := by unfold State.addFlags; split <;> rfl
@[simp] theorem addFlags_hart_stq (s : State) (n : Nat) : (s.addFlags n).hart.stq = s.hart.stq := by unfold State.addFlags; split <;> rfl
@[simp] theorem addFlags_hart_late (s : State) (n : Nat) : (s.addFlags n).hart.late = s.hart.late := by unfold State.addFlags; split <;> rfl
@[simp] theorem addFlags_hart_lockRun (s : State) (n : Nat) : (s.addFlags n).hart.lockRun = s.hart.lockRun := by unfold State.addFlags; split <;> rfl
@[simp] theorem addFlags_hart_vlDs (s : State) (n : Nat) : (s.addFlags n).hart.vlDs = s.hart.vlDs := by unfold State.addFlags; split <;> rfl
@[simp] theorem addFlags_hart_barAt (s : State) (n : Nat) : (s.addFlags n).hart.barAt = s.hart.barAt := by unfold State.addFlags; split <;> rfl
@[simp] theorem addFlags_hart_barGo (s : State) (n : Nat) : (s.addFlags n).hart.barGo = s.hart.barGo := by unfold State.addFlags; split <;> rfl
@[simp] theorem addFlags_hart_halted (s : State) (n : Nat) : (s.addFlags n).hart.halted = s.hart.halted := by unfold State.addFlags; split <;> rfl
@[simp] theorem addFlags_hart_stopped (s : State) (n : Nat) : (s.addFlags n).hart.stopped = s.hart.stopped := by unfold State.addFlags; split <;> rfl
@[simp] theorem addFlags_hart_deficit (s : State) (n : Nat) : (s.addFlags n).hart.deficit = s.hart.deficit := by unfold State.addFlags; split <;> rfl
@[simp] theorem addFlags_hart_head (s : State) (n : Nat) : (s.addFlags n).hart.head = s.hart.head := by unfold State.addFlags; split <;> rfl
@[simp] theorem addFlags_hart_limit (s : State) (n : Nat) : (s.addFlags n).hart.limit = s.hart.limit := by unfold State.addFlags; split <;> rfl
@[simp] theorem addFlags_hart_conv (s : State) (n : Nat) : (s.addFlags n).hart.conv = s.hart.conv := by unfold State.addFlags; split <;> rfl

/-! ### setVstart -/

@[simp] theorem setVstart_time (s : State) (n : Nat) : (s.setVstart n).time = s.time := rfl
@[simp] theorem setVstart_moves (s : State) (n : Nat) : (s.setVstart n).moves = s.moves := rfl
@[simp] theorem setVstart_input (s : State) (n : Nat) : (s.setVstart n).input = s.input := rfl
@[simp] theorem setVstart_freeCtr (s : State) (n : Nat) : (s.setVstart n).freeCtr = s.freeCtr := rfl
@[simp] theorem setVstart_out (s : State) (n : Nat) : (s.setVstart n).out = s.out := rfl
@[simp] theorem setVstart_cur (s : State) (n : Nat) : (s.setVstart n).cur = s.cur := rfl
@[simp] theorem setVstart_crew (s : State) (n : Nat) : (s.setVstart n).crew = s.crew := rfl
@[simp] theorem setVstart_harts (s : State) (n : Nat) : (s.setVstart n).harts = s.harts := rfl
@[simp] theorem setVstart_crews (s : State) (n : Nat) : (s.setVstart n).crews = s.crews := rfl
@[simp] theorem setVstart_nextUid (s : State) (n : Nat) : (s.setVstart n).nextUid = s.nextUid := rfl
@[simp] theorem setVstart_nextTag (s : State) (n : Nat) : (s.setVstart n).nextTag = s.nextTag := rfl
@[simp] theorem setVstart_dcache (s : State) (n : Nat) : (s.setVstart n).dcache = s.dcache := rfl
@[simp] theorem setVstart_icache (s : State) (n : Nat) : (s.setVstart n).icache = s.icache := rfl
@[simp] theorem setVstart_mnet (s : State) (n : Nat) : (s.setVstart n).mnet = s.mnet := rfl
@[simp] theorem setVstart_recs (s : State) (n : Nat) : (s.setVstart n).recs = s.recs := rfl
@[simp] theorem setVstart_mem (s : State) (n : Nat) : (s.setVstart n).mem = s.mem := rfl
@[simp] theorem setVstart_pois (s : State) (n : Nat) : (s.setVstart n).pois = s.pois := rfl
@[simp] theorem setVstart_cregs (s : State) (n : Nat) : (s.setVstart n).cregs = s.cregs := rfl
@[simp] theorem setVstart_tlb (s : State) (n : Nat) : (s.setVstart n).tlb = s.tlb := rfl
@[simp] theorem setVstart_walks (s : State) (n : Nat) : (s.setVstart n).walks = s.walks := rfl
@[simp] theorem setVstart_invals (s : State) (n : Nat) : (s.setVstart n).invals = s.invals := rfl
@[simp] theorem setVstart_regs (s : State) (n : Nat) : (s.setVstart n).regs = s.regs := rfl
@[simp] theorem setVstart_ctrs (s : State) (n : Nat) : (s.setVstart n).ctrs = s.ctrs := rfl
@[simp] theorem setVstart_launches (s : State) (n : Nat) : (s.setVstart n).launches = s.launches := rfl
@[simp] theorem setVstart_nextSeq (s : State) (n : Nat) : (s.setVstart n).nextSeq = s.nextSeq := rfl
@[simp] theorem setVstart_nextId (s : State) (n : Nat) : (s.setVstart n).nextId = s.nextId := rfl
@[simp] theorem setVstart_cmds (s : State) (n : Nat) : (s.setVstart n).cmds = s.cmds := rfl
@[simp] theorem setVstart_fq (s : State) (n : Nat) : (s.setVstart n).fq = s.fq := rfl
@[simp] theorem setVstart_fqWait (s : State) (n : Nat) : (s.setVstart n).fqWait = s.fqWait := rfl
@[simp] theorem setVstart_faq (s : State) (n : Nat) : (s.setVstart n).faq = s.faq := rfl
@[simp] theorem setVstart_faqLost (s : State) (n : Nat) : (s.setVstart n).faqLost = s.faqLost := rfl
@[simp] theorem setVstart_errs (s : State) (n : Nat) : (s.setVstart n).errs = s.errs := rfl
@[simp] theorem setVstart_events (s : State) (n : Nat) : (s.setVstart n).events = s.events := rfl
@[simp] theorem setVstart_bpl (s : State) (n : Nat) : (s.setVstart n).bpl = s.bpl := rfl
@[simp] theorem setVstart_bplBusy (s : State) (n : Nat) : (s.setVstart n).bplBusy = s.bplBusy := rfl
@[simp] theorem setVstart_bplTemp (s : State) (n : Nat) : (s.setVstart n).bplTemp = s.bplTemp := rfl
@[simp] theorem setVstart_locked (s : State) (n : Nat) : (s.setVstart n).locked = s.locked := rfl
@[simp] theorem setVstart_lockOvf (s : State) (n : Nat) : (s.setVstart n).lockOvf = s.lockOvf := rfl
@[simp] theorem setVstart_pkg (s : State) (n : Nat) : (s.setVstart n).pkg = s.pkg := rfl
@[simp] theorem setVstart_gov (s : State) (n : Nat) : (s.setVstart n).gov = s.gov := rfl
@[simp] theorem setVstart_ports (s : State) (n : Nat) : (s.setVstart n).ports = s.ports := rfl
@[simp] theorem setVstart_dir (s : State) (n : Nat) : (s.setVstart n).dir = s.dir := rfl
@[simp] theorem setVstart_drops (s : State) (n : Nat) : (s.setVstart n).drops = s.drops := rfl
@[simp] theorem setVstart_dropLost (s : State) (n : Nat) : (s.setVstart n).dropLost = s.dropLost := rfl
@[simp] theorem setVstart_msixMask (s : State) (n : Nat) : (s.setVstart n).msixMask = s.msixMask := rfl
@[simp] theorem setVstart_msixPend (s : State) (n : Nat) : (s.setVstart n).msixPend = s.msixPend := rfl
@[simp] theorem setVstart_bar4Size (s : State) (n : Nat) : (s.setVstart n).bar4Size = s.bar4Size := rfl
@[simp] theorem setVstart_wire (s : State) (n : Nat) : (s.setVstart n).wire = s.wire := rfl
@[simp] theorem setVstart_held (s : State) (n : Nat) : (s.setVstart n).held = s.held := rfl
@[simp] theorem setVstart_nextHeld (s : State) (n : Nat) : (s.setVstart n).nextHeld = s.nextHeld := rfl
@[simp] theorem setVstart_lqTags (s : State) (n : Nat) : (s.setVstart n).lqTags = s.lqTags := rfl
@[simp] theorem setVstart_mcTags (s : State) (n : Nat) : (s.setVstart n).mcTags = s.mcTags := rfl
@[simp] theorem setVstart_hart_live (s : State) (n : Nat) : (s.setVstart n).hart.live = s.hart.live := rfl
@[simp] theorem setVstart_hart_idx (s : State) (n : Nat) : (s.setVstart n).hart.idx = s.hart.idx := rfl
@[simp] theorem setVstart_hart_pc (s : State) (n : Nat) : (s.setVstart n).hart.pc = s.hart.pc := rfl
@[simp] theorem setVstart_hart_x (s : State) (n : Nat) : (s.setVstart n).hart.x = s.hart.x := rfl
@[simp] theorem setVstart_hart_ir (s : State) (n : Nat) : (s.setVstart n).hart.ir = s.hart.ir := rfl
@[simp] theorem setVstart_hart_ibuf (s : State) (n : Nat) : (s.setVstart n).hart.ibuf = s.hart.ibuf := rfl
@[simp] theorem setVstart_hart_imp (s : State) (n : Nat) : (s.setVstart n).hart.imp = s.hart.imp := rfl
@[simp] theorem setVstart_hart_nreg (s : State) (n : Nat) : (s.setVstart n).hart.nreg = s.hart.nreg := rfl
@[simp] theorem setVstart_hart_sewMax (s : State) (n : Nat) : (s.setVstart n).hart.sewMax = s.hart.sewMax := rfl
@[simp] theorem setVstart_hart_vlenb (s : State) (n : Nat) : (s.setVstart n).hart.vlenb = s.hart.vlenb := rfl
@[simp] theorem setVstart_hart_v (s : State) (n : Nat) : (s.setVstart n).hart.v = s.hart.v := rfl
@[simp] theorem setVstart_hart_vpois (s : State) (n : Nat) : (s.setVstart n).hart.vpois = s.hart.vpois := rfl
@[simp] theorem setVstart_hart_m (s : State) (n : Nat) : (s.setVstart n).hart.m = s.hart.m := rfl
@[simp] theorem setVstart_hart_wext (s : State) (n : Nat) : (s.setVstart n).hart.wext = s.hart.wext := rfl
@[simp] theorem setVstart_hart_tiles (s : State) (n : Nat) : (s.setVstart n).hart.tiles = s.hart.tiles := rfl
@[simp] theorem setVstart_hart_acc (s : State) (n : Nat) : (s.setVstart n).hart.acc = s.hart.acc := rfl
@[simp] theorem setVstart_hart_accPois (s : State) (n : Nat) : (s.setVstart n).hart.accPois = s.hart.accPois := rfl
@[simp] theorem setVstart_hart_pend (s : State) (n : Nat) : (s.setVstart n).hart.pend = s.hart.pend := rfl
@[simp] theorem setVstart_hart_sa (s : State) (n : Nat) : (s.setVstart n).hart.sa = s.hart.sa := rfl
@[simp] theorem setVstart_hart_sb (s : State) (n : Nat) : (s.setVstart n).hart.sb = s.hart.sb := rfl
@[simp] theorem setVstart_hart_scaled (s : State) (n : Nat) : (s.setVstart n).hart.scaled = s.hart.scaled := rfl
@[simp] theorem setVstart_hart_holdq (s : State) (n : Nat) : (s.setVstart n).hart.holdq = s.hart.holdq := rfl
@[simp] theorem setVstart_hart_trow (s : State) (n : Nat) : (s.setVstart n).hart.trow = s.hart.trow := rfl
@[simp] theorem setVstart_hart_ds (s : State) (n : Nat) : (s.setVstart n).hart.ds = s.hart.ds := rfl
@[simp] theorem setVstart_hart_cp (s : State) (n : Nat) : (s.setVstart n).hart.cp = s.hart.cp := rfl
@[simp] theorem setVstart_hart_staged (s : State) (n : Nat) : (s.setVstart n).hart.staged = s.hart.staged := rfl
@[simp] theorem setVstart_hart_drain (s : State) (n : Nat) : (s.setVstart n).hart.drain = s.hart.drain := rfl
@[simp] theorem setVstart_hart_merge (s : State) (n : Nat) : (s.setVstart n).hart.merge = s.hart.merge := rfl
@[simp] theorem setVstart_hart_asked (s : State) (n : Nat) : (s.setVstart n).hart.asked = s.hart.asked := rfl
@[simp] theorem setVstart_hart_answers (s : State) (n : Nat) : (s.setVstart n).hart.answers = s.hart.answers := rfl
@[simp] theorem setVstart_hart_posted (s : State) (n : Nat) : (s.setVstart n).hart.posted = s.hart.posted := rfl
@[simp] theorem setVstart_hart_pairs (s : State) (n : Nat) : (s.setVstart n).hart.pairs = s.hart.pairs := rfl
@[simp] theorem setVstart_hart_olds (s : State) (n : Nat) : (s.setVstart n).hart.olds = s.hart.olds := rfl
@[simp] theorem setVstart_hart_early (s : State) (n : Nat) : (s.setVstart n).hart.early = s.hart.early := rfl
@[simp] theorem setVstart_hart_stq (s : State) (n : Nat) : (s.setVstart n).hart.stq = s.hart.stq := rfl
@[simp] theorem setVstart_hart_late (s : State) (n : Nat) : (s.setVstart n).hart.late = s.hart.late := rfl
@[simp] theorem setVstart_hart_lockRun (s : State) (n : Nat) : (s.setVstart n).hart.lockRun = s.hart.lockRun := rfl
@[simp] theorem setVstart_hart_vlDs (s : State) (n : Nat) : (s.setVstart n).hart.vlDs = s.hart.vlDs := rfl
@[simp] theorem setVstart_hart_barAt (s : State) (n : Nat) : (s.setVstart n).hart.barAt = s.hart.barAt := rfl
@[simp] theorem setVstart_hart_barGo (s : State) (n : Nat) : (s.setVstart n).hart.barGo = s.hart.barGo := rfl
@[simp] theorem setVstart_hart_halted (s : State) (n : Nat) : (s.setVstart n).hart.halted = s.hart.halted := rfl
@[simp] theorem setVstart_hart_stopped (s : State) (n : Nat) : (s.setVstart n).hart.stopped = s.hart.stopped := rfl
@[simp] theorem setVstart_hart_deficit (s : State) (n : Nat) : (s.setVstart n).hart.deficit = s.hart.deficit := rfl
@[simp] theorem setVstart_hart_head (s : State) (n : Nat) : (s.setVstart n).hart.head = s.hart.head := rfl
@[simp] theorem setVstart_hart_limit (s : State) (n : Nat) : (s.setVstart n).hart.limit = s.hart.limit := rfl
@[simp] theorem setVstart_hart_conv (s : State) (n : Nat) : (s.setVstart n).hart.conv = s.hart.conv := rfl

/-! ### setMstart -/

@[simp] theorem setMstart_time (s : State) (n : Nat) : (s.setMstart n).time = s.time := rfl
@[simp] theorem setMstart_moves (s : State) (n : Nat) : (s.setMstart n).moves = s.moves := rfl
@[simp] theorem setMstart_input (s : State) (n : Nat) : (s.setMstart n).input = s.input := rfl
@[simp] theorem setMstart_freeCtr (s : State) (n : Nat) : (s.setMstart n).freeCtr = s.freeCtr := rfl
@[simp] theorem setMstart_out (s : State) (n : Nat) : (s.setMstart n).out = s.out := rfl
@[simp] theorem setMstart_cur (s : State) (n : Nat) : (s.setMstart n).cur = s.cur := rfl
@[simp] theorem setMstart_crew (s : State) (n : Nat) : (s.setMstart n).crew = s.crew := rfl
@[simp] theorem setMstart_harts (s : State) (n : Nat) : (s.setMstart n).harts = s.harts := rfl
@[simp] theorem setMstart_crews (s : State) (n : Nat) : (s.setMstart n).crews = s.crews := rfl
@[simp] theorem setMstart_nextUid (s : State) (n : Nat) : (s.setMstart n).nextUid = s.nextUid := rfl
@[simp] theorem setMstart_nextTag (s : State) (n : Nat) : (s.setMstart n).nextTag = s.nextTag := rfl
@[simp] theorem setMstart_dcache (s : State) (n : Nat) : (s.setMstart n).dcache = s.dcache := rfl
@[simp] theorem setMstart_icache (s : State) (n : Nat) : (s.setMstart n).icache = s.icache := rfl
@[simp] theorem setMstart_mnet (s : State) (n : Nat) : (s.setMstart n).mnet = s.mnet := rfl
@[simp] theorem setMstart_recs (s : State) (n : Nat) : (s.setMstart n).recs = s.recs := rfl
@[simp] theorem setMstart_mem (s : State) (n : Nat) : (s.setMstart n).mem = s.mem := rfl
@[simp] theorem setMstart_pois (s : State) (n : Nat) : (s.setMstart n).pois = s.pois := rfl
@[simp] theorem setMstart_cregs (s : State) (n : Nat) : (s.setMstart n).cregs = s.cregs := rfl
@[simp] theorem setMstart_tlb (s : State) (n : Nat) : (s.setMstart n).tlb = s.tlb := rfl
@[simp] theorem setMstart_walks (s : State) (n : Nat) : (s.setMstart n).walks = s.walks := rfl
@[simp] theorem setMstart_invals (s : State) (n : Nat) : (s.setMstart n).invals = s.invals := rfl
@[simp] theorem setMstart_regs (s : State) (n : Nat) : (s.setMstart n).regs = s.regs := rfl
@[simp] theorem setMstart_ctrs (s : State) (n : Nat) : (s.setMstart n).ctrs = s.ctrs := rfl
@[simp] theorem setMstart_launches (s : State) (n : Nat) : (s.setMstart n).launches = s.launches := rfl
@[simp] theorem setMstart_nextSeq (s : State) (n : Nat) : (s.setMstart n).nextSeq = s.nextSeq := rfl
@[simp] theorem setMstart_nextId (s : State) (n : Nat) : (s.setMstart n).nextId = s.nextId := rfl
@[simp] theorem setMstart_cmds (s : State) (n : Nat) : (s.setMstart n).cmds = s.cmds := rfl
@[simp] theorem setMstart_fq (s : State) (n : Nat) : (s.setMstart n).fq = s.fq := rfl
@[simp] theorem setMstart_fqWait (s : State) (n : Nat) : (s.setMstart n).fqWait = s.fqWait := rfl
@[simp] theorem setMstart_faq (s : State) (n : Nat) : (s.setMstart n).faq = s.faq := rfl
@[simp] theorem setMstart_faqLost (s : State) (n : Nat) : (s.setMstart n).faqLost = s.faqLost := rfl
@[simp] theorem setMstart_errs (s : State) (n : Nat) : (s.setMstart n).errs = s.errs := rfl
@[simp] theorem setMstart_events (s : State) (n : Nat) : (s.setMstart n).events = s.events := rfl
@[simp] theorem setMstart_bpl (s : State) (n : Nat) : (s.setMstart n).bpl = s.bpl := rfl
@[simp] theorem setMstart_bplBusy (s : State) (n : Nat) : (s.setMstart n).bplBusy = s.bplBusy := rfl
@[simp] theorem setMstart_bplTemp (s : State) (n : Nat) : (s.setMstart n).bplTemp = s.bplTemp := rfl
@[simp] theorem setMstart_locked (s : State) (n : Nat) : (s.setMstart n).locked = s.locked := rfl
@[simp] theorem setMstart_lockOvf (s : State) (n : Nat) : (s.setMstart n).lockOvf = s.lockOvf := rfl
@[simp] theorem setMstart_pkg (s : State) (n : Nat) : (s.setMstart n).pkg = s.pkg := rfl
@[simp] theorem setMstart_gov (s : State) (n : Nat) : (s.setMstart n).gov = s.gov := rfl
@[simp] theorem setMstart_ports (s : State) (n : Nat) : (s.setMstart n).ports = s.ports := rfl
@[simp] theorem setMstart_dir (s : State) (n : Nat) : (s.setMstart n).dir = s.dir := rfl
@[simp] theorem setMstart_drops (s : State) (n : Nat) : (s.setMstart n).drops = s.drops := rfl
@[simp] theorem setMstart_dropLost (s : State) (n : Nat) : (s.setMstart n).dropLost = s.dropLost := rfl
@[simp] theorem setMstart_msixMask (s : State) (n : Nat) : (s.setMstart n).msixMask = s.msixMask := rfl
@[simp] theorem setMstart_msixPend (s : State) (n : Nat) : (s.setMstart n).msixPend = s.msixPend := rfl
@[simp] theorem setMstart_bar4Size (s : State) (n : Nat) : (s.setMstart n).bar4Size = s.bar4Size := rfl
@[simp] theorem setMstart_wire (s : State) (n : Nat) : (s.setMstart n).wire = s.wire := rfl
@[simp] theorem setMstart_held (s : State) (n : Nat) : (s.setMstart n).held = s.held := rfl
@[simp] theorem setMstart_nextHeld (s : State) (n : Nat) : (s.setMstart n).nextHeld = s.nextHeld := rfl
@[simp] theorem setMstart_lqTags (s : State) (n : Nat) : (s.setMstart n).lqTags = s.lqTags := rfl
@[simp] theorem setMstart_mcTags (s : State) (n : Nat) : (s.setMstart n).mcTags = s.mcTags := rfl
@[simp] theorem setMstart_hart_live (s : State) (n : Nat) : (s.setMstart n).hart.live = s.hart.live := rfl
@[simp] theorem setMstart_hart_idx (s : State) (n : Nat) : (s.setMstart n).hart.idx = s.hart.idx := rfl
@[simp] theorem setMstart_hart_pc (s : State) (n : Nat) : (s.setMstart n).hart.pc = s.hart.pc := rfl
@[simp] theorem setMstart_hart_x (s : State) (n : Nat) : (s.setMstart n).hart.x = s.hart.x := rfl
@[simp] theorem setMstart_hart_ir (s : State) (n : Nat) : (s.setMstart n).hart.ir = s.hart.ir := rfl
@[simp] theorem setMstart_hart_ibuf (s : State) (n : Nat) : (s.setMstart n).hart.ibuf = s.hart.ibuf := rfl
@[simp] theorem setMstart_hart_imp (s : State) (n : Nat) : (s.setMstart n).hart.imp = s.hart.imp := rfl
@[simp] theorem setMstart_hart_nreg (s : State) (n : Nat) : (s.setMstart n).hart.nreg = s.hart.nreg := rfl
@[simp] theorem setMstart_hart_sewMax (s : State) (n : Nat) : (s.setMstart n).hart.sewMax = s.hart.sewMax := rfl
@[simp] theorem setMstart_hart_vlenb (s : State) (n : Nat) : (s.setMstart n).hart.vlenb = s.hart.vlenb := rfl
@[simp] theorem setMstart_hart_v (s : State) (n : Nat) : (s.setMstart n).hart.v = s.hart.v := rfl
@[simp] theorem setMstart_hart_vpois (s : State) (n : Nat) : (s.setMstart n).hart.vpois = s.hart.vpois := rfl
@[simp] theorem setMstart_hart_m (s : State) (n : Nat) : (s.setMstart n).hart.m = s.hart.m := rfl
@[simp] theorem setMstart_hart_wext (s : State) (n : Nat) : (s.setMstart n).hart.wext = s.hart.wext := rfl
@[simp] theorem setMstart_hart_tiles (s : State) (n : Nat) : (s.setMstart n).hart.tiles = s.hart.tiles := rfl
@[simp] theorem setMstart_hart_acc (s : State) (n : Nat) : (s.setMstart n).hart.acc = s.hart.acc := rfl
@[simp] theorem setMstart_hart_accPois (s : State) (n : Nat) : (s.setMstart n).hart.accPois = s.hart.accPois := rfl
@[simp] theorem setMstart_hart_pend (s : State) (n : Nat) : (s.setMstart n).hart.pend = s.hart.pend := rfl
@[simp] theorem setMstart_hart_sa (s : State) (n : Nat) : (s.setMstart n).hart.sa = s.hart.sa := rfl
@[simp] theorem setMstart_hart_sb (s : State) (n : Nat) : (s.setMstart n).hart.sb = s.hart.sb := rfl
@[simp] theorem setMstart_hart_scaled (s : State) (n : Nat) : (s.setMstart n).hart.scaled = s.hart.scaled := rfl
@[simp] theorem setMstart_hart_holdq (s : State) (n : Nat) : (s.setMstart n).hart.holdq = s.hart.holdq := rfl
@[simp] theorem setMstart_hart_trow (s : State) (n : Nat) : (s.setMstart n).hart.trow = s.hart.trow := rfl
@[simp] theorem setMstart_hart_ds (s : State) (n : Nat) : (s.setMstart n).hart.ds = s.hart.ds := rfl
@[simp] theorem setMstart_hart_cp (s : State) (n : Nat) : (s.setMstart n).hart.cp = s.hart.cp := rfl
@[simp] theorem setMstart_hart_staged (s : State) (n : Nat) : (s.setMstart n).hart.staged = s.hart.staged := rfl
@[simp] theorem setMstart_hart_drain (s : State) (n : Nat) : (s.setMstart n).hart.drain = s.hart.drain := rfl
@[simp] theorem setMstart_hart_merge (s : State) (n : Nat) : (s.setMstart n).hart.merge = s.hart.merge := rfl
@[simp] theorem setMstart_hart_asked (s : State) (n : Nat) : (s.setMstart n).hart.asked = s.hart.asked := rfl
@[simp] theorem setMstart_hart_answers (s : State) (n : Nat) : (s.setMstart n).hart.answers = s.hart.answers := rfl
@[simp] theorem setMstart_hart_posted (s : State) (n : Nat) : (s.setMstart n).hart.posted = s.hart.posted := rfl
@[simp] theorem setMstart_hart_pairs (s : State) (n : Nat) : (s.setMstart n).hart.pairs = s.hart.pairs := rfl
@[simp] theorem setMstart_hart_olds (s : State) (n : Nat) : (s.setMstart n).hart.olds = s.hart.olds := rfl
@[simp] theorem setMstart_hart_early (s : State) (n : Nat) : (s.setMstart n).hart.early = s.hart.early := rfl
@[simp] theorem setMstart_hart_stq (s : State) (n : Nat) : (s.setMstart n).hart.stq = s.hart.stq := rfl
@[simp] theorem setMstart_hart_late (s : State) (n : Nat) : (s.setMstart n).hart.late = s.hart.late := rfl
@[simp] theorem setMstart_hart_lockRun (s : State) (n : Nat) : (s.setMstart n).hart.lockRun = s.hart.lockRun := rfl
@[simp] theorem setMstart_hart_vlDs (s : State) (n : Nat) : (s.setMstart n).hart.vlDs = s.hart.vlDs := rfl
@[simp] theorem setMstart_hart_barAt (s : State) (n : Nat) : (s.setMstart n).hart.barAt = s.hart.barAt := rfl
@[simp] theorem setMstart_hart_barGo (s : State) (n : Nat) : (s.setMstart n).hart.barGo = s.hart.barGo := rfl
@[simp] theorem setMstart_hart_halted (s : State) (n : Nat) : (s.setMstart n).hart.halted = s.hart.halted := rfl
@[simp] theorem setMstart_hart_stopped (s : State) (n : Nat) : (s.setMstart n).hart.stopped = s.hart.stopped := rfl
@[simp] theorem setMstart_hart_deficit (s : State) (n : Nat) : (s.setMstart n).hart.deficit = s.hart.deficit := rfl
@[simp] theorem setMstart_hart_head (s : State) (n : Nat) : (s.setMstart n).hart.head = s.hart.head := rfl
@[simp] theorem setMstart_hart_limit (s : State) (n : Nat) : (s.setMstart n).hart.limit = s.hart.limit := rfl
@[simp] theorem setMstart_hart_conv (s : State) (n : Nat) : (s.setMstart n).hart.conv = s.hart.conv := rfl

/-! ### setVl -/

@[simp] theorem setVl_time (s : State) (n : Nat) : (s.setVl n).time = s.time := rfl
@[simp] theorem setVl_moves (s : State) (n : Nat) : (s.setVl n).moves = s.moves := rfl
@[simp] theorem setVl_input (s : State) (n : Nat) : (s.setVl n).input = s.input := rfl
@[simp] theorem setVl_freeCtr (s : State) (n : Nat) : (s.setVl n).freeCtr = s.freeCtr := rfl
@[simp] theorem setVl_out (s : State) (n : Nat) : (s.setVl n).out = s.out := rfl
@[simp] theorem setVl_cur (s : State) (n : Nat) : (s.setVl n).cur = s.cur := rfl
@[simp] theorem setVl_crew (s : State) (n : Nat) : (s.setVl n).crew = s.crew := rfl
@[simp] theorem setVl_harts (s : State) (n : Nat) : (s.setVl n).harts = s.harts := rfl
@[simp] theorem setVl_crews (s : State) (n : Nat) : (s.setVl n).crews = s.crews := rfl
@[simp] theorem setVl_nextUid (s : State) (n : Nat) : (s.setVl n).nextUid = s.nextUid := rfl
@[simp] theorem setVl_nextTag (s : State) (n : Nat) : (s.setVl n).nextTag = s.nextTag := rfl
@[simp] theorem setVl_dcache (s : State) (n : Nat) : (s.setVl n).dcache = s.dcache := rfl
@[simp] theorem setVl_icache (s : State) (n : Nat) : (s.setVl n).icache = s.icache := rfl
@[simp] theorem setVl_mnet (s : State) (n : Nat) : (s.setVl n).mnet = s.mnet := rfl
@[simp] theorem setVl_recs (s : State) (n : Nat) : (s.setVl n).recs = s.recs := rfl
@[simp] theorem setVl_mem (s : State) (n : Nat) : (s.setVl n).mem = s.mem := rfl
@[simp] theorem setVl_pois (s : State) (n : Nat) : (s.setVl n).pois = s.pois := rfl
@[simp] theorem setVl_cregs (s : State) (n : Nat) : (s.setVl n).cregs = s.cregs := rfl
@[simp] theorem setVl_tlb (s : State) (n : Nat) : (s.setVl n).tlb = s.tlb := rfl
@[simp] theorem setVl_walks (s : State) (n : Nat) : (s.setVl n).walks = s.walks := rfl
@[simp] theorem setVl_invals (s : State) (n : Nat) : (s.setVl n).invals = s.invals := rfl
@[simp] theorem setVl_regs (s : State) (n : Nat) : (s.setVl n).regs = s.regs := rfl
@[simp] theorem setVl_ctrs (s : State) (n : Nat) : (s.setVl n).ctrs = s.ctrs := rfl
@[simp] theorem setVl_launches (s : State) (n : Nat) : (s.setVl n).launches = s.launches := rfl
@[simp] theorem setVl_nextSeq (s : State) (n : Nat) : (s.setVl n).nextSeq = s.nextSeq := rfl
@[simp] theorem setVl_nextId (s : State) (n : Nat) : (s.setVl n).nextId = s.nextId := rfl
@[simp] theorem setVl_cmds (s : State) (n : Nat) : (s.setVl n).cmds = s.cmds := rfl
@[simp] theorem setVl_fq (s : State) (n : Nat) : (s.setVl n).fq = s.fq := rfl
@[simp] theorem setVl_fqWait (s : State) (n : Nat) : (s.setVl n).fqWait = s.fqWait := rfl
@[simp] theorem setVl_faq (s : State) (n : Nat) : (s.setVl n).faq = s.faq := rfl
@[simp] theorem setVl_faqLost (s : State) (n : Nat) : (s.setVl n).faqLost = s.faqLost := rfl
@[simp] theorem setVl_errs (s : State) (n : Nat) : (s.setVl n).errs = s.errs := rfl
@[simp] theorem setVl_events (s : State) (n : Nat) : (s.setVl n).events = s.events := rfl
@[simp] theorem setVl_bpl (s : State) (n : Nat) : (s.setVl n).bpl = s.bpl := rfl
@[simp] theorem setVl_bplBusy (s : State) (n : Nat) : (s.setVl n).bplBusy = s.bplBusy := rfl
@[simp] theorem setVl_bplTemp (s : State) (n : Nat) : (s.setVl n).bplTemp = s.bplTemp := rfl
@[simp] theorem setVl_locked (s : State) (n : Nat) : (s.setVl n).locked = s.locked := rfl
@[simp] theorem setVl_lockOvf (s : State) (n : Nat) : (s.setVl n).lockOvf = s.lockOvf := rfl
@[simp] theorem setVl_pkg (s : State) (n : Nat) : (s.setVl n).pkg = s.pkg := rfl
@[simp] theorem setVl_gov (s : State) (n : Nat) : (s.setVl n).gov = s.gov := rfl
@[simp] theorem setVl_ports (s : State) (n : Nat) : (s.setVl n).ports = s.ports := rfl
@[simp] theorem setVl_dir (s : State) (n : Nat) : (s.setVl n).dir = s.dir := rfl
@[simp] theorem setVl_drops (s : State) (n : Nat) : (s.setVl n).drops = s.drops := rfl
@[simp] theorem setVl_dropLost (s : State) (n : Nat) : (s.setVl n).dropLost = s.dropLost := rfl
@[simp] theorem setVl_msixMask (s : State) (n : Nat) : (s.setVl n).msixMask = s.msixMask := rfl
@[simp] theorem setVl_msixPend (s : State) (n : Nat) : (s.setVl n).msixPend = s.msixPend := rfl
@[simp] theorem setVl_bar4Size (s : State) (n : Nat) : (s.setVl n).bar4Size = s.bar4Size := rfl
@[simp] theorem setVl_wire (s : State) (n : Nat) : (s.setVl n).wire = s.wire := rfl
@[simp] theorem setVl_held (s : State) (n : Nat) : (s.setVl n).held = s.held := rfl
@[simp] theorem setVl_nextHeld (s : State) (n : Nat) : (s.setVl n).nextHeld = s.nextHeld := rfl
@[simp] theorem setVl_lqTags (s : State) (n : Nat) : (s.setVl n).lqTags = s.lqTags := rfl
@[simp] theorem setVl_mcTags (s : State) (n : Nat) : (s.setVl n).mcTags = s.mcTags := rfl
@[simp] theorem setVl_hart_live (s : State) (n : Nat) : (s.setVl n).hart.live = s.hart.live := rfl
@[simp] theorem setVl_hart_idx (s : State) (n : Nat) : (s.setVl n).hart.idx = s.hart.idx := rfl
@[simp] theorem setVl_hart_pc (s : State) (n : Nat) : (s.setVl n).hart.pc = s.hart.pc := rfl
@[simp] theorem setVl_hart_x (s : State) (n : Nat) : (s.setVl n).hart.x = s.hart.x := rfl
@[simp] theorem setVl_hart_ir (s : State) (n : Nat) : (s.setVl n).hart.ir = s.hart.ir := rfl
@[simp] theorem setVl_hart_ibuf (s : State) (n : Nat) : (s.setVl n).hart.ibuf = s.hart.ibuf := rfl
@[simp] theorem setVl_hart_imp (s : State) (n : Nat) : (s.setVl n).hart.imp = s.hart.imp := rfl
@[simp] theorem setVl_hart_nreg (s : State) (n : Nat) : (s.setVl n).hart.nreg = s.hart.nreg := rfl
@[simp] theorem setVl_hart_sewMax (s : State) (n : Nat) : (s.setVl n).hart.sewMax = s.hart.sewMax := rfl
@[simp] theorem setVl_hart_vlenb (s : State) (n : Nat) : (s.setVl n).hart.vlenb = s.hart.vlenb := rfl
@[simp] theorem setVl_hart_v (s : State) (n : Nat) : (s.setVl n).hart.v = s.hart.v := rfl
@[simp] theorem setVl_hart_vpois (s : State) (n : Nat) : (s.setVl n).hart.vpois = s.hart.vpois := rfl
@[simp] theorem setVl_hart_m (s : State) (n : Nat) : (s.setVl n).hart.m = s.hart.m := rfl
@[simp] theorem setVl_hart_wext (s : State) (n : Nat) : (s.setVl n).hart.wext = s.hart.wext := rfl
@[simp] theorem setVl_hart_tiles (s : State) (n : Nat) : (s.setVl n).hart.tiles = s.hart.tiles := rfl
@[simp] theorem setVl_hart_acc (s : State) (n : Nat) : (s.setVl n).hart.acc = s.hart.acc := rfl
@[simp] theorem setVl_hart_accPois (s : State) (n : Nat) : (s.setVl n).hart.accPois = s.hart.accPois := rfl
@[simp] theorem setVl_hart_pend (s : State) (n : Nat) : (s.setVl n).hart.pend = s.hart.pend := rfl
@[simp] theorem setVl_hart_sa (s : State) (n : Nat) : (s.setVl n).hart.sa = s.hart.sa := rfl
@[simp] theorem setVl_hart_sb (s : State) (n : Nat) : (s.setVl n).hart.sb = s.hart.sb := rfl
@[simp] theorem setVl_hart_scaled (s : State) (n : Nat) : (s.setVl n).hart.scaled = s.hart.scaled := rfl
@[simp] theorem setVl_hart_holdq (s : State) (n : Nat) : (s.setVl n).hart.holdq = s.hart.holdq := rfl
@[simp] theorem setVl_hart_trow (s : State) (n : Nat) : (s.setVl n).hart.trow = s.hart.trow := rfl
@[simp] theorem setVl_hart_ds (s : State) (n : Nat) : (s.setVl n).hart.ds = s.hart.ds := rfl
@[simp] theorem setVl_hart_cp (s : State) (n : Nat) : (s.setVl n).hart.cp = s.hart.cp := rfl
@[simp] theorem setVl_hart_staged (s : State) (n : Nat) : (s.setVl n).hart.staged = s.hart.staged := rfl
@[simp] theorem setVl_hart_drain (s : State) (n : Nat) : (s.setVl n).hart.drain = s.hart.drain := rfl
@[simp] theorem setVl_hart_merge (s : State) (n : Nat) : (s.setVl n).hart.merge = s.hart.merge := rfl
@[simp] theorem setVl_hart_asked (s : State) (n : Nat) : (s.setVl n).hart.asked = s.hart.asked := rfl
@[simp] theorem setVl_hart_answers (s : State) (n : Nat) : (s.setVl n).hart.answers = s.hart.answers := rfl
@[simp] theorem setVl_hart_posted (s : State) (n : Nat) : (s.setVl n).hart.posted = s.hart.posted := rfl
@[simp] theorem setVl_hart_pairs (s : State) (n : Nat) : (s.setVl n).hart.pairs = s.hart.pairs := rfl
@[simp] theorem setVl_hart_olds (s : State) (n : Nat) : (s.setVl n).hart.olds = s.hart.olds := rfl
@[simp] theorem setVl_hart_early (s : State) (n : Nat) : (s.setVl n).hart.early = s.hart.early := rfl
@[simp] theorem setVl_hart_stq (s : State) (n : Nat) : (s.setVl n).hart.stq = s.hart.stq := rfl
@[simp] theorem setVl_hart_late (s : State) (n : Nat) : (s.setVl n).hart.late = s.hart.late := rfl
@[simp] theorem setVl_hart_lockRun (s : State) (n : Nat) : (s.setVl n).hart.lockRun = s.hart.lockRun := rfl
@[simp] theorem setVl_hart_barAt (s : State) (n : Nat) : (s.setVl n).hart.barAt = s.hart.barAt := rfl
@[simp] theorem setVl_hart_barGo (s : State) (n : Nat) : (s.setVl n).hart.barGo = s.hart.barGo := rfl
@[simp] theorem setVl_hart_halted (s : State) (n : Nat) : (s.setVl n).hart.halted = s.hart.halted := rfl
@[simp] theorem setVl_hart_stopped (s : State) (n : Nat) : (s.setVl n).hart.stopped = s.hart.stopped := rfl
@[simp] theorem setVl_hart_deficit (s : State) (n : Nat) : (s.setVl n).hart.deficit = s.hart.deficit := rfl
@[simp] theorem setVl_hart_head (s : State) (n : Nat) : (s.setVl n).hart.head = s.hart.head := rfl
@[simp] theorem setVl_hart_limit (s : State) (n : Nat) : (s.setVl n).hart.limit = s.hart.limit := rfl
@[simp] theorem setVl_hart_conv (s : State) (n : Nat) : (s.setVl n).hart.conv = s.hart.conv := rfl

/-! ### setVlVec -/

@[simp] theorem setVlVec_time (s : State) (n : Nat) : (s.setVlVec n).time = s.time := rfl
@[simp] theorem setVlVec_moves (s : State) (n : Nat) : (s.setVlVec n).moves = s.moves := rfl
@[simp] theorem setVlVec_input (s : State) (n : Nat) : (s.setVlVec n).input = s.input := rfl
@[simp] theorem setVlVec_freeCtr (s : State) (n : Nat) : (s.setVlVec n).freeCtr = s.freeCtr := rfl
@[simp] theorem setVlVec_out (s : State) (n : Nat) : (s.setVlVec n).out = s.out := rfl
@[simp] theorem setVlVec_cur (s : State) (n : Nat) : (s.setVlVec n).cur = s.cur := rfl
@[simp] theorem setVlVec_crew (s : State) (n : Nat) : (s.setVlVec n).crew = s.crew := rfl
@[simp] theorem setVlVec_harts (s : State) (n : Nat) : (s.setVlVec n).harts = s.harts := rfl
@[simp] theorem setVlVec_crews (s : State) (n : Nat) : (s.setVlVec n).crews = s.crews := rfl
@[simp] theorem setVlVec_nextUid (s : State) (n : Nat) : (s.setVlVec n).nextUid = s.nextUid := rfl
@[simp] theorem setVlVec_nextTag (s : State) (n : Nat) : (s.setVlVec n).nextTag = s.nextTag := rfl
@[simp] theorem setVlVec_dcache (s : State) (n : Nat) : (s.setVlVec n).dcache = s.dcache := rfl
@[simp] theorem setVlVec_icache (s : State) (n : Nat) : (s.setVlVec n).icache = s.icache := rfl
@[simp] theorem setVlVec_mnet (s : State) (n : Nat) : (s.setVlVec n).mnet = s.mnet := rfl
@[simp] theorem setVlVec_recs (s : State) (n : Nat) : (s.setVlVec n).recs = s.recs := rfl
@[simp] theorem setVlVec_mem (s : State) (n : Nat) : (s.setVlVec n).mem = s.mem := rfl
@[simp] theorem setVlVec_pois (s : State) (n : Nat) : (s.setVlVec n).pois = s.pois := rfl
@[simp] theorem setVlVec_cregs (s : State) (n : Nat) : (s.setVlVec n).cregs = s.cregs := rfl
@[simp] theorem setVlVec_tlb (s : State) (n : Nat) : (s.setVlVec n).tlb = s.tlb := rfl
@[simp] theorem setVlVec_walks (s : State) (n : Nat) : (s.setVlVec n).walks = s.walks := rfl
@[simp] theorem setVlVec_invals (s : State) (n : Nat) : (s.setVlVec n).invals = s.invals := rfl
@[simp] theorem setVlVec_regs (s : State) (n : Nat) : (s.setVlVec n).regs = s.regs := rfl
@[simp] theorem setVlVec_ctrs (s : State) (n : Nat) : (s.setVlVec n).ctrs = s.ctrs := rfl
@[simp] theorem setVlVec_launches (s : State) (n : Nat) : (s.setVlVec n).launches = s.launches := rfl
@[simp] theorem setVlVec_nextSeq (s : State) (n : Nat) : (s.setVlVec n).nextSeq = s.nextSeq := rfl
@[simp] theorem setVlVec_nextId (s : State) (n : Nat) : (s.setVlVec n).nextId = s.nextId := rfl
@[simp] theorem setVlVec_cmds (s : State) (n : Nat) : (s.setVlVec n).cmds = s.cmds := rfl
@[simp] theorem setVlVec_fq (s : State) (n : Nat) : (s.setVlVec n).fq = s.fq := rfl
@[simp] theorem setVlVec_fqWait (s : State) (n : Nat) : (s.setVlVec n).fqWait = s.fqWait := rfl
@[simp] theorem setVlVec_faq (s : State) (n : Nat) : (s.setVlVec n).faq = s.faq := rfl
@[simp] theorem setVlVec_faqLost (s : State) (n : Nat) : (s.setVlVec n).faqLost = s.faqLost := rfl
@[simp] theorem setVlVec_errs (s : State) (n : Nat) : (s.setVlVec n).errs = s.errs := rfl
@[simp] theorem setVlVec_events (s : State) (n : Nat) : (s.setVlVec n).events = s.events := rfl
@[simp] theorem setVlVec_bpl (s : State) (n : Nat) : (s.setVlVec n).bpl = s.bpl := rfl
@[simp] theorem setVlVec_bplBusy (s : State) (n : Nat) : (s.setVlVec n).bplBusy = s.bplBusy := rfl
@[simp] theorem setVlVec_bplTemp (s : State) (n : Nat) : (s.setVlVec n).bplTemp = s.bplTemp := rfl
@[simp] theorem setVlVec_locked (s : State) (n : Nat) : (s.setVlVec n).locked = s.locked := rfl
@[simp] theorem setVlVec_lockOvf (s : State) (n : Nat) : (s.setVlVec n).lockOvf = s.lockOvf := rfl
@[simp] theorem setVlVec_pkg (s : State) (n : Nat) : (s.setVlVec n).pkg = s.pkg := rfl
@[simp] theorem setVlVec_gov (s : State) (n : Nat) : (s.setVlVec n).gov = s.gov := rfl
@[simp] theorem setVlVec_ports (s : State) (n : Nat) : (s.setVlVec n).ports = s.ports := rfl
@[simp] theorem setVlVec_dir (s : State) (n : Nat) : (s.setVlVec n).dir = s.dir := rfl
@[simp] theorem setVlVec_drops (s : State) (n : Nat) : (s.setVlVec n).drops = s.drops := rfl
@[simp] theorem setVlVec_dropLost (s : State) (n : Nat) : (s.setVlVec n).dropLost = s.dropLost := rfl
@[simp] theorem setVlVec_msixMask (s : State) (n : Nat) : (s.setVlVec n).msixMask = s.msixMask := rfl
@[simp] theorem setVlVec_msixPend (s : State) (n : Nat) : (s.setVlVec n).msixPend = s.msixPend := rfl
@[simp] theorem setVlVec_bar4Size (s : State) (n : Nat) : (s.setVlVec n).bar4Size = s.bar4Size := rfl
@[simp] theorem setVlVec_wire (s : State) (n : Nat) : (s.setVlVec n).wire = s.wire := rfl
@[simp] theorem setVlVec_held (s : State) (n : Nat) : (s.setVlVec n).held = s.held := rfl
@[simp] theorem setVlVec_nextHeld (s : State) (n : Nat) : (s.setVlVec n).nextHeld = s.nextHeld := rfl
@[simp] theorem setVlVec_lqTags (s : State) (n : Nat) : (s.setVlVec n).lqTags = s.lqTags := rfl
@[simp] theorem setVlVec_mcTags (s : State) (n : Nat) : (s.setVlVec n).mcTags = s.mcTags := rfl
@[simp] theorem setVlVec_hart_live (s : State) (n : Nat) : (s.setVlVec n).hart.live = s.hart.live := rfl
@[simp] theorem setVlVec_hart_idx (s : State) (n : Nat) : (s.setVlVec n).hart.idx = s.hart.idx := rfl
@[simp] theorem setVlVec_hart_pc (s : State) (n : Nat) : (s.setVlVec n).hart.pc = s.hart.pc := rfl
@[simp] theorem setVlVec_hart_x (s : State) (n : Nat) : (s.setVlVec n).hart.x = s.hart.x := rfl
@[simp] theorem setVlVec_hart_ir (s : State) (n : Nat) : (s.setVlVec n).hart.ir = s.hart.ir := rfl
@[simp] theorem setVlVec_hart_ibuf (s : State) (n : Nat) : (s.setVlVec n).hart.ibuf = s.hart.ibuf := rfl
@[simp] theorem setVlVec_hart_imp (s : State) (n : Nat) : (s.setVlVec n).hart.imp = s.hart.imp := rfl
@[simp] theorem setVlVec_hart_nreg (s : State) (n : Nat) : (s.setVlVec n).hart.nreg = s.hart.nreg := rfl
@[simp] theorem setVlVec_hart_sewMax (s : State) (n : Nat) : (s.setVlVec n).hart.sewMax = s.hart.sewMax := rfl
@[simp] theorem setVlVec_hart_vlenb (s : State) (n : Nat) : (s.setVlVec n).hart.vlenb = s.hart.vlenb := rfl
@[simp] theorem setVlVec_hart_v (s : State) (n : Nat) : (s.setVlVec n).hart.v = s.hart.v := rfl
@[simp] theorem setVlVec_hart_vpois (s : State) (n : Nat) : (s.setVlVec n).hart.vpois = s.hart.vpois := rfl
@[simp] theorem setVlVec_hart_m (s : State) (n : Nat) : (s.setVlVec n).hart.m = s.hart.m := rfl
@[simp] theorem setVlVec_hart_wext (s : State) (n : Nat) : (s.setVlVec n).hart.wext = s.hart.wext := rfl
@[simp] theorem setVlVec_hart_tiles (s : State) (n : Nat) : (s.setVlVec n).hart.tiles = s.hart.tiles := rfl
@[simp] theorem setVlVec_hart_acc (s : State) (n : Nat) : (s.setVlVec n).hart.acc = s.hart.acc := rfl
@[simp] theorem setVlVec_hart_accPois (s : State) (n : Nat) : (s.setVlVec n).hart.accPois = s.hart.accPois := rfl
@[simp] theorem setVlVec_hart_pend (s : State) (n : Nat) : (s.setVlVec n).hart.pend = s.hart.pend := rfl
@[simp] theorem setVlVec_hart_sa (s : State) (n : Nat) : (s.setVlVec n).hart.sa = s.hart.sa := rfl
@[simp] theorem setVlVec_hart_sb (s : State) (n : Nat) : (s.setVlVec n).hart.sb = s.hart.sb := rfl
@[simp] theorem setVlVec_hart_scaled (s : State) (n : Nat) : (s.setVlVec n).hart.scaled = s.hart.scaled := rfl
@[simp] theorem setVlVec_hart_holdq (s : State) (n : Nat) : (s.setVlVec n).hart.holdq = s.hart.holdq := rfl
@[simp] theorem setVlVec_hart_trow (s : State) (n : Nat) : (s.setVlVec n).hart.trow = s.hart.trow := rfl
@[simp] theorem setVlVec_hart_ds (s : State) (n : Nat) : (s.setVlVec n).hart.ds = s.hart.ds := rfl
@[simp] theorem setVlVec_hart_cp (s : State) (n : Nat) : (s.setVlVec n).hart.cp = s.hart.cp := rfl
@[simp] theorem setVlVec_hart_staged (s : State) (n : Nat) : (s.setVlVec n).hart.staged = s.hart.staged := rfl
@[simp] theorem setVlVec_hart_drain (s : State) (n : Nat) : (s.setVlVec n).hart.drain = s.hart.drain := rfl
@[simp] theorem setVlVec_hart_merge (s : State) (n : Nat) : (s.setVlVec n).hart.merge = s.hart.merge := rfl
@[simp] theorem setVlVec_hart_asked (s : State) (n : Nat) : (s.setVlVec n).hart.asked = s.hart.asked := rfl
@[simp] theorem setVlVec_hart_answers (s : State) (n : Nat) : (s.setVlVec n).hart.answers = s.hart.answers := rfl
@[simp] theorem setVlVec_hart_posted (s : State) (n : Nat) : (s.setVlVec n).hart.posted = s.hart.posted := rfl
@[simp] theorem setVlVec_hart_pairs (s : State) (n : Nat) : (s.setVlVec n).hart.pairs = s.hart.pairs := rfl
@[simp] theorem setVlVec_hart_olds (s : State) (n : Nat) : (s.setVlVec n).hart.olds = s.hart.olds := rfl
@[simp] theorem setVlVec_hart_early (s : State) (n : Nat) : (s.setVlVec n).hart.early = s.hart.early := rfl
@[simp] theorem setVlVec_hart_stq (s : State) (n : Nat) : (s.setVlVec n).hart.stq = s.hart.stq := rfl
@[simp] theorem setVlVec_hart_late (s : State) (n : Nat) : (s.setVlVec n).hart.late = s.hart.late := rfl
@[simp] theorem setVlVec_hart_lockRun (s : State) (n : Nat) : (s.setVlVec n).hart.lockRun = s.hart.lockRun := rfl
@[simp] theorem setVlVec_hart_barAt (s : State) (n : Nat) : (s.setVlVec n).hart.barAt = s.hart.barAt := rfl
@[simp] theorem setVlVec_hart_barGo (s : State) (n : Nat) : (s.setVlVec n).hart.barGo = s.hart.barGo := rfl
@[simp] theorem setVlVec_hart_halted (s : State) (n : Nat) : (s.setVlVec n).hart.halted = s.hart.halted := rfl
@[simp] theorem setVlVec_hart_stopped (s : State) (n : Nat) : (s.setVlVec n).hart.stopped = s.hart.stopped := rfl
@[simp] theorem setVlVec_hart_deficit (s : State) (n : Nat) : (s.setVlVec n).hart.deficit = s.hart.deficit := rfl
@[simp] theorem setVlVec_hart_head (s : State) (n : Nat) : (s.setVlVec n).hart.head = s.hart.head := rfl
@[simp] theorem setVlVec_hart_limit (s : State) (n : Nat) : (s.setVlVec n).hart.limit = s.hart.limit := rfl
@[simp] theorem setVlVec_hart_conv (s : State) (n : Nat) : (s.setVlVec n).hart.conv = s.hart.conv := rfl

/-! ### takeTrap -/

@[simp] theorem takeTrap_time (s : State) (c : Cause) (sub : Nat) (v p : Word) (i : Bool) : (s.takeTrap c sub v p i).time = s.time := rfl
@[simp] theorem takeTrap_moves (s : State) (c : Cause) (sub : Nat) (v p : Word) (i : Bool) : (s.takeTrap c sub v p i).moves = s.moves := rfl
@[simp] theorem takeTrap_input (s : State) (c : Cause) (sub : Nat) (v p : Word) (i : Bool) : (s.takeTrap c sub v p i).input = s.input := rfl
@[simp] theorem takeTrap_freeCtr (s : State) (c : Cause) (sub : Nat) (v p : Word) (i : Bool) : (s.takeTrap c sub v p i).freeCtr = s.freeCtr := rfl
@[simp] theorem takeTrap_out (s : State) (c : Cause) (sub : Nat) (v p : Word) (i : Bool) : (s.takeTrap c sub v p i).out = s.out := rfl
@[simp] theorem takeTrap_cur (s : State) (c : Cause) (sub : Nat) (v p : Word) (i : Bool) : (s.takeTrap c sub v p i).cur = s.cur := rfl
@[simp] theorem takeTrap_crew (s : State) (c : Cause) (sub : Nat) (v p : Word) (i : Bool) : (s.takeTrap c sub v p i).crew = s.crew := rfl
@[simp] theorem takeTrap_harts (s : State) (c : Cause) (sub : Nat) (v p : Word) (i : Bool) : (s.takeTrap c sub v p i).harts = s.harts := rfl
@[simp] theorem takeTrap_crews (s : State) (c : Cause) (sub : Nat) (v p : Word) (i : Bool) : (s.takeTrap c sub v p i).crews = s.crews := rfl
@[simp] theorem takeTrap_nextUid (s : State) (c : Cause) (sub : Nat) (v p : Word) (i : Bool) : (s.takeTrap c sub v p i).nextUid = s.nextUid := rfl
@[simp] theorem takeTrap_nextTag (s : State) (c : Cause) (sub : Nat) (v p : Word) (i : Bool) : (s.takeTrap c sub v p i).nextTag = s.nextTag := rfl
@[simp] theorem takeTrap_dcache (s : State) (c : Cause) (sub : Nat) (v p : Word) (i : Bool) : (s.takeTrap c sub v p i).dcache = s.dcache := rfl
@[simp] theorem takeTrap_icache (s : State) (c : Cause) (sub : Nat) (v p : Word) (i : Bool) : (s.takeTrap c sub v p i).icache = s.icache := rfl
@[simp] theorem takeTrap_mnet (s : State) (c : Cause) (sub : Nat) (v p : Word) (i : Bool) : (s.takeTrap c sub v p i).mnet = s.mnet := rfl
@[simp] theorem takeTrap_recs (s : State) (c : Cause) (sub : Nat) (v p : Word) (i : Bool) : (s.takeTrap c sub v p i).recs = s.recs := rfl
@[simp] theorem takeTrap_mem (s : State) (c : Cause) (sub : Nat) (v p : Word) (i : Bool) : (s.takeTrap c sub v p i).mem = s.mem := rfl
@[simp] theorem takeTrap_pois (s : State) (c : Cause) (sub : Nat) (v p : Word) (i : Bool) : (s.takeTrap c sub v p i).pois = s.pois := rfl
@[simp] theorem takeTrap_cregs (s : State) (c : Cause) (sub : Nat) (v p : Word) (i : Bool) : (s.takeTrap c sub v p i).cregs = s.cregs := rfl
@[simp] theorem takeTrap_tlb (s : State) (c : Cause) (sub : Nat) (v p : Word) (i : Bool) : (s.takeTrap c sub v p i).tlb = s.tlb := rfl
@[simp] theorem takeTrap_walks (s : State) (c : Cause) (sub : Nat) (v p : Word) (i : Bool) : (s.takeTrap c sub v p i).walks = s.walks := rfl
@[simp] theorem takeTrap_invals (s : State) (c : Cause) (sub : Nat) (v p : Word) (i : Bool) : (s.takeTrap c sub v p i).invals = s.invals := rfl
@[simp] theorem takeTrap_regs (s : State) (c : Cause) (sub : Nat) (v p : Word) (i : Bool) : (s.takeTrap c sub v p i).regs = s.regs := rfl
@[simp] theorem takeTrap_ctrs (s : State) (c : Cause) (sub : Nat) (v p : Word) (i : Bool) : (s.takeTrap c sub v p i).ctrs = s.ctrs := rfl
@[simp] theorem takeTrap_launches (s : State) (c : Cause) (sub : Nat) (v p : Word) (i : Bool) : (s.takeTrap c sub v p i).launches = s.launches := rfl
@[simp] theorem takeTrap_nextSeq (s : State) (c : Cause) (sub : Nat) (v p : Word) (i : Bool) : (s.takeTrap c sub v p i).nextSeq = s.nextSeq := rfl
@[simp] theorem takeTrap_nextId (s : State) (c : Cause) (sub : Nat) (v p : Word) (i : Bool) : (s.takeTrap c sub v p i).nextId = s.nextId := rfl
@[simp] theorem takeTrap_cmds (s : State) (c : Cause) (sub : Nat) (v p : Word) (i : Bool) : (s.takeTrap c sub v p i).cmds = s.cmds := rfl
@[simp] theorem takeTrap_fq (s : State) (c : Cause) (sub : Nat) (v p : Word) (i : Bool) : (s.takeTrap c sub v p i).fq = s.fq := rfl
@[simp] theorem takeTrap_fqWait (s : State) (c : Cause) (sub : Nat) (v p : Word) (i : Bool) : (s.takeTrap c sub v p i).fqWait = s.fqWait := rfl
@[simp] theorem takeTrap_faq (s : State) (c : Cause) (sub : Nat) (v p : Word) (i : Bool) : (s.takeTrap c sub v p i).faq = s.faq := rfl
@[simp] theorem takeTrap_faqLost (s : State) (c : Cause) (sub : Nat) (v p : Word) (i : Bool) : (s.takeTrap c sub v p i).faqLost = s.faqLost := rfl
@[simp] theorem takeTrap_errs (s : State) (c : Cause) (sub : Nat) (v p : Word) (i : Bool) : (s.takeTrap c sub v p i).errs = s.errs := rfl
@[simp] theorem takeTrap_events (s : State) (c : Cause) (sub : Nat) (v p : Word) (i : Bool) : (s.takeTrap c sub v p i).events = s.events := rfl
@[simp] theorem takeTrap_bpl (s : State) (c : Cause) (sub : Nat) (v p : Word) (i : Bool) : (s.takeTrap c sub v p i).bpl = s.bpl := rfl
@[simp] theorem takeTrap_bplBusy (s : State) (c : Cause) (sub : Nat) (v p : Word) (i : Bool) : (s.takeTrap c sub v p i).bplBusy = s.bplBusy := rfl
@[simp] theorem takeTrap_bplTemp (s : State) (c : Cause) (sub : Nat) (v p : Word) (i : Bool) : (s.takeTrap c sub v p i).bplTemp = s.bplTemp := rfl
@[simp] theorem takeTrap_locked (s : State) (c : Cause) (sub : Nat) (v p : Word) (i : Bool) : (s.takeTrap c sub v p i).locked = s.locked := rfl
@[simp] theorem takeTrap_lockOvf (s : State) (c : Cause) (sub : Nat) (v p : Word) (i : Bool) : (s.takeTrap c sub v p i).lockOvf = s.lockOvf := rfl
@[simp] theorem takeTrap_pkg (s : State) (c : Cause) (sub : Nat) (v p : Word) (i : Bool) : (s.takeTrap c sub v p i).pkg = s.pkg := rfl
@[simp] theorem takeTrap_gov (s : State) (c : Cause) (sub : Nat) (v p : Word) (i : Bool) : (s.takeTrap c sub v p i).gov = s.gov := rfl
@[simp] theorem takeTrap_ports (s : State) (c : Cause) (sub : Nat) (v p : Word) (i : Bool) : (s.takeTrap c sub v p i).ports = s.ports := rfl
@[simp] theorem takeTrap_dir (s : State) (c : Cause) (sub : Nat) (v p : Word) (i : Bool) : (s.takeTrap c sub v p i).dir = s.dir := rfl
@[simp] theorem takeTrap_drops (s : State) (c : Cause) (sub : Nat) (v p : Word) (i : Bool) : (s.takeTrap c sub v p i).drops = s.drops := rfl
@[simp] theorem takeTrap_dropLost (s : State) (c : Cause) (sub : Nat) (v p : Word) (i : Bool) : (s.takeTrap c sub v p i).dropLost = s.dropLost := rfl
@[simp] theorem takeTrap_msixMask (s : State) (c : Cause) (sub : Nat) (v p : Word) (i : Bool) : (s.takeTrap c sub v p i).msixMask = s.msixMask := rfl
@[simp] theorem takeTrap_msixPend (s : State) (c : Cause) (sub : Nat) (v p : Word) (i : Bool) : (s.takeTrap c sub v p i).msixPend = s.msixPend := rfl
@[simp] theorem takeTrap_bar4Size (s : State) (c : Cause) (sub : Nat) (v p : Word) (i : Bool) : (s.takeTrap c sub v p i).bar4Size = s.bar4Size := rfl
@[simp] theorem takeTrap_wire (s : State) (c : Cause) (sub : Nat) (v p : Word) (i : Bool) : (s.takeTrap c sub v p i).wire = s.wire := rfl
@[simp] theorem takeTrap_held (s : State) (c : Cause) (sub : Nat) (v p : Word) (i : Bool) : (s.takeTrap c sub v p i).held = s.held := rfl
@[simp] theorem takeTrap_nextHeld (s : State) (c : Cause) (sub : Nat) (v p : Word) (i : Bool) : (s.takeTrap c sub v p i).nextHeld = s.nextHeld := rfl
@[simp] theorem takeTrap_lqTags (s : State) (c : Cause) (sub : Nat) (v p : Word) (i : Bool) : (s.takeTrap c sub v p i).lqTags = s.lqTags := rfl
@[simp] theorem takeTrap_mcTags (s : State) (c : Cause) (sub : Nat) (v p : Word) (i : Bool) : (s.takeTrap c sub v p i).mcTags = s.mcTags := rfl
@[simp] theorem takeTrap_hart_live (s : State) (c : Cause) (sub : Nat) (v p : Word) (i : Bool) : (s.takeTrap c sub v p i).hart.live = s.hart.live := rfl
@[simp] theorem takeTrap_hart_idx (s : State) (c : Cause) (sub : Nat) (v p : Word) (i : Bool) : (s.takeTrap c sub v p i).hart.idx = s.hart.idx := rfl
@[simp] theorem takeTrap_hart_x (s : State) (c : Cause) (sub : Nat) (v p : Word) (i : Bool) : (s.takeTrap c sub v p i).hart.x = s.hart.x := rfl
@[simp] theorem takeTrap_hart_ir (s : State) (c : Cause) (sub : Nat) (v p : Word) (i : Bool) : (s.takeTrap c sub v p i).hart.ir = s.hart.ir := rfl
@[simp] theorem takeTrap_hart_imp (s : State) (c : Cause) (sub : Nat) (v p : Word) (i : Bool) : (s.takeTrap c sub v p i).hart.imp = s.hart.imp := rfl
@[simp] theorem takeTrap_hart_nreg (s : State) (c : Cause) (sub : Nat) (v p : Word) (i : Bool) : (s.takeTrap c sub v p i).hart.nreg = s.hart.nreg := rfl
@[simp] theorem takeTrap_hart_sewMax (s : State) (c : Cause) (sub : Nat) (v p : Word) (i : Bool) : (s.takeTrap c sub v p i).hart.sewMax = s.hart.sewMax := rfl
@[simp] theorem takeTrap_hart_vlenb (s : State) (c : Cause) (sub : Nat) (v p : Word) (i : Bool) : (s.takeTrap c sub v p i).hart.vlenb = s.hart.vlenb := rfl
@[simp] theorem takeTrap_hart_v (s : State) (c : Cause) (sub : Nat) (v p : Word) (i : Bool) : (s.takeTrap c sub v p i).hart.v = s.hart.v := rfl
@[simp] theorem takeTrap_hart_vpois (s : State) (c : Cause) (sub : Nat) (v p : Word) (i : Bool) : (s.takeTrap c sub v p i).hart.vpois = s.hart.vpois := rfl
@[simp] theorem takeTrap_hart_m (s : State) (c : Cause) (sub : Nat) (v p : Word) (i : Bool) : (s.takeTrap c sub v p i).hart.m = s.hart.m := rfl
@[simp] theorem takeTrap_hart_wext (s : State) (c : Cause) (sub : Nat) (v p : Word) (i : Bool) : (s.takeTrap c sub v p i).hart.wext = s.hart.wext := rfl
@[simp] theorem takeTrap_hart_tiles (s : State) (c : Cause) (sub : Nat) (v p : Word) (i : Bool) : (s.takeTrap c sub v p i).hart.tiles = s.hart.tiles := rfl
@[simp] theorem takeTrap_hart_acc (s : State) (c : Cause) (sub : Nat) (v p : Word) (i : Bool) : (s.takeTrap c sub v p i).hart.acc = s.hart.acc := rfl
@[simp] theorem takeTrap_hart_accPois (s : State) (c : Cause) (sub : Nat) (v p : Word) (i : Bool) : (s.takeTrap c sub v p i).hart.accPois = s.hart.accPois := rfl
@[simp] theorem takeTrap_hart_pend (s : State) (c : Cause) (sub : Nat) (v p : Word) (i : Bool) : (s.takeTrap c sub v p i).hart.pend = s.hart.pend := rfl
@[simp] theorem takeTrap_hart_sa (s : State) (c : Cause) (sub : Nat) (v p : Word) (i : Bool) : (s.takeTrap c sub v p i).hart.sa = s.hart.sa := rfl
@[simp] theorem takeTrap_hart_sb (s : State) (c : Cause) (sub : Nat) (v p : Word) (i : Bool) : (s.takeTrap c sub v p i).hart.sb = s.hart.sb := rfl
@[simp] theorem takeTrap_hart_scaled (s : State) (c : Cause) (sub : Nat) (v p : Word) (i : Bool) : (s.takeTrap c sub v p i).hart.scaled = s.hart.scaled := rfl
@[simp] theorem takeTrap_hart_holdq (s : State) (c : Cause) (sub : Nat) (v p : Word) (i : Bool) : (s.takeTrap c sub v p i).hart.holdq = s.hart.holdq := rfl
@[simp] theorem takeTrap_hart_trow (s : State) (c : Cause) (sub : Nat) (v p : Word) (i : Bool) : (s.takeTrap c sub v p i).hart.trow = s.hart.trow := rfl
@[simp] theorem takeTrap_hart_ds (s : State) (c : Cause) (sub : Nat) (v p : Word) (i : Bool) : (s.takeTrap c sub v p i).hart.ds = s.hart.ds := rfl
@[simp] theorem takeTrap_hart_cp (s : State) (c : Cause) (sub : Nat) (v p : Word) (i : Bool) : (s.takeTrap c sub v p i).hart.cp = s.hart.cp := rfl
@[simp] theorem takeTrap_hart_staged (s : State) (c : Cause) (sub : Nat) (v p : Word) (i : Bool) : (s.takeTrap c sub v p i).hart.staged = s.hart.staged := rfl
@[simp] theorem takeTrap_hart_drain (s : State) (c : Cause) (sub : Nat) (v p : Word) (i : Bool) : (s.takeTrap c sub v p i).hart.drain = s.hart.drain := rfl
@[simp] theorem takeTrap_hart_merge (s : State) (c : Cause) (sub : Nat) (v p : Word) (i : Bool) : (s.takeTrap c sub v p i).hart.merge = s.hart.merge := rfl
@[simp] theorem takeTrap_hart_posted (s : State) (c : Cause) (sub : Nat) (v p : Word) (i : Bool) : (s.takeTrap c sub v p i).hart.posted = s.hart.posted := rfl
@[simp] theorem takeTrap_hart_pairs (s : State) (c : Cause) (sub : Nat) (v p : Word) (i : Bool) : (s.takeTrap c sub v p i).hart.pairs = s.hart.pairs := rfl
@[simp] theorem takeTrap_hart_olds (s : State) (c : Cause) (sub : Nat) (v p : Word) (i : Bool) : (s.takeTrap c sub v p i).hart.olds = s.hart.olds := rfl
@[simp] theorem takeTrap_hart_stq (s : State) (c : Cause) (sub : Nat) (v p : Word) (i : Bool) : (s.takeTrap c sub v p i).hart.stq = s.hart.stq := rfl
@[simp] theorem takeTrap_hart_late (s : State) (c : Cause) (sub : Nat) (v p : Word) (i : Bool) : (s.takeTrap c sub v p i).hart.late = s.hart.late := rfl
@[simp] theorem takeTrap_hart_lockRun (s : State) (c : Cause) (sub : Nat) (v p : Word) (i : Bool) : (s.takeTrap c sub v p i).hart.lockRun = s.hart.lockRun := rfl
@[simp] theorem takeTrap_hart_vlDs (s : State) (c : Cause) (sub : Nat) (v p : Word) (i : Bool) : (s.takeTrap c sub v p i).hart.vlDs = s.hart.vlDs := rfl
@[simp] theorem takeTrap_hart_barAt (s : State) (c : Cause) (sub : Nat) (v p : Word) (i : Bool) : (s.takeTrap c sub v p i).hart.barAt = s.hart.barAt := rfl
@[simp] theorem takeTrap_hart_barGo (s : State) (c : Cause) (sub : Nat) (v p : Word) (i : Bool) : (s.takeTrap c sub v p i).hart.barGo = s.hart.barGo := rfl
@[simp] theorem takeTrap_hart_halted (s : State) (c : Cause) (sub : Nat) (v p : Word) (i : Bool) : (s.takeTrap c sub v p i).hart.halted = s.hart.halted := rfl
@[simp] theorem takeTrap_hart_stopped (s : State) (c : Cause) (sub : Nat) (v p : Word) (i : Bool) : (s.takeTrap c sub v p i).hart.stopped = s.hart.stopped := rfl
@[simp] theorem takeTrap_hart_deficit (s : State) (c : Cause) (sub : Nat) (v p : Word) (i : Bool) : (s.takeTrap c sub v p i).hart.deficit = s.hart.deficit := rfl
@[simp] theorem takeTrap_hart_head (s : State) (c : Cause) (sub : Nat) (v p : Word) (i : Bool) : (s.takeTrap c sub v p i).hart.head = s.hart.head := rfl
@[simp] theorem takeTrap_hart_limit (s : State) (c : Cause) (sub : Nat) (v p : Word) (i : Bool) : (s.takeTrap c sub v p i).hart.limit = s.hart.limit := rfl
@[simp] theorem takeTrap_hart_conv (s : State) (c : Cause) (sub : Nat) (v p : Word) (i : Bool) : (s.takeTrap c sub v p i).hart.conv = s.hart.conv := rfl

/-! ### trapReturn -/

@[simp] theorem trapReturn_time (s : State) : (s.trapReturn).time = s.time := rfl
@[simp] theorem trapReturn_moves (s : State) : (s.trapReturn).moves = s.moves := rfl
@[simp] theorem trapReturn_input (s : State) : (s.trapReturn).input = s.input := rfl
@[simp] theorem trapReturn_freeCtr (s : State) : (s.trapReturn).freeCtr = s.freeCtr := rfl
@[simp] theorem trapReturn_out (s : State) : (s.trapReturn).out = s.out := rfl
@[simp] theorem trapReturn_cur (s : State) : (s.trapReturn).cur = s.cur := rfl
@[simp] theorem trapReturn_crew (s : State) : (s.trapReturn).crew = s.crew := rfl
@[simp] theorem trapReturn_harts (s : State) : (s.trapReturn).harts = s.harts := rfl
@[simp] theorem trapReturn_crews (s : State) : (s.trapReturn).crews = s.crews := rfl
@[simp] theorem trapReturn_nextUid (s : State) : (s.trapReturn).nextUid = s.nextUid := rfl
@[simp] theorem trapReturn_nextTag (s : State) : (s.trapReturn).nextTag = s.nextTag := rfl
@[simp] theorem trapReturn_dcache (s : State) : (s.trapReturn).dcache = s.dcache := rfl
@[simp] theorem trapReturn_icache (s : State) : (s.trapReturn).icache = s.icache := rfl
@[simp] theorem trapReturn_mnet (s : State) : (s.trapReturn).mnet = s.mnet := rfl
@[simp] theorem trapReturn_recs (s : State) : (s.trapReturn).recs = s.recs := rfl
@[simp] theorem trapReturn_mem (s : State) : (s.trapReturn).mem = s.mem := rfl
@[simp] theorem trapReturn_pois (s : State) : (s.trapReturn).pois = s.pois := rfl
@[simp] theorem trapReturn_cregs (s : State) : (s.trapReturn).cregs = s.cregs := rfl
@[simp] theorem trapReturn_tlb (s : State) : (s.trapReturn).tlb = s.tlb := rfl
@[simp] theorem trapReturn_walks (s : State) : (s.trapReturn).walks = s.walks := rfl
@[simp] theorem trapReturn_invals (s : State) : (s.trapReturn).invals = s.invals := rfl
@[simp] theorem trapReturn_regs (s : State) : (s.trapReturn).regs = s.regs := rfl
@[simp] theorem trapReturn_ctrs (s : State) : (s.trapReturn).ctrs = s.ctrs := rfl
@[simp] theorem trapReturn_launches (s : State) : (s.trapReturn).launches = s.launches := rfl
@[simp] theorem trapReturn_nextSeq (s : State) : (s.trapReturn).nextSeq = s.nextSeq := rfl
@[simp] theorem trapReturn_nextId (s : State) : (s.trapReturn).nextId = s.nextId := rfl
@[simp] theorem trapReturn_cmds (s : State) : (s.trapReturn).cmds = s.cmds := rfl
@[simp] theorem trapReturn_fq (s : State) : (s.trapReturn).fq = s.fq := rfl
@[simp] theorem trapReturn_fqWait (s : State) : (s.trapReturn).fqWait = s.fqWait := rfl
@[simp] theorem trapReturn_faq (s : State) : (s.trapReturn).faq = s.faq := rfl
@[simp] theorem trapReturn_faqLost (s : State) : (s.trapReturn).faqLost = s.faqLost := rfl
@[simp] theorem trapReturn_errs (s : State) : (s.trapReturn).errs = s.errs := rfl
@[simp] theorem trapReturn_events (s : State) : (s.trapReturn).events = s.events := rfl
@[simp] theorem trapReturn_bpl (s : State) : (s.trapReturn).bpl = s.bpl := rfl
@[simp] theorem trapReturn_bplBusy (s : State) : (s.trapReturn).bplBusy = s.bplBusy := rfl
@[simp] theorem trapReturn_bplTemp (s : State) : (s.trapReturn).bplTemp = s.bplTemp := rfl
@[simp] theorem trapReturn_locked (s : State) : (s.trapReturn).locked = s.locked := rfl
@[simp] theorem trapReturn_lockOvf (s : State) : (s.trapReturn).lockOvf = s.lockOvf := rfl
@[simp] theorem trapReturn_pkg (s : State) : (s.trapReturn).pkg = s.pkg := rfl
@[simp] theorem trapReturn_gov (s : State) : (s.trapReturn).gov = s.gov := rfl
@[simp] theorem trapReturn_ports (s : State) : (s.trapReturn).ports = s.ports := rfl
@[simp] theorem trapReturn_dir (s : State) : (s.trapReturn).dir = s.dir := rfl
@[simp] theorem trapReturn_drops (s : State) : (s.trapReturn).drops = s.drops := rfl
@[simp] theorem trapReturn_dropLost (s : State) : (s.trapReturn).dropLost = s.dropLost := rfl
@[simp] theorem trapReturn_msixMask (s : State) : (s.trapReturn).msixMask = s.msixMask := rfl
@[simp] theorem trapReturn_msixPend (s : State) : (s.trapReturn).msixPend = s.msixPend := rfl
@[simp] theorem trapReturn_bar4Size (s : State) : (s.trapReturn).bar4Size = s.bar4Size := rfl
@[simp] theorem trapReturn_wire (s : State) : (s.trapReturn).wire = s.wire := rfl
@[simp] theorem trapReturn_held (s : State) : (s.trapReturn).held = s.held := rfl
@[simp] theorem trapReturn_nextHeld (s : State) : (s.trapReturn).nextHeld = s.nextHeld := rfl
@[simp] theorem trapReturn_lqTags (s : State) : (s.trapReturn).lqTags = s.lqTags := rfl
@[simp] theorem trapReturn_mcTags (s : State) : (s.trapReturn).mcTags = s.mcTags := rfl
@[simp] theorem trapReturn_hart_live (s : State) : (s.trapReturn).hart.live = s.hart.live := rfl
@[simp] theorem trapReturn_hart_idx (s : State) : (s.trapReturn).hart.idx = s.hart.idx := rfl
@[simp] theorem trapReturn_hart_x (s : State) : (s.trapReturn).hart.x = s.hart.x := rfl
@[simp] theorem trapReturn_hart_ir (s : State) : (s.trapReturn).hart.ir = s.hart.ir := rfl
@[simp] theorem trapReturn_hart_imp (s : State) : (s.trapReturn).hart.imp = s.hart.imp := rfl
@[simp] theorem trapReturn_hart_nreg (s : State) : (s.trapReturn).hart.nreg = s.hart.nreg := rfl
@[simp] theorem trapReturn_hart_sewMax (s : State) : (s.trapReturn).hart.sewMax = s.hart.sewMax := rfl
@[simp] theorem trapReturn_hart_vlenb (s : State) : (s.trapReturn).hart.vlenb = s.hart.vlenb := rfl
@[simp] theorem trapReturn_hart_v (s : State) : (s.trapReturn).hart.v = s.hart.v := rfl
@[simp] theorem trapReturn_hart_vpois (s : State) : (s.trapReturn).hart.vpois = s.hart.vpois := rfl
@[simp] theorem trapReturn_hart_m (s : State) : (s.trapReturn).hart.m = s.hart.m := rfl
@[simp] theorem trapReturn_hart_wext (s : State) : (s.trapReturn).hart.wext = s.hart.wext := rfl
@[simp] theorem trapReturn_hart_tiles (s : State) : (s.trapReturn).hart.tiles = s.hart.tiles := rfl
@[simp] theorem trapReturn_hart_acc (s : State) : (s.trapReturn).hart.acc = s.hart.acc := rfl
@[simp] theorem trapReturn_hart_accPois (s : State) : (s.trapReturn).hart.accPois = s.hart.accPois := rfl
@[simp] theorem trapReturn_hart_pend (s : State) : (s.trapReturn).hart.pend = s.hart.pend := rfl
@[simp] theorem trapReturn_hart_sa (s : State) : (s.trapReturn).hart.sa = s.hart.sa := rfl
@[simp] theorem trapReturn_hart_sb (s : State) : (s.trapReturn).hart.sb = s.hart.sb := rfl
@[simp] theorem trapReturn_hart_scaled (s : State) : (s.trapReturn).hart.scaled = s.hart.scaled := rfl
@[simp] theorem trapReturn_hart_holdq (s : State) : (s.trapReturn).hart.holdq = s.hart.holdq := rfl
@[simp] theorem trapReturn_hart_trow (s : State) : (s.trapReturn).hart.trow = s.hart.trow := rfl
@[simp] theorem trapReturn_hart_ds (s : State) : (s.trapReturn).hart.ds = s.hart.ds := rfl
@[simp] theorem trapReturn_hart_cp (s : State) : (s.trapReturn).hart.cp = s.hart.cp := rfl
@[simp] theorem trapReturn_hart_staged (s : State) : (s.trapReturn).hart.staged = s.hart.staged := rfl
@[simp] theorem trapReturn_hart_drain (s : State) : (s.trapReturn).hart.drain = s.hart.drain := rfl
@[simp] theorem trapReturn_hart_merge (s : State) : (s.trapReturn).hart.merge = s.hart.merge := rfl
@[simp] theorem trapReturn_hart_posted (s : State) : (s.trapReturn).hart.posted = s.hart.posted := rfl
@[simp] theorem trapReturn_hart_pairs (s : State) : (s.trapReturn).hart.pairs = s.hart.pairs := rfl
@[simp] theorem trapReturn_hart_olds (s : State) : (s.trapReturn).hart.olds = s.hart.olds := rfl
@[simp] theorem trapReturn_hart_stq (s : State) : (s.trapReturn).hart.stq = s.hart.stq := rfl
@[simp] theorem trapReturn_hart_late (s : State) : (s.trapReturn).hart.late = s.hart.late := rfl
@[simp] theorem trapReturn_hart_lockRun (s : State) : (s.trapReturn).hart.lockRun = s.hart.lockRun := rfl
@[simp] theorem trapReturn_hart_vlDs (s : State) : (s.trapReturn).hart.vlDs = s.hart.vlDs := rfl
@[simp] theorem trapReturn_hart_barAt (s : State) : (s.trapReturn).hart.barAt = s.hart.barAt := rfl
@[simp] theorem trapReturn_hart_barGo (s : State) : (s.trapReturn).hart.barGo = s.hart.barGo := rfl
@[simp] theorem trapReturn_hart_halted (s : State) : (s.trapReturn).hart.halted = s.hart.halted := rfl
@[simp] theorem trapReturn_hart_stopped (s : State) : (s.trapReturn).hart.stopped = s.hart.stopped := rfl
@[simp] theorem trapReturn_hart_deficit (s : State) : (s.trapReturn).hart.deficit = s.hart.deficit := rfl
@[simp] theorem trapReturn_hart_head (s : State) : (s.trapReturn).hart.head = s.hart.head := rfl
@[simp] theorem trapReturn_hart_limit (s : State) : (s.trapReturn).hart.limit = s.hart.limit := rfl
@[simp] theorem trapReturn_hart_conv (s : State) : (s.trapReturn).hart.conv = s.hart.conv := rfl

/-! ### hold -/

@[simp] theorem hold_time (s : State) (h : Held) : (s.hold h).time = s.time := rfl
@[simp] theorem hold_moves (s : State) (h : Held) : (s.hold h).moves = s.moves := rfl
@[simp] theorem hold_input (s : State) (h : Held) : (s.hold h).input = s.input := rfl
@[simp] theorem hold_freeCtr (s : State) (h : Held) : (s.hold h).freeCtr = s.freeCtr := rfl
@[simp] theorem hold_out (s : State) (h : Held) : (s.hold h).out = s.out := rfl
@[simp] theorem hold_cur (s : State) (h : Held) : (s.hold h).cur = s.cur := rfl
@[simp] theorem hold_hart (s : State) (h : Held) : (s.hold h).hart = s.hart := rfl
@[simp] theorem hold_crew (s : State) (h : Held) : (s.hold h).crew = s.crew := rfl
@[simp] theorem hold_harts (s : State) (h : Held) : (s.hold h).harts = s.harts := rfl
@[simp] theorem hold_crews (s : State) (h : Held) : (s.hold h).crews = s.crews := rfl
@[simp] theorem hold_nextUid (s : State) (h : Held) : (s.hold h).nextUid = s.nextUid := rfl
@[simp] theorem hold_nextTag (s : State) (h : Held) : (s.hold h).nextTag = s.nextTag := rfl
@[simp] theorem hold_dcache (s : State) (h : Held) : (s.hold h).dcache = s.dcache := rfl
@[simp] theorem hold_icache (s : State) (h : Held) : (s.hold h).icache = s.icache := rfl
@[simp] theorem hold_mnet (s : State) (h : Held) : (s.hold h).mnet = s.mnet := rfl
@[simp] theorem hold_recs (s : State) (h : Held) : (s.hold h).recs = s.recs := rfl
@[simp] theorem hold_mem (s : State) (h : Held) : (s.hold h).mem = s.mem := rfl
@[simp] theorem hold_pois (s : State) (h : Held) : (s.hold h).pois = s.pois := rfl
@[simp] theorem hold_cregs (s : State) (h : Held) : (s.hold h).cregs = s.cregs := rfl
@[simp] theorem hold_tlb (s : State) (h : Held) : (s.hold h).tlb = s.tlb := rfl
@[simp] theorem hold_walks (s : State) (h : Held) : (s.hold h).walks = s.walks := rfl
@[simp] theorem hold_invals (s : State) (h : Held) : (s.hold h).invals = s.invals := rfl
@[simp] theorem hold_regs (s : State) (h : Held) : (s.hold h).regs = s.regs := rfl
@[simp] theorem hold_ctrs (s : State) (h : Held) : (s.hold h).ctrs = s.ctrs := rfl
@[simp] theorem hold_launches (s : State) (h : Held) : (s.hold h).launches = s.launches := rfl
@[simp] theorem hold_nextSeq (s : State) (h : Held) : (s.hold h).nextSeq = s.nextSeq := rfl
@[simp] theorem hold_nextId (s : State) (h : Held) : (s.hold h).nextId = s.nextId := rfl
@[simp] theorem hold_cmds (s : State) (h : Held) : (s.hold h).cmds = s.cmds := rfl
@[simp] theorem hold_fq (s : State) (h : Held) : (s.hold h).fq = s.fq := rfl
@[simp] theorem hold_fqWait (s : State) (h : Held) : (s.hold h).fqWait = s.fqWait := rfl
@[simp] theorem hold_faq (s : State) (h : Held) : (s.hold h).faq = s.faq := rfl
@[simp] theorem hold_faqLost (s : State) (h : Held) : (s.hold h).faqLost = s.faqLost := rfl
@[simp] theorem hold_errs (s : State) (h : Held) : (s.hold h).errs = s.errs := rfl
@[simp] theorem hold_events (s : State) (h : Held) : (s.hold h).events = s.events := rfl
@[simp] theorem hold_bpl (s : State) (h : Held) : (s.hold h).bpl = s.bpl := rfl
@[simp] theorem hold_bplBusy (s : State) (h : Held) : (s.hold h).bplBusy = s.bplBusy := rfl
@[simp] theorem hold_bplTemp (s : State) (h : Held) : (s.hold h).bplTemp = s.bplTemp := rfl
@[simp] theorem hold_locked (s : State) (h : Held) : (s.hold h).locked = s.locked := rfl
@[simp] theorem hold_lockOvf (s : State) (h : Held) : (s.hold h).lockOvf = s.lockOvf := rfl
@[simp] theorem hold_pkg (s : State) (h : Held) : (s.hold h).pkg = s.pkg := rfl
@[simp] theorem hold_gov (s : State) (h : Held) : (s.hold h).gov = s.gov := rfl
@[simp] theorem hold_ports (s : State) (h : Held) : (s.hold h).ports = s.ports := rfl
@[simp] theorem hold_dir (s : State) (h : Held) : (s.hold h).dir = s.dir := rfl
@[simp] theorem hold_drops (s : State) (h : Held) : (s.hold h).drops = s.drops := rfl
@[simp] theorem hold_dropLost (s : State) (h : Held) : (s.hold h).dropLost = s.dropLost := rfl
@[simp] theorem hold_msixMask (s : State) (h : Held) : (s.hold h).msixMask = s.msixMask := rfl
@[simp] theorem hold_msixPend (s : State) (h : Held) : (s.hold h).msixPend = s.msixPend := rfl
@[simp] theorem hold_bar4Size (s : State) (h : Held) : (s.hold h).bar4Size = s.bar4Size := rfl
@[simp] theorem hold_wire (s : State) (h : Held) : (s.hold h).wire = s.wire := rfl
@[simp] theorem hold_lqTags (s : State) (h : Held) : (s.hold h).lqTags = s.lqTags := rfl
@[simp] theorem hold_mcTags (s : State) (h : Held) : (s.hold h).mcTags = s.mcTags := rfl

/-! ### emit -/

@[simp] theorem emit_time (s : State) (o : Output) : (s.emit o).time = s.time := rfl
@[simp] theorem emit_moves (s : State) (o : Output) : (s.emit o).moves = s.moves := rfl
@[simp] theorem emit_input (s : State) (o : Output) : (s.emit o).input = s.input := rfl
@[simp] theorem emit_freeCtr (s : State) (o : Output) : (s.emit o).freeCtr = s.freeCtr := rfl
@[simp] theorem emit_cur (s : State) (o : Output) : (s.emit o).cur = s.cur := rfl
@[simp] theorem emit_hart (s : State) (o : Output) : (s.emit o).hart = s.hart := rfl
@[simp] theorem emit_crew (s : State) (o : Output) : (s.emit o).crew = s.crew := rfl
@[simp] theorem emit_harts (s : State) (o : Output) : (s.emit o).harts = s.harts := rfl
@[simp] theorem emit_crews (s : State) (o : Output) : (s.emit o).crews = s.crews := rfl
@[simp] theorem emit_nextUid (s : State) (o : Output) : (s.emit o).nextUid = s.nextUid := rfl
@[simp] theorem emit_nextTag (s : State) (o : Output) : (s.emit o).nextTag = s.nextTag := rfl
@[simp] theorem emit_dcache (s : State) (o : Output) : (s.emit o).dcache = s.dcache := rfl
@[simp] theorem emit_icache (s : State) (o : Output) : (s.emit o).icache = s.icache := rfl
@[simp] theorem emit_mnet (s : State) (o : Output) : (s.emit o).mnet = s.mnet := rfl
@[simp] theorem emit_recs (s : State) (o : Output) : (s.emit o).recs = s.recs := rfl
@[simp] theorem emit_mem (s : State) (o : Output) : (s.emit o).mem = s.mem := rfl
@[simp] theorem emit_pois (s : State) (o : Output) : (s.emit o).pois = s.pois := rfl
@[simp] theorem emit_cregs (s : State) (o : Output) : (s.emit o).cregs = s.cregs := rfl
@[simp] theorem emit_tlb (s : State) (o : Output) : (s.emit o).tlb = s.tlb := rfl
@[simp] theorem emit_walks (s : State) (o : Output) : (s.emit o).walks = s.walks := rfl
@[simp] theorem emit_invals (s : State) (o : Output) : (s.emit o).invals = s.invals := rfl
@[simp] theorem emit_regs (s : State) (o : Output) : (s.emit o).regs = s.regs := rfl
@[simp] theorem emit_ctrs (s : State) (o : Output) : (s.emit o).ctrs = s.ctrs := rfl
@[simp] theorem emit_launches (s : State) (o : Output) : (s.emit o).launches = s.launches := rfl
@[simp] theorem emit_nextSeq (s : State) (o : Output) : (s.emit o).nextSeq = s.nextSeq := rfl
@[simp] theorem emit_nextId (s : State) (o : Output) : (s.emit o).nextId = s.nextId := rfl
@[simp] theorem emit_cmds (s : State) (o : Output) : (s.emit o).cmds = s.cmds := rfl
@[simp] theorem emit_fq (s : State) (o : Output) : (s.emit o).fq = s.fq := rfl
@[simp] theorem emit_fqWait (s : State) (o : Output) : (s.emit o).fqWait = s.fqWait := rfl
@[simp] theorem emit_faq (s : State) (o : Output) : (s.emit o).faq = s.faq := rfl
@[simp] theorem emit_faqLost (s : State) (o : Output) : (s.emit o).faqLost = s.faqLost := rfl
@[simp] theorem emit_errs (s : State) (o : Output) : (s.emit o).errs = s.errs := rfl
@[simp] theorem emit_events (s : State) (o : Output) : (s.emit o).events = s.events := rfl
@[simp] theorem emit_bpl (s : State) (o : Output) : (s.emit o).bpl = s.bpl := rfl
@[simp] theorem emit_bplBusy (s : State) (o : Output) : (s.emit o).bplBusy = s.bplBusy := rfl
@[simp] theorem emit_bplTemp (s : State) (o : Output) : (s.emit o).bplTemp = s.bplTemp := rfl
@[simp] theorem emit_locked (s : State) (o : Output) : (s.emit o).locked = s.locked := rfl
@[simp] theorem emit_lockOvf (s : State) (o : Output) : (s.emit o).lockOvf = s.lockOvf := rfl
@[simp] theorem emit_pkg (s : State) (o : Output) : (s.emit o).pkg = s.pkg := rfl
@[simp] theorem emit_gov (s : State) (o : Output) : (s.emit o).gov = s.gov := rfl
@[simp] theorem emit_ports (s : State) (o : Output) : (s.emit o).ports = s.ports := rfl
@[simp] theorem emit_dir (s : State) (o : Output) : (s.emit o).dir = s.dir := rfl
@[simp] theorem emit_drops (s : State) (o : Output) : (s.emit o).drops = s.drops := rfl
@[simp] theorem emit_dropLost (s : State) (o : Output) : (s.emit o).dropLost = s.dropLost := rfl
@[simp] theorem emit_msixMask (s : State) (o : Output) : (s.emit o).msixMask = s.msixMask := rfl
@[simp] theorem emit_msixPend (s : State) (o : Output) : (s.emit o).msixPend = s.msixPend := rfl
@[simp] theorem emit_bar4Size (s : State) (o : Output) : (s.emit o).bar4Size = s.bar4Size := rfl
@[simp] theorem emit_wire (s : State) (o : Output) : (s.emit o).wire = s.wire := rfl
@[simp] theorem emit_held (s : State) (o : Output) : (s.emit o).held = s.held := rfl
@[simp] theorem emit_nextHeld (s : State) (o : Output) : (s.emit o).nextHeld = s.nextHeld := rfl
@[simp] theorem emit_lqTags (s : State) (o : Output) : (s.emit o).lqTags = s.lqTags := rfl
@[simp] theorem emit_mcTags (s : State) (o : Output) : (s.emit o).mcTags = s.mcTags := rfl

/-! ### setReg -/

@[simp] theorem setReg_time (s : State) (k : Nat) (v : Word) : (s.setReg k v).time = s.time := rfl
@[simp] theorem setReg_moves (s : State) (k : Nat) (v : Word) : (s.setReg k v).moves = s.moves := rfl
@[simp] theorem setReg_input (s : State) (k : Nat) (v : Word) : (s.setReg k v).input = s.input := rfl
@[simp] theorem setReg_freeCtr (s : State) (k : Nat) (v : Word) : (s.setReg k v).freeCtr = s.freeCtr := rfl
@[simp] theorem setReg_out (s : State) (k : Nat) (v : Word) : (s.setReg k v).out = s.out := rfl
@[simp] theorem setReg_cur (s : State) (k : Nat) (v : Word) : (s.setReg k v).cur = s.cur := rfl
@[simp] theorem setReg_hart (s : State) (k : Nat) (v : Word) : (s.setReg k v).hart = s.hart := rfl
@[simp] theorem setReg_crew (s : State) (k : Nat) (v : Word) : (s.setReg k v).crew = s.crew := rfl
@[simp] theorem setReg_harts (s : State) (k : Nat) (v : Word) : (s.setReg k v).harts = s.harts := rfl
@[simp] theorem setReg_crews (s : State) (k : Nat) (v : Word) : (s.setReg k v).crews = s.crews := rfl
@[simp] theorem setReg_nextUid (s : State) (k : Nat) (v : Word) : (s.setReg k v).nextUid = s.nextUid := rfl
@[simp] theorem setReg_nextTag (s : State) (k : Nat) (v : Word) : (s.setReg k v).nextTag = s.nextTag := rfl
@[simp] theorem setReg_dcache (s : State) (k : Nat) (v : Word) : (s.setReg k v).dcache = s.dcache := rfl
@[simp] theorem setReg_icache (s : State) (k : Nat) (v : Word) : (s.setReg k v).icache = s.icache := rfl
@[simp] theorem setReg_mnet (s : State) (k : Nat) (v : Word) : (s.setReg k v).mnet = s.mnet := rfl
@[simp] theorem setReg_recs (s : State) (k : Nat) (v : Word) : (s.setReg k v).recs = s.recs := rfl
@[simp] theorem setReg_mem (s : State) (k : Nat) (v : Word) : (s.setReg k v).mem = s.mem := rfl
@[simp] theorem setReg_pois (s : State) (k : Nat) (v : Word) : (s.setReg k v).pois = s.pois := rfl
@[simp] theorem setReg_cregs (s : State) (k : Nat) (v : Word) : (s.setReg k v).cregs = s.cregs := rfl
@[simp] theorem setReg_tlb (s : State) (k : Nat) (v : Word) : (s.setReg k v).tlb = s.tlb := rfl
@[simp] theorem setReg_walks (s : State) (k : Nat) (v : Word) : (s.setReg k v).walks = s.walks := rfl
@[simp] theorem setReg_invals (s : State) (k : Nat) (v : Word) : (s.setReg k v).invals = s.invals := rfl
@[simp] theorem setReg_ctrs (s : State) (k : Nat) (v : Word) : (s.setReg k v).ctrs = s.ctrs := rfl
@[simp] theorem setReg_launches (s : State) (k : Nat) (v : Word) : (s.setReg k v).launches = s.launches := rfl
@[simp] theorem setReg_nextSeq (s : State) (k : Nat) (v : Word) : (s.setReg k v).nextSeq = s.nextSeq := rfl
@[simp] theorem setReg_nextId (s : State) (k : Nat) (v : Word) : (s.setReg k v).nextId = s.nextId := rfl
@[simp] theorem setReg_cmds (s : State) (k : Nat) (v : Word) : (s.setReg k v).cmds = s.cmds := rfl
@[simp] theorem setReg_fq (s : State) (k : Nat) (v : Word) : (s.setReg k v).fq = s.fq := rfl
@[simp] theorem setReg_fqWait (s : State) (k : Nat) (v : Word) : (s.setReg k v).fqWait = s.fqWait := rfl
@[simp] theorem setReg_faq (s : State) (k : Nat) (v : Word) : (s.setReg k v).faq = s.faq := rfl
@[simp] theorem setReg_faqLost (s : State) (k : Nat) (v : Word) : (s.setReg k v).faqLost = s.faqLost := rfl
@[simp] theorem setReg_errs (s : State) (k : Nat) (v : Word) : (s.setReg k v).errs = s.errs := rfl
@[simp] theorem setReg_events (s : State) (k : Nat) (v : Word) : (s.setReg k v).events = s.events := rfl
@[simp] theorem setReg_bpl (s : State) (k : Nat) (v : Word) : (s.setReg k v).bpl = s.bpl := rfl
@[simp] theorem setReg_bplBusy (s : State) (k : Nat) (v : Word) : (s.setReg k v).bplBusy = s.bplBusy := rfl
@[simp] theorem setReg_bplTemp (s : State) (k : Nat) (v : Word) : (s.setReg k v).bplTemp = s.bplTemp := rfl
@[simp] theorem setReg_locked (s : State) (k : Nat) (v : Word) : (s.setReg k v).locked = s.locked := rfl
@[simp] theorem setReg_lockOvf (s : State) (k : Nat) (v : Word) : (s.setReg k v).lockOvf = s.lockOvf := rfl
@[simp] theorem setReg_pkg (s : State) (k : Nat) (v : Word) : (s.setReg k v).pkg = s.pkg := rfl
@[simp] theorem setReg_gov (s : State) (k : Nat) (v : Word) : (s.setReg k v).gov = s.gov := rfl
@[simp] theorem setReg_ports (s : State) (k : Nat) (v : Word) : (s.setReg k v).ports = s.ports := rfl
@[simp] theorem setReg_dir (s : State) (k : Nat) (v : Word) : (s.setReg k v).dir = s.dir := rfl
@[simp] theorem setReg_drops (s : State) (k : Nat) (v : Word) : (s.setReg k v).drops = s.drops := rfl
@[simp] theorem setReg_dropLost (s : State) (k : Nat) (v : Word) : (s.setReg k v).dropLost = s.dropLost := rfl
@[simp] theorem setReg_msixMask (s : State) (k : Nat) (v : Word) : (s.setReg k v).msixMask = s.msixMask := rfl
@[simp] theorem setReg_msixPend (s : State) (k : Nat) (v : Word) : (s.setReg k v).msixPend = s.msixPend := rfl
@[simp] theorem setReg_bar4Size (s : State) (k : Nat) (v : Word) : (s.setReg k v).bar4Size = s.bar4Size := rfl
@[simp] theorem setReg_wire (s : State) (k : Nat) (v : Word) : (s.setReg k v).wire = s.wire := rfl
@[simp] theorem setReg_held (s : State) (k : Nat) (v : Word) : (s.setReg k v).held = s.held := rfl
@[simp] theorem setReg_nextHeld (s : State) (k : Nat) (v : Word) : (s.setReg k v).nextHeld = s.nextHeld := rfl
@[simp] theorem setReg_lqTags (s : State) (k : Nat) (v : Word) : (s.setReg k v).lqTags = s.lqTags := rfl
@[simp] theorem setReg_mcTags (s : State) (k : Nat) (v : Word) : (s.setReg k v).mcTags = s.mcTags := rfl

/-! ### setRegFld -/

@[simp] theorem setRegFld_time (s : State) (k lo len v : Nat) : (s.setRegFld k lo len v).time = s.time := rfl
@[simp] theorem setRegFld_moves (s : State) (k lo len v : Nat) : (s.setRegFld k lo len v).moves = s.moves := rfl
@[simp] theorem setRegFld_input (s : State) (k lo len v : Nat) : (s.setRegFld k lo len v).input = s.input := rfl
@[simp] theorem setRegFld_freeCtr (s : State) (k lo len v : Nat) : (s.setRegFld k lo len v).freeCtr = s.freeCtr := rfl
@[simp] theorem setRegFld_out (s : State) (k lo len v : Nat) : (s.setRegFld k lo len v).out = s.out := rfl
@[simp] theorem setRegFld_cur (s : State) (k lo len v : Nat) : (s.setRegFld k lo len v).cur = s.cur := rfl
@[simp] theorem setRegFld_hart (s : State) (k lo len v : Nat) : (s.setRegFld k lo len v).hart = s.hart := rfl
@[simp] theorem setRegFld_crew (s : State) (k lo len v : Nat) : (s.setRegFld k lo len v).crew = s.crew := rfl
@[simp] theorem setRegFld_harts (s : State) (k lo len v : Nat) : (s.setRegFld k lo len v).harts = s.harts := rfl
@[simp] theorem setRegFld_crews (s : State) (k lo len v : Nat) : (s.setRegFld k lo len v).crews = s.crews := rfl
@[simp] theorem setRegFld_nextUid (s : State) (k lo len v : Nat) : (s.setRegFld k lo len v).nextUid = s.nextUid := rfl
@[simp] theorem setRegFld_nextTag (s : State) (k lo len v : Nat) : (s.setRegFld k lo len v).nextTag = s.nextTag := rfl
@[simp] theorem setRegFld_dcache (s : State) (k lo len v : Nat) : (s.setRegFld k lo len v).dcache = s.dcache := rfl
@[simp] theorem setRegFld_icache (s : State) (k lo len v : Nat) : (s.setRegFld k lo len v).icache = s.icache := rfl
@[simp] theorem setRegFld_mnet (s : State) (k lo len v : Nat) : (s.setRegFld k lo len v).mnet = s.mnet := rfl
@[simp] theorem setRegFld_recs (s : State) (k lo len v : Nat) : (s.setRegFld k lo len v).recs = s.recs := rfl
@[simp] theorem setRegFld_mem (s : State) (k lo len v : Nat) : (s.setRegFld k lo len v).mem = s.mem := rfl
@[simp] theorem setRegFld_pois (s : State) (k lo len v : Nat) : (s.setRegFld k lo len v).pois = s.pois := rfl
@[simp] theorem setRegFld_cregs (s : State) (k lo len v : Nat) : (s.setRegFld k lo len v).cregs = s.cregs := rfl
@[simp] theorem setRegFld_tlb (s : State) (k lo len v : Nat) : (s.setRegFld k lo len v).tlb = s.tlb := rfl
@[simp] theorem setRegFld_walks (s : State) (k lo len v : Nat) : (s.setRegFld k lo len v).walks = s.walks := rfl
@[simp] theorem setRegFld_invals (s : State) (k lo len v : Nat) : (s.setRegFld k lo len v).invals = s.invals := rfl
@[simp] theorem setRegFld_ctrs (s : State) (k lo len v : Nat) : (s.setRegFld k lo len v).ctrs = s.ctrs := rfl
@[simp] theorem setRegFld_launches (s : State) (k lo len v : Nat) : (s.setRegFld k lo len v).launches = s.launches := rfl
@[simp] theorem setRegFld_nextSeq (s : State) (k lo len v : Nat) : (s.setRegFld k lo len v).nextSeq = s.nextSeq := rfl
@[simp] theorem setRegFld_nextId (s : State) (k lo len v : Nat) : (s.setRegFld k lo len v).nextId = s.nextId := rfl
@[simp] theorem setRegFld_cmds (s : State) (k lo len v : Nat) : (s.setRegFld k lo len v).cmds = s.cmds := rfl
@[simp] theorem setRegFld_fq (s : State) (k lo len v : Nat) : (s.setRegFld k lo len v).fq = s.fq := rfl
@[simp] theorem setRegFld_fqWait (s : State) (k lo len v : Nat) : (s.setRegFld k lo len v).fqWait = s.fqWait := rfl
@[simp] theorem setRegFld_faq (s : State) (k lo len v : Nat) : (s.setRegFld k lo len v).faq = s.faq := rfl
@[simp] theorem setRegFld_faqLost (s : State) (k lo len v : Nat) : (s.setRegFld k lo len v).faqLost = s.faqLost := rfl
@[simp] theorem setRegFld_errs (s : State) (k lo len v : Nat) : (s.setRegFld k lo len v).errs = s.errs := rfl
@[simp] theorem setRegFld_events (s : State) (k lo len v : Nat) : (s.setRegFld k lo len v).events = s.events := rfl
@[simp] theorem setRegFld_bpl (s : State) (k lo len v : Nat) : (s.setRegFld k lo len v).bpl = s.bpl := rfl
@[simp] theorem setRegFld_bplBusy (s : State) (k lo len v : Nat) : (s.setRegFld k lo len v).bplBusy = s.bplBusy := rfl
@[simp] theorem setRegFld_bplTemp (s : State) (k lo len v : Nat) : (s.setRegFld k lo len v).bplTemp = s.bplTemp := rfl
@[simp] theorem setRegFld_locked (s : State) (k lo len v : Nat) : (s.setRegFld k lo len v).locked = s.locked := rfl
@[simp] theorem setRegFld_lockOvf (s : State) (k lo len v : Nat) : (s.setRegFld k lo len v).lockOvf = s.lockOvf := rfl
@[simp] theorem setRegFld_pkg (s : State) (k lo len v : Nat) : (s.setRegFld k lo len v).pkg = s.pkg := rfl
@[simp] theorem setRegFld_gov (s : State) (k lo len v : Nat) : (s.setRegFld k lo len v).gov = s.gov := rfl
@[simp] theorem setRegFld_ports (s : State) (k lo len v : Nat) : (s.setRegFld k lo len v).ports = s.ports := rfl
@[simp] theorem setRegFld_dir (s : State) (k lo len v : Nat) : (s.setRegFld k lo len v).dir = s.dir := rfl
@[simp] theorem setRegFld_drops (s : State) (k lo len v : Nat) : (s.setRegFld k lo len v).drops = s.drops := rfl
@[simp] theorem setRegFld_dropLost (s : State) (k lo len v : Nat) : (s.setRegFld k lo len v).dropLost = s.dropLost := rfl
@[simp] theorem setRegFld_msixMask (s : State) (k lo len v : Nat) : (s.setRegFld k lo len v).msixMask = s.msixMask := rfl
@[simp] theorem setRegFld_msixPend (s : State) (k lo len v : Nat) : (s.setRegFld k lo len v).msixPend = s.msixPend := rfl
@[simp] theorem setRegFld_bar4Size (s : State) (k lo len v : Nat) : (s.setRegFld k lo len v).bar4Size = s.bar4Size := rfl
@[simp] theorem setRegFld_wire (s : State) (k lo len v : Nat) : (s.setRegFld k lo len v).wire = s.wire := rfl
@[simp] theorem setRegFld_held (s : State) (k lo len v : Nat) : (s.setRegFld k lo len v).held = s.held := rfl
@[simp] theorem setRegFld_nextHeld (s : State) (k lo len v : Nat) : (s.setRegFld k lo len v).nextHeld = s.nextHeld := rfl
@[simp] theorem setRegFld_lqTags (s : State) (k lo len v : Nat) : (s.setRegFld k lo len v).lqTags = s.lqTags := rfl
@[simp] theorem setRegFld_mcTags (s : State) (k lo len v : Nat) : (s.setRegFld k lo len v).mcTags = s.mcTags := rfl

/-! ### writeBytes -/

@[simp] theorem writeBytes_time (s : State) (pa : Nat) (bs : List Byte) : (s.writeBytes pa bs).time = s.time := rfl
@[simp] theorem writeBytes_moves (s : State) (pa : Nat) (bs : List Byte) : (s.writeBytes pa bs).moves = s.moves := rfl
@[simp] theorem writeBytes_input (s : State) (pa : Nat) (bs : List Byte) : (s.writeBytes pa bs).input = s.input := rfl
@[simp] theorem writeBytes_freeCtr (s : State) (pa : Nat) (bs : List Byte) : (s.writeBytes pa bs).freeCtr = s.freeCtr := rfl
@[simp] theorem writeBytes_out (s : State) (pa : Nat) (bs : List Byte) : (s.writeBytes pa bs).out = s.out := rfl
@[simp] theorem writeBytes_cur (s : State) (pa : Nat) (bs : List Byte) : (s.writeBytes pa bs).cur = s.cur := rfl
@[simp] theorem writeBytes_hart (s : State) (pa : Nat) (bs : List Byte) : (s.writeBytes pa bs).hart = s.hart := rfl
@[simp] theorem writeBytes_crew (s : State) (pa : Nat) (bs : List Byte) : (s.writeBytes pa bs).crew = s.crew := rfl
@[simp] theorem writeBytes_harts (s : State) (pa : Nat) (bs : List Byte) : (s.writeBytes pa bs).harts = s.harts := rfl
@[simp] theorem writeBytes_crews (s : State) (pa : Nat) (bs : List Byte) : (s.writeBytes pa bs).crews = s.crews := rfl
@[simp] theorem writeBytes_nextUid (s : State) (pa : Nat) (bs : List Byte) : (s.writeBytes pa bs).nextUid = s.nextUid := rfl
@[simp] theorem writeBytes_nextTag (s : State) (pa : Nat) (bs : List Byte) : (s.writeBytes pa bs).nextTag = s.nextTag := rfl
@[simp] theorem writeBytes_dcache (s : State) (pa : Nat) (bs : List Byte) : (s.writeBytes pa bs).dcache = s.dcache := rfl
@[simp] theorem writeBytes_icache (s : State) (pa : Nat) (bs : List Byte) : (s.writeBytes pa bs).icache = s.icache := rfl
@[simp] theorem writeBytes_mnet (s : State) (pa : Nat) (bs : List Byte) : (s.writeBytes pa bs).mnet = s.mnet := rfl
@[simp] theorem writeBytes_recs (s : State) (pa : Nat) (bs : List Byte) : (s.writeBytes pa bs).recs = s.recs := rfl
@[simp] theorem writeBytes_pois (s : State) (pa : Nat) (bs : List Byte) : (s.writeBytes pa bs).pois = s.pois := rfl
@[simp] theorem writeBytes_cregs (s : State) (pa : Nat) (bs : List Byte) : (s.writeBytes pa bs).cregs = s.cregs := rfl
@[simp] theorem writeBytes_tlb (s : State) (pa : Nat) (bs : List Byte) : (s.writeBytes pa bs).tlb = s.tlb := rfl
@[simp] theorem writeBytes_walks (s : State) (pa : Nat) (bs : List Byte) : (s.writeBytes pa bs).walks = s.walks := rfl
@[simp] theorem writeBytes_invals (s : State) (pa : Nat) (bs : List Byte) : (s.writeBytes pa bs).invals = s.invals := rfl
@[simp] theorem writeBytes_regs (s : State) (pa : Nat) (bs : List Byte) : (s.writeBytes pa bs).regs = s.regs := rfl
@[simp] theorem writeBytes_ctrs (s : State) (pa : Nat) (bs : List Byte) : (s.writeBytes pa bs).ctrs = s.ctrs := rfl
@[simp] theorem writeBytes_launches (s : State) (pa : Nat) (bs : List Byte) : (s.writeBytes pa bs).launches = s.launches := rfl
@[simp] theorem writeBytes_nextSeq (s : State) (pa : Nat) (bs : List Byte) : (s.writeBytes pa bs).nextSeq = s.nextSeq := rfl
@[simp] theorem writeBytes_nextId (s : State) (pa : Nat) (bs : List Byte) : (s.writeBytes pa bs).nextId = s.nextId := rfl
@[simp] theorem writeBytes_cmds (s : State) (pa : Nat) (bs : List Byte) : (s.writeBytes pa bs).cmds = s.cmds := rfl
@[simp] theorem writeBytes_fq (s : State) (pa : Nat) (bs : List Byte) : (s.writeBytes pa bs).fq = s.fq := rfl
@[simp] theorem writeBytes_fqWait (s : State) (pa : Nat) (bs : List Byte) : (s.writeBytes pa bs).fqWait = s.fqWait := rfl
@[simp] theorem writeBytes_faq (s : State) (pa : Nat) (bs : List Byte) : (s.writeBytes pa bs).faq = s.faq := rfl
@[simp] theorem writeBytes_faqLost (s : State) (pa : Nat) (bs : List Byte) : (s.writeBytes pa bs).faqLost = s.faqLost := rfl
@[simp] theorem writeBytes_errs (s : State) (pa : Nat) (bs : List Byte) : (s.writeBytes pa bs).errs = s.errs := rfl
@[simp] theorem writeBytes_events (s : State) (pa : Nat) (bs : List Byte) : (s.writeBytes pa bs).events = s.events := rfl
@[simp] theorem writeBytes_bpl (s : State) (pa : Nat) (bs : List Byte) : (s.writeBytes pa bs).bpl = s.bpl := rfl
@[simp] theorem writeBytes_bplBusy (s : State) (pa : Nat) (bs : List Byte) : (s.writeBytes pa bs).bplBusy = s.bplBusy := rfl
@[simp] theorem writeBytes_bplTemp (s : State) (pa : Nat) (bs : List Byte) : (s.writeBytes pa bs).bplTemp = s.bplTemp := rfl
@[simp] theorem writeBytes_locked (s : State) (pa : Nat) (bs : List Byte) : (s.writeBytes pa bs).locked = s.locked := rfl
@[simp] theorem writeBytes_lockOvf (s : State) (pa : Nat) (bs : List Byte) : (s.writeBytes pa bs).lockOvf = s.lockOvf := rfl
@[simp] theorem writeBytes_pkg (s : State) (pa : Nat) (bs : List Byte) : (s.writeBytes pa bs).pkg = s.pkg := rfl
@[simp] theorem writeBytes_gov (s : State) (pa : Nat) (bs : List Byte) : (s.writeBytes pa bs).gov = s.gov := rfl
@[simp] theorem writeBytes_ports (s : State) (pa : Nat) (bs : List Byte) : (s.writeBytes pa bs).ports = s.ports := rfl
@[simp] theorem writeBytes_dir (s : State) (pa : Nat) (bs : List Byte) : (s.writeBytes pa bs).dir = s.dir := rfl
@[simp] theorem writeBytes_drops (s : State) (pa : Nat) (bs : List Byte) : (s.writeBytes pa bs).drops = s.drops := rfl
@[simp] theorem writeBytes_dropLost (s : State) (pa : Nat) (bs : List Byte) : (s.writeBytes pa bs).dropLost = s.dropLost := rfl
@[simp] theorem writeBytes_msixMask (s : State) (pa : Nat) (bs : List Byte) : (s.writeBytes pa bs).msixMask = s.msixMask := rfl
@[simp] theorem writeBytes_msixPend (s : State) (pa : Nat) (bs : List Byte) : (s.writeBytes pa bs).msixPend = s.msixPend := rfl
@[simp] theorem writeBytes_bar4Size (s : State) (pa : Nat) (bs : List Byte) : (s.writeBytes pa bs).bar4Size = s.bar4Size := rfl
@[simp] theorem writeBytes_wire (s : State) (pa : Nat) (bs : List Byte) : (s.writeBytes pa bs).wire = s.wire := rfl
@[simp] theorem writeBytes_held (s : State) (pa : Nat) (bs : List Byte) : (s.writeBytes pa bs).held = s.held := rfl
@[simp] theorem writeBytes_nextHeld (s : State) (pa : Nat) (bs : List Byte) : (s.writeBytes pa bs).nextHeld = s.nextHeld := rfl
@[simp] theorem writeBytes_lqTags (s : State) (pa : Nat) (bs : List Byte) : (s.writeBytes pa bs).lqTags = s.lqTags := rfl
@[simp] theorem writeBytes_mcTags (s : State) (pa : Nat) (bs : List Byte) : (s.writeBytes pa bs).mcTags = s.mcTags := rfl

/-! ### setPois -/

@[simp] theorem setPois_time (s : State) (line : Nat) (b : Bool) : (s.setPois line b).time = s.time := rfl
@[simp] theorem setPois_moves (s : State) (line : Nat) (b : Bool) : (s.setPois line b).moves = s.moves := rfl
@[simp] theorem setPois_input (s : State) (line : Nat) (b : Bool) : (s.setPois line b).input = s.input := rfl
@[simp] theorem setPois_freeCtr (s : State) (line : Nat) (b : Bool) : (s.setPois line b).freeCtr = s.freeCtr := rfl
@[simp] theorem setPois_out (s : State) (line : Nat) (b : Bool) : (s.setPois line b).out = s.out := rfl
@[simp] theorem setPois_cur (s : State) (line : Nat) (b : Bool) : (s.setPois line b).cur = s.cur := rfl
@[simp] theorem setPois_hart (s : State) (line : Nat) (b : Bool) : (s.setPois line b).hart = s.hart := rfl
@[simp] theorem setPois_crew (s : State) (line : Nat) (b : Bool) : (s.setPois line b).crew = s.crew := rfl
@[simp] theorem setPois_harts (s : State) (line : Nat) (b : Bool) : (s.setPois line b).harts = s.harts := rfl
@[simp] theorem setPois_crews (s : State) (line : Nat) (b : Bool) : (s.setPois line b).crews = s.crews := rfl
@[simp] theorem setPois_nextUid (s : State) (line : Nat) (b : Bool) : (s.setPois line b).nextUid = s.nextUid := rfl
@[simp] theorem setPois_nextTag (s : State) (line : Nat) (b : Bool) : (s.setPois line b).nextTag = s.nextTag := rfl
@[simp] theorem setPois_dcache (s : State) (line : Nat) (b : Bool) : (s.setPois line b).dcache = s.dcache := rfl
@[simp] theorem setPois_icache (s : State) (line : Nat) (b : Bool) : (s.setPois line b).icache = s.icache := rfl
@[simp] theorem setPois_mnet (s : State) (line : Nat) (b : Bool) : (s.setPois line b).mnet = s.mnet := rfl
@[simp] theorem setPois_recs (s : State) (line : Nat) (b : Bool) : (s.setPois line b).recs = s.recs := rfl
@[simp] theorem setPois_mem (s : State) (line : Nat) (b : Bool) : (s.setPois line b).mem = s.mem := rfl
@[simp] theorem setPois_cregs (s : State) (line : Nat) (b : Bool) : (s.setPois line b).cregs = s.cregs := rfl
@[simp] theorem setPois_tlb (s : State) (line : Nat) (b : Bool) : (s.setPois line b).tlb = s.tlb := rfl
@[simp] theorem setPois_walks (s : State) (line : Nat) (b : Bool) : (s.setPois line b).walks = s.walks := rfl
@[simp] theorem setPois_invals (s : State) (line : Nat) (b : Bool) : (s.setPois line b).invals = s.invals := rfl
@[simp] theorem setPois_regs (s : State) (line : Nat) (b : Bool) : (s.setPois line b).regs = s.regs := rfl
@[simp] theorem setPois_ctrs (s : State) (line : Nat) (b : Bool) : (s.setPois line b).ctrs = s.ctrs := rfl
@[simp] theorem setPois_launches (s : State) (line : Nat) (b : Bool) : (s.setPois line b).launches = s.launches := rfl
@[simp] theorem setPois_nextSeq (s : State) (line : Nat) (b : Bool) : (s.setPois line b).nextSeq = s.nextSeq := rfl
@[simp] theorem setPois_nextId (s : State) (line : Nat) (b : Bool) : (s.setPois line b).nextId = s.nextId := rfl
@[simp] theorem setPois_cmds (s : State) (line : Nat) (b : Bool) : (s.setPois line b).cmds = s.cmds := rfl
@[simp] theorem setPois_fq (s : State) (line : Nat) (b : Bool) : (s.setPois line b).fq = s.fq := rfl
@[simp] theorem setPois_fqWait (s : State) (line : Nat) (b : Bool) : (s.setPois line b).fqWait = s.fqWait := rfl
@[simp] theorem setPois_faq (s : State) (line : Nat) (b : Bool) : (s.setPois line b).faq = s.faq := rfl
@[simp] theorem setPois_faqLost (s : State) (line : Nat) (b : Bool) : (s.setPois line b).faqLost = s.faqLost := rfl
@[simp] theorem setPois_errs (s : State) (line : Nat) (b : Bool) : (s.setPois line b).errs = s.errs := rfl
@[simp] theorem setPois_events (s : State) (line : Nat) (b : Bool) : (s.setPois line b).events = s.events := rfl
@[simp] theorem setPois_bpl (s : State) (line : Nat) (b : Bool) : (s.setPois line b).bpl = s.bpl := rfl
@[simp] theorem setPois_bplBusy (s : State) (line : Nat) (b : Bool) : (s.setPois line b).bplBusy = s.bplBusy := rfl
@[simp] theorem setPois_bplTemp (s : State) (line : Nat) (b : Bool) : (s.setPois line b).bplTemp = s.bplTemp := rfl
@[simp] theorem setPois_locked (s : State) (line : Nat) (b : Bool) : (s.setPois line b).locked = s.locked := rfl
@[simp] theorem setPois_lockOvf (s : State) (line : Nat) (b : Bool) : (s.setPois line b).lockOvf = s.lockOvf := rfl
@[simp] theorem setPois_pkg (s : State) (line : Nat) (b : Bool) : (s.setPois line b).pkg = s.pkg := rfl
@[simp] theorem setPois_gov (s : State) (line : Nat) (b : Bool) : (s.setPois line b).gov = s.gov := rfl
@[simp] theorem setPois_ports (s : State) (line : Nat) (b : Bool) : (s.setPois line b).ports = s.ports := rfl
@[simp] theorem setPois_dir (s : State) (line : Nat) (b : Bool) : (s.setPois line b).dir = s.dir := rfl
@[simp] theorem setPois_drops (s : State) (line : Nat) (b : Bool) : (s.setPois line b).drops = s.drops := rfl
@[simp] theorem setPois_dropLost (s : State) (line : Nat) (b : Bool) : (s.setPois line b).dropLost = s.dropLost := rfl
@[simp] theorem setPois_msixMask (s : State) (line : Nat) (b : Bool) : (s.setPois line b).msixMask = s.msixMask := rfl
@[simp] theorem setPois_msixPend (s : State) (line : Nat) (b : Bool) : (s.setPois line b).msixPend = s.msixPend := rfl
@[simp] theorem setPois_bar4Size (s : State) (line : Nat) (b : Bool) : (s.setPois line b).bar4Size = s.bar4Size := rfl
@[simp] theorem setPois_wire (s : State) (line : Nat) (b : Bool) : (s.setPois line b).wire = s.wire := rfl
@[simp] theorem setPois_held (s : State) (line : Nat) (b : Bool) : (s.setPois line b).held = s.held := rfl
@[simp] theorem setPois_nextHeld (s : State) (line : Nat) (b : Bool) : (s.setPois line b).nextHeld = s.nextHeld := rfl
@[simp] theorem setPois_lqTags (s : State) (line : Nat) (b : Bool) : (s.setPois line b).lqTags = s.lqTags := rfl
@[simp] theorem setPois_mcTags (s : State) (line : Nat) (b : Bool) : (s.setPois line b).mcTags = s.mcTags := rfl

/-! ### putDline -/

@[simp] theorem putDline_time (s : State) (core line : Nat) (d : DLine) : (s.putDline core line d).time = s.time := rfl
@[simp] theorem putDline_moves (s : State) (core line : Nat) (d : DLine) : (s.putDline core line d).moves = s.moves := rfl
@[simp] theorem putDline_input (s : State) (core line : Nat) (d : DLine) : (s.putDline core line d).input = s.input := rfl
@[simp] theorem putDline_freeCtr (s : State) (core line : Nat) (d : DLine) : (s.putDline core line d).freeCtr = s.freeCtr := rfl
@[simp] theorem putDline_out (s : State) (core line : Nat) (d : DLine) : (s.putDline core line d).out = s.out := rfl
@[simp] theorem putDline_cur (s : State) (core line : Nat) (d : DLine) : (s.putDline core line d).cur = s.cur := rfl
@[simp] theorem putDline_hart (s : State) (core line : Nat) (d : DLine) : (s.putDline core line d).hart = s.hart := rfl
@[simp] theorem putDline_crew (s : State) (core line : Nat) (d : DLine) : (s.putDline core line d).crew = s.crew := rfl
@[simp] theorem putDline_harts (s : State) (core line : Nat) (d : DLine) : (s.putDline core line d).harts = s.harts := rfl
@[simp] theorem putDline_crews (s : State) (core line : Nat) (d : DLine) : (s.putDline core line d).crews = s.crews := rfl
@[simp] theorem putDline_nextUid (s : State) (core line : Nat) (d : DLine) : (s.putDline core line d).nextUid = s.nextUid := rfl
@[simp] theorem putDline_nextTag (s : State) (core line : Nat) (d : DLine) : (s.putDline core line d).nextTag = s.nextTag := rfl
@[simp] theorem putDline_icache (s : State) (core line : Nat) (d : DLine) : (s.putDline core line d).icache = s.icache := rfl
@[simp] theorem putDline_mnet (s : State) (core line : Nat) (d : DLine) : (s.putDline core line d).mnet = s.mnet := rfl
@[simp] theorem putDline_recs (s : State) (core line : Nat) (d : DLine) : (s.putDline core line d).recs = s.recs := rfl
@[simp] theorem putDline_mem (s : State) (core line : Nat) (d : DLine) : (s.putDline core line d).mem = s.mem := rfl
@[simp] theorem putDline_pois (s : State) (core line : Nat) (d : DLine) : (s.putDline core line d).pois = s.pois := rfl
@[simp] theorem putDline_cregs (s : State) (core line : Nat) (d : DLine) : (s.putDline core line d).cregs = s.cregs := rfl
@[simp] theorem putDline_tlb (s : State) (core line : Nat) (d : DLine) : (s.putDline core line d).tlb = s.tlb := rfl
@[simp] theorem putDline_walks (s : State) (core line : Nat) (d : DLine) : (s.putDline core line d).walks = s.walks := rfl
@[simp] theorem putDline_invals (s : State) (core line : Nat) (d : DLine) : (s.putDline core line d).invals = s.invals := rfl
@[simp] theorem putDline_regs (s : State) (core line : Nat) (d : DLine) : (s.putDline core line d).regs = s.regs := rfl
@[simp] theorem putDline_ctrs (s : State) (core line : Nat) (d : DLine) : (s.putDline core line d).ctrs = s.ctrs := rfl
@[simp] theorem putDline_launches (s : State) (core line : Nat) (d : DLine) : (s.putDline core line d).launches = s.launches := rfl
@[simp] theorem putDline_nextSeq (s : State) (core line : Nat) (d : DLine) : (s.putDline core line d).nextSeq = s.nextSeq := rfl
@[simp] theorem putDline_nextId (s : State) (core line : Nat) (d : DLine) : (s.putDline core line d).nextId = s.nextId := rfl
@[simp] theorem putDline_cmds (s : State) (core line : Nat) (d : DLine) : (s.putDline core line d).cmds = s.cmds := rfl
@[simp] theorem putDline_fq (s : State) (core line : Nat) (d : DLine) : (s.putDline core line d).fq = s.fq := rfl
@[simp] theorem putDline_fqWait (s : State) (core line : Nat) (d : DLine) : (s.putDline core line d).fqWait = s.fqWait := rfl
@[simp] theorem putDline_faq (s : State) (core line : Nat) (d : DLine) : (s.putDline core line d).faq = s.faq := rfl
@[simp] theorem putDline_faqLost (s : State) (core line : Nat) (d : DLine) : (s.putDline core line d).faqLost = s.faqLost := rfl
@[simp] theorem putDline_errs (s : State) (core line : Nat) (d : DLine) : (s.putDline core line d).errs = s.errs := rfl
@[simp] theorem putDline_events (s : State) (core line : Nat) (d : DLine) : (s.putDline core line d).events = s.events := rfl
@[simp] theorem putDline_bpl (s : State) (core line : Nat) (d : DLine) : (s.putDline core line d).bpl = s.bpl := rfl
@[simp] theorem putDline_bplBusy (s : State) (core line : Nat) (d : DLine) : (s.putDline core line d).bplBusy = s.bplBusy := rfl
@[simp] theorem putDline_bplTemp (s : State) (core line : Nat) (d : DLine) : (s.putDline core line d).bplTemp = s.bplTemp := rfl
@[simp] theorem putDline_locked (s : State) (core line : Nat) (d : DLine) : (s.putDline core line d).locked = s.locked := rfl
@[simp] theorem putDline_lockOvf (s : State) (core line : Nat) (d : DLine) : (s.putDline core line d).lockOvf = s.lockOvf := rfl
@[simp] theorem putDline_pkg (s : State) (core line : Nat) (d : DLine) : (s.putDline core line d).pkg = s.pkg := rfl
@[simp] theorem putDline_gov (s : State) (core line : Nat) (d : DLine) : (s.putDline core line d).gov = s.gov := rfl
@[simp] theorem putDline_ports (s : State) (core line : Nat) (d : DLine) : (s.putDline core line d).ports = s.ports := rfl
@[simp] theorem putDline_dir (s : State) (core line : Nat) (d : DLine) : (s.putDline core line d).dir = s.dir := rfl
@[simp] theorem putDline_drops (s : State) (core line : Nat) (d : DLine) : (s.putDline core line d).drops = s.drops := rfl
@[simp] theorem putDline_dropLost (s : State) (core line : Nat) (d : DLine) : (s.putDline core line d).dropLost = s.dropLost := rfl
@[simp] theorem putDline_msixMask (s : State) (core line : Nat) (d : DLine) : (s.putDline core line d).msixMask = s.msixMask := rfl
@[simp] theorem putDline_msixPend (s : State) (core line : Nat) (d : DLine) : (s.putDline core line d).msixPend = s.msixPend := rfl
@[simp] theorem putDline_bar4Size (s : State) (core line : Nat) (d : DLine) : (s.putDline core line d).bar4Size = s.bar4Size := rfl
@[simp] theorem putDline_wire (s : State) (core line : Nat) (d : DLine) : (s.putDline core line d).wire = s.wire := rfl
@[simp] theorem putDline_held (s : State) (core line : Nat) (d : DLine) : (s.putDline core line d).held = s.held := rfl
@[simp] theorem putDline_nextHeld (s : State) (core line : Nat) (d : DLine) : (s.putDline core line d).nextHeld = s.nextHeld := rfl
@[simp] theorem putDline_lqTags (s : State) (core line : Nat) (d : DLine) : (s.putDline core line d).lqTags = s.lqTags := rfl
@[simp] theorem putDline_mcTags (s : State) (core line : Nat) (d : DLine) : (s.putDline core line d).mcTags = s.mcTags := rfl

/-! ### dropDline -/

@[simp] theorem dropDline_time (s : State) (core line : Nat) : (s.dropDline core line).time = s.time := rfl
@[simp] theorem dropDline_moves (s : State) (core line : Nat) : (s.dropDline core line).moves = s.moves := rfl
@[simp] theorem dropDline_input (s : State) (core line : Nat) : (s.dropDline core line).input = s.input := rfl
@[simp] theorem dropDline_freeCtr (s : State) (core line : Nat) : (s.dropDline core line).freeCtr = s.freeCtr := rfl
@[simp] theorem dropDline_out (s : State) (core line : Nat) : (s.dropDline core line).out = s.out := rfl
@[simp] theorem dropDline_cur (s : State) (core line : Nat) : (s.dropDline core line).cur = s.cur := rfl
@[simp] theorem dropDline_hart (s : State) (core line : Nat) : (s.dropDline core line).hart = s.hart := rfl
@[simp] theorem dropDline_crew (s : State) (core line : Nat) : (s.dropDline core line).crew = s.crew := rfl
@[simp] theorem dropDline_harts (s : State) (core line : Nat) : (s.dropDline core line).harts = s.harts := rfl
@[simp] theorem dropDline_crews (s : State) (core line : Nat) : (s.dropDline core line).crews = s.crews := rfl
@[simp] theorem dropDline_nextUid (s : State) (core line : Nat) : (s.dropDline core line).nextUid = s.nextUid := rfl
@[simp] theorem dropDline_nextTag (s : State) (core line : Nat) : (s.dropDline core line).nextTag = s.nextTag := rfl
@[simp] theorem dropDline_icache (s : State) (core line : Nat) : (s.dropDline core line).icache = s.icache := rfl
@[simp] theorem dropDline_mnet (s : State) (core line : Nat) : (s.dropDline core line).mnet = s.mnet := rfl
@[simp] theorem dropDline_recs (s : State) (core line : Nat) : (s.dropDline core line).recs = s.recs := rfl
@[simp] theorem dropDline_mem (s : State) (core line : Nat) : (s.dropDline core line).mem = s.mem := rfl
@[simp] theorem dropDline_pois (s : State) (core line : Nat) : (s.dropDline core line).pois = s.pois := rfl
@[simp] theorem dropDline_cregs (s : State) (core line : Nat) : (s.dropDline core line).cregs = s.cregs := rfl
@[simp] theorem dropDline_tlb (s : State) (core line : Nat) : (s.dropDline core line).tlb = s.tlb := rfl
@[simp] theorem dropDline_walks (s : State) (core line : Nat) : (s.dropDline core line).walks = s.walks := rfl
@[simp] theorem dropDline_invals (s : State) (core line : Nat) : (s.dropDline core line).invals = s.invals := rfl
@[simp] theorem dropDline_regs (s : State) (core line : Nat) : (s.dropDline core line).regs = s.regs := rfl
@[simp] theorem dropDline_ctrs (s : State) (core line : Nat) : (s.dropDline core line).ctrs = s.ctrs := rfl
@[simp] theorem dropDline_launches (s : State) (core line : Nat) : (s.dropDline core line).launches = s.launches := rfl
@[simp] theorem dropDline_nextSeq (s : State) (core line : Nat) : (s.dropDline core line).nextSeq = s.nextSeq := rfl
@[simp] theorem dropDline_nextId (s : State) (core line : Nat) : (s.dropDline core line).nextId = s.nextId := rfl
@[simp] theorem dropDline_cmds (s : State) (core line : Nat) : (s.dropDline core line).cmds = s.cmds := rfl
@[simp] theorem dropDline_fq (s : State) (core line : Nat) : (s.dropDline core line).fq = s.fq := rfl
@[simp] theorem dropDline_fqWait (s : State) (core line : Nat) : (s.dropDline core line).fqWait = s.fqWait := rfl
@[simp] theorem dropDline_faq (s : State) (core line : Nat) : (s.dropDline core line).faq = s.faq := rfl
@[simp] theorem dropDline_faqLost (s : State) (core line : Nat) : (s.dropDline core line).faqLost = s.faqLost := rfl
@[simp] theorem dropDline_errs (s : State) (core line : Nat) : (s.dropDline core line).errs = s.errs := rfl
@[simp] theorem dropDline_events (s : State) (core line : Nat) : (s.dropDline core line).events = s.events := rfl
@[simp] theorem dropDline_bpl (s : State) (core line : Nat) : (s.dropDline core line).bpl = s.bpl := rfl
@[simp] theorem dropDline_bplBusy (s : State) (core line : Nat) : (s.dropDline core line).bplBusy = s.bplBusy := rfl
@[simp] theorem dropDline_bplTemp (s : State) (core line : Nat) : (s.dropDline core line).bplTemp = s.bplTemp := rfl
@[simp] theorem dropDline_locked (s : State) (core line : Nat) : (s.dropDline core line).locked = s.locked := rfl
@[simp] theorem dropDline_lockOvf (s : State) (core line : Nat) : (s.dropDline core line).lockOvf = s.lockOvf := rfl
@[simp] theorem dropDline_pkg (s : State) (core line : Nat) : (s.dropDline core line).pkg = s.pkg := rfl
@[simp] theorem dropDline_gov (s : State) (core line : Nat) : (s.dropDline core line).gov = s.gov := rfl
@[simp] theorem dropDline_ports (s : State) (core line : Nat) : (s.dropDline core line).ports = s.ports := rfl
@[simp] theorem dropDline_dir (s : State) (core line : Nat) : (s.dropDline core line).dir = s.dir := rfl
@[simp] theorem dropDline_drops (s : State) (core line : Nat) : (s.dropDline core line).drops = s.drops := rfl
@[simp] theorem dropDline_dropLost (s : State) (core line : Nat) : (s.dropDline core line).dropLost = s.dropLost := rfl
@[simp] theorem dropDline_msixMask (s : State) (core line : Nat) : (s.dropDline core line).msixMask = s.msixMask := rfl
@[simp] theorem dropDline_msixPend (s : State) (core line : Nat) : (s.dropDline core line).msixPend = s.msixPend := rfl
@[simp] theorem dropDline_bar4Size (s : State) (core line : Nat) : (s.dropDline core line).bar4Size = s.bar4Size := rfl
@[simp] theorem dropDline_wire (s : State) (core line : Nat) : (s.dropDline core line).wire = s.wire := rfl
@[simp] theorem dropDline_held (s : State) (core line : Nat) : (s.dropDline core line).held = s.held := rfl
@[simp] theorem dropDline_nextHeld (s : State) (core line : Nat) : (s.dropDline core line).nextHeld = s.nextHeld := rfl
@[simp] theorem dropDline_lqTags (s : State) (core line : Nat) : (s.dropDline core line).lqTags = s.lqTags := rfl
@[simp] theorem dropDline_mcTags (s : State) (core line : Nat) : (s.dropDline core line).mcTags = s.mcTags := rfl

/-! ### What each update sets -/

@[simp] theorem onHart_hart (s : State) (f : Hart → Hart) : (s.onHart f).hart = f s.hart := rfl
@[simp] theorem onCrew_crew (s : State) (f : Crew → Crew) : (s.onCrew f).crew = f s.crew := rfl
@[simp] theorem onCsr_csr (s : State) (f : Csrs → Csrs) : (s.onCsr f).hart.csr = f s.hart.csr := rfl
@[simp] theorem setPc_pc (s : State) (v : Word) : (s.setPc v).pc = v := rfl
@[simp] theorem advance_pc (s : State) (n : Nat) : (s.advance n).pc = s.pc + BitVec.ofNat 64 n := rfl
@[simp] theorem advance_csr (s : State) (n : Nat) :
    (s.advance n).hart.csr = { s.hart.csr with instret := s.hart.csr.instret + 1 } := rfl
@[simp] theorem jumpTo_pc (s : State) (v : Word) : (s.jumpTo v).pc = v := rfl
@[simp] theorem jumpTo_csr (s : State) (v : Word) :
    (s.jumpTo v).hart.csr = { s.hart.csr with instret := s.hart.csr.instret + 1 } := rfl
@[simp] theorem setVstart_csr (s : State) (n : Nat) :
    (s.setVstart n).hart.csr = { s.hart.csr with vstart := BitVec.ofNat 64 n } := rfl
@[simp] theorem setMstart_csr (s : State) (n : Nat) :
    (s.setMstart n).hart.csr = { s.hart.csr with mstart := BitVec.ofNat 64 n } := rfl
@[simp] theorem setVl_csr (s : State) (n : Nat) : (s.setVl n).hart.csr = { s.hart.csr with vl := BitVec.ofNat 64 n } := rfl
@[simp] theorem setVlVec_csr (s : State) (n : Nat) :
    (s.setVlVec n).hart.csr = { s.hart.csr with vl := BitVec.ofNat 64 n } := rfl
@[simp] theorem setVl_vlDs (s : State) (n : Nat) : (s.setVl n).hart.vlDs = false := rfl
@[simp] theorem setVlVec_vlDs (s : State) (n : Nat) : (s.setVlVec n).hart.vlDs = true := rfl
@[simp] theorem hold_held (s : State) (h : Held) : (s.hold h).held = FMap.insert s.nextHeld h s.held := rfl
@[simp] theorem takeTrap_ibuf (s : State) (c : Cause) (sub : Nat) (v p : Word) (i : Bool) :
    (s.takeTrap c sub v p i).hart.ibuf = [] := rfl
@[simp] theorem trapReturn_ibuf (s : State) : s.trapReturn.hart.ibuf = [] := rfl
@[simp] theorem takeTrap_pc (s : State) (c : Cause) (sub : Nat) (v p : Word) (i : Bool) :
    (s.takeTrap c sub v p i).pc = s.hart.csr.tvec := rfl
@[simp] theorem trapReturn_pc (s : State) : s.trapReturn.pc = s.hart.csr.tpc := rfl
@[simp] theorem emit_out (s : State) (o : Output) : (s.emit o).out = s.out ++ [o] := rfl
@[simp] theorem setX_pc (s : State) (r : Reg) (v : Word) : (s.setX r v).pc = s.pc := by unfold State.setX; split <;> rfl

/-- The registers after a write: x0 stays zero, and every other register but the one written keeps its value (R284, R305). -/
theorem x_setX (s : State) (r q : Reg) (v : Word) : (s.setX r v).x q = if q = r ∧ r ≠ 0 then v else s.x q := by
  unfold State.setX State.x
  by_cases hr : r = 0
  · simp [hr]
  · by_cases hq : q = 0
    · subst hq; simp; exact fun h => absurd h.symm hr
    · simp only [hr, hq, if_false, ne_eq, not_false_eq_true, and_true]
      by_cases e : q = r
      · subst e; simp
      · have : r.toNat ≠ q.toNat := fun h => e (BitVec.eq_of_toNat_eq h.symm)
        simp [e, Vector.getElem_set_ne, this]

@[simp] theorem x_zero (s : State) : s.x 0 = 0 := rfl
@[simp] theorem x_advance (s : State) (n : Nat) (r : Reg) : (s.advance n).x r = s.x r := rfl
@[simp] theorem x_jumpTo (s : State) (v : Word) (r : Reg) : (s.jumpTo v).x r = s.x r := rfl
@[simp] theorem x_takeTrap (s : State) (c : Cause) (sub : Nat) (v p : Word) (i : Bool) (r : Reg) :
    (s.takeTrap c sub v p i).x r = s.x r := rfl
@[simp] theorem x_trapReturn (s : State) (r : Reg) : s.trapReturn.x r = s.x r := rfl
@[simp] theorem x_addFlags (s : State) (f : Nat) (r : Reg) : (s.addFlags f).x r = s.x r := by
  unfold State.addFlags; split <;> rfl

/-- Reading a BAR register after a write to one (R5). -/
theorem reg_setReg (s : State) (k j : Nat) (v : Word) : (s.setReg k v).reg j = if k = j then v else s.reg j := by
  by_cases h : k = j
  · subst h; simp [State.reg, State.setReg, FMap.getD_setD_same]
  · rw [if_neg h]; exact FMap.getD_setD_ne h _ _ _ _

end Sys2Proof.Machine.State
end

