-- ==== Sys2Proof/Laws/Memory.lean ====
section
/-!
SUPPORT. Memory at its home: reading after writing, addresses left alone, and the canonical form kept by every operation that
stores bytes (00_scope R3, 07_memory R162, 08 R205).
-/
namespace Sys2Proof.Machine

theorem length_bytesLE (n v : Nat) : (bytesLE n v).length = n := by
  induction n generalizing v with
  | zero => rfl
  | succ n ih => simp [bytesLE, ih]

/-- Splitting a number into `n` bytes and joining them keeps its low `8 n` bits. -/
theorem ofBytesLE_bytesLE (n v : Nat) : ofBytesLE (bytesLE n v) = v % 256 ^ n := by
  induction n generalizing v with
  | zero => simp [bytesLE, ofBytesLE, Nat.mod_one]
  | succ n ih =>
    have h := Nat.mod_mul (x := v) (a := 256) (b := 256 ^ n)
    simp only [bytesLE, ofBytesLE, ih, BitVec.toNat_ofNat]
    rw [show (256 : Nat) ^ (n + 1) = 256 * 256 ^ n by rw [Nat.pow_succ, Nat.mul_comm], h]

theorem ofBytesLE_lt (bs : List Byte) : ofBytesLE bs < 256 ^ bs.length := by
  induction bs with
  | nil => simp [ofBytesLE]
  | cons b bs ih =>
    have := b.isLt
    simp only [ofBytesLE, List.length_cons, Nat.pow_succ]
    omega

namespace State

theorem byteAt_writeMem (bs : List Byte) (m : FMap Byte) (pa a : Nat) :
    FMap.getD 0 a (writeMem m pa bs)
      = if pa ≤ a ∧ a < pa + bs.length then bs.getD (a - pa) 0 else FMap.getD 0 a m := by
  induction bs generalizing m pa with
  | nil => simp only [writeMem, List.length_nil]; rw [if_neg (by omega)]
  | cons b bs ih =>
    rw [writeMem, ih, FMap.getD_setD]
    by_cases h : pa = a
    · subst h
      rw [if_neg (by omega), if_pos rfl, if_pos (by simp)]; simp
    · by_cases h2 : pa + 1 ≤ a ∧ a < pa + 1 + bs.length
      · rw [if_pos h2, if_pos (by simp; omega)]
        obtain ⟨k, rfl⟩ : ∃ k, a = pa + 1 + k := ⟨a - (pa + 1), by omega⟩
        have e1 : pa + 1 + k - (pa + 1) = k := by omega
        have e2 : pa + 1 + k - pa = k + 1 := by omega
        rw [e1, e2]; simp
      · rw [if_neg h2, if_neg h, if_neg (by simp; omega)]

/-- What one byte reads as after bytes are stored at their home. -/
theorem byteAt_writeBytes (s : State) (pa a : Nat) (bs : List Byte) :
    (s.writeBytes pa bs).byteAt a = if pa ≤ a ∧ a < pa + bs.length then bs.getD (a - pa) 0 else s.byteAt a :=
  byteAt_writeMem bs s.mem pa a

/-- A store leaves every byte outside it alone. -/
theorem byteAt_writeHome_outside (s : State) (pa n v a : Nat) (h : ¬(pa ≤ a ∧ a < pa + n)) :
    (s.writeHome pa n v).byteAt a = s.byteAt a := by
  unfold writeHome; rw [byteAt_writeBytes, length_bytesLE, if_neg h]

theorem upFrom_map_getD (bs : List Byte) (pa : Nat) :
    (upFrom pa bs.length).map (fun a => bs.getD (a - pa) 0) = bs := by
  suffices h : ∀ (bs : List Byte) (pre : List Byte) (pa : Nat),
      (upFrom (pa + pre.length) bs.length).map (fun a => (pre ++ bs).getD (a - pa) 0) = bs by
    simpa using h bs [] pa
  intro bs
  induction bs with
  | nil => intro pre pa; rfl
  | cons b bs ih =>
    intro pre pa
    simp only [List.length_cons, upFrom, List.map_cons]
    have h1 : pa + pre.length - pa = pre.length := by omega
    have h2 := ih (pre ++ [b]) pa
    simp only [List.length_append, List.length_cons, List.length_nil, List.append_assoc, List.cons_append,
      List.nil_append] at h2
    rw [h1]
    congr 1
    simp

theorem mem_upFrom {a pa n : Nat} (h : a ∈ upFrom pa n) : pa ≤ a ∧ a < pa + n := by
  induction n generalizing pa with
  | zero => simp [upFrom] at h
  | succ n ih =>
    rcases List.mem_cons.1 h with rfl | h
    · omega
    · have := ih h; omega

/-- What was stored is read back, in the low `8 n` bits (R3). -/
theorem readHome_writeHome (s : State) (pa n v : Nat) : (s.writeHome pa n v).readHome pa n = v % 256 ^ n := by
  have h : (s.writeHome pa n v).bytesAt pa n = bytesLE n v := by
    unfold bytesAt
    have e : ∀ a ∈ upFrom pa n, (s.writeHome pa n v).byteAt a = (bytesLE n v).getD (a - pa) 0 := by
      intro a ha
      unfold writeHome
      rw [byteAt_writeBytes, length_bytesLE, if_pos (mem_upFrom ha)]
    rw [List.map_congr_left e]
    have := upFrom_map_getD (bytesLE n v) pa
    rwa [length_bytesLE] at this
  unfold readHome
  rw [h, ofBytesLE_bytesLE]

/-! ### The canonical form -/

theorem wf_writeMem (bs : List Byte) {m : FMap Byte} (pa : Nat) (h : Memory.wf m = true) :
    Memory.wf (writeMem m pa bs) = true := by
  induction bs generalizing m pa with
  | nil => exact h
  | cons b bs ih => exact ih _ (FMap.wf_setD 0 pa b h)

theorem wf_writeDirty (bs : List Byte) (ds : List Bool) {m : FMap Byte} (pa : Nat) (h : Memory.wf m = true) :
    Memory.wf (writeDirty m pa bs ds) = true := by
  induction bs generalizing ds m pa with
  | nil => cases ds <;> exact h
  | cons b bs ih =>
    cases ds with
    | nil => exact h
    | cons d ds =>
      unfold writeDirty
      apply ih
      split
      · exact FMap.wf_setD 0 pa b h
      · exact h

theorem wf_writeBytes (s : State) (pa : Nat) (bs : List Byte) (h : Memory.wf s.mem = true) :
    Memory.wf (s.writeBytes pa bs).mem = true := wf_writeMem bs pa h

theorem wf_writeHome (s : State) (pa n v : Nat) (h : Memory.wf s.mem = true) :
    Memory.wf (s.writeHome pa n v).mem = true := wf_writeMem _ pa h

theorem wf_writeLine (s : State) (line : Nat) (bs : List Byte) (h : Memory.wf s.mem = true) :
    Memory.wf (s.writeLine line bs).mem = true := wf_writeMem _ _ h

@[simp] theorem msix_mem (s : State) (fn vec : Nat) : (s.msix fn vec).mem = s.mem := by
  unfold msix
  split
  · rfl
  · split <;> rfl

@[simp] theorem pushFq_mem (s : State) (fn : Nat) (must : Bool) (r : FqRec) : (s.pushFq fn must r).mem = s.mem := by
  have e : ∀ (t : State) k v, (t.setRegFld k 32 8 v).mem = t.mem := fun t k v => setRegFld_mem t k 32 8 v
  rw [pushFq]
  split
  · rw [msix_mem]
  · split
    · rfl
    · exact e s _ _

@[simp] theorem poisonWb_mem (s : State) (slot : Nat) : (s.poisonWb slot).mem = s.mem := by
  unfold poisonWb; split <;> simp

@[simp] theorem takeFree_mem (s : State) : s.takeFree.2.mem = s.mem := rfl

/-- Holding a line locked changes no byte (R172). -/
@[simp] theorem lockFill_mem (s : State) (line : Nat) : (s.lockFill line).mem = s.mem := by
  unfold lockFill; simp only []; repeat' split
  all_goals rfl

/-- What an access locks: nothing but the list of locked lines and its overflow flag changes (R172). -/
theorem lockFill_eq (s : State) (line : Nat) : ∃ ls o, s.lockFill line = { s with locked := ls, lockOvf := o } := by
  unfold lockFill; simp only []; repeat' split
  all_goals exact ⟨_, _, rfl⟩

theorem touch_eq (s : State) (pa n : Nat) : ∃ ls o, s.touch pa n = { s with locked := ls, lockOvf := o } := by
  unfold touch
  generalize linesOf pa n = ls
  induction ls generalizing s with
  | nil => exact ⟨_, _, rfl⟩
  | cons l ls ih =>
    obtain ⟨a, b, h⟩ := lockFill_eq s l
    obtain ⟨c, d, g⟩ := ih { s with locked := a, lockOvf := b }
    exact ⟨c, d, by rw [List.foldl_cons, h, g]⟩

@[simp] theorem touch_mem (s : State) (pa n : Nat) : (s.touch pa n).mem = s.mem := by
  obtain ⟨a, b, h⟩ := touch_eq s pa n
  rw [h]

/-- Writing a cached line's dirty bytes to its home keeps memory canonical. -/
theorem wf_flushLine (s : State) (slot core line : Nat) (h : Memory.wf s.mem = true) :
    Memory.wf (s.flushLine slot core line).mem = true := by
  unfold flushLine
  split
  · exact h
  · simp only []
    split
    · have w := fun d : DLine => wf_writeDirty d.data d.dirty (line * 64) h
      repeat' split
      all_goals simpa using w _
    · exact h

/-- Writing a cached line back, on whichever hart's account, keeps memory canonical. -/
theorem wf_writeBackBy (s : State) (slot core line : Nat) (h : Memory.wf s.mem = true) :
    Memory.wf (s.writeBackBy slot core line).mem = true := by
  unfold writeBackBy
  split
  · exact h
  · exact wf_flushLine _ _ _ _ h

theorem wf_writeBack (s : State) (core line : Nat) (h : Memory.wf s.mem = true) :
    Memory.wf (s.writeBack core line).mem = true := wf_writeBackBy s s.cur core line h

theorem wf_evictBy (s : State) (slot core line : Nat) (h : Memory.wf s.mem = true) :
    Memory.wf (s.evictBy slot core line).mem = true := by
  unfold evictBy
  split
  · exact h
  · exact wf_flushLine _ _ _ _ h

theorem wf_evict (s : State) (core line : Nat) (h : Memory.wf s.mem = true) : Memory.wf (s.evict core line).mem = true :=
  wf_evictBy s _ core line h

theorem wf_evictAlone (s : State) (core line : Nat) (h : Memory.wf s.mem = true) :
    Memory.wf (s.evictAlone core line).mem = true := wf_evictBy s _ core line h

theorem wf_makeRoom (s : State) (core : Nat) (h : Memory.wf s.mem = true) : Memory.wf (s.makeRoom core).mem = true := by
  unfold makeRoom
  simp only []
  split
  · exact h
  · exact wf_evict _ _ _ h

/-- Filling a line, which may make another leave, keeps memory canonical. -/
theorem wf_fillLine (s : State) (core line : Nat) (h : Memory.wf s.mem = true) : Memory.wf (s.fillLine core line).mem = true := by
  unfold fillLine
  split
  · split
    · simpa using wf_evict _ _ _ h
    · exact h
  · simpa using wf_makeRoom _ _ h

/-- A store through the cache keeps memory canonical. -/
theorem wf_storeByte (s : State) (core slot pa : Nat) (b : Byte) (h : Memory.wf s.mem = true) :
    Memory.wf (s.storeByte core slot pa b).mem = true := by
  unfold storeByte
  simp only []
  split <;> exact wf_fillLine _ _ _ h

theorem wf_storeBytes (bs : List Byte) (s : State) (core slot pa : Nat) (h : Memory.wf s.mem = true) :
    Memory.wf (s.storeBytes core slot pa bs).mem = true := by
  induction bs generalizing s pa with
  | nil => exact h
  | cons b bs ih => exact ih _ _ (wf_storeByte s core slot pa b h)

/-- Reading a line that the cache holds and that no error has struck changes nothing. -/
theorem fillLine_hit {s : State} {core line : Nat} {d : DLine} (h : s.dline core line = some d) (g : d.bad = false) :
    s.fillLine core line = s := by
  unfold fillLine; rw [h]; simp [g]

/-- A fold of operations that each keep memory canonical keeps it canonical. -/
theorem wf_foldl {α : Type} (f : State → α → State) (hf : ∀ s a, Memory.wf s.mem = true → Memory.wf (f s a).mem = true)
    (l : List α) (s : State) (h : Memory.wf s.mem = true) : Memory.wf (l.foldl f s).mem = true := by
  induction l generalizing s with
  | nil => exact h
  | cons a l ih => exact ih _ (hf s a h)

theorem wf_writeBackOf (s : State) (core slot : Nat) (h : Memory.wf s.mem = true) :
    Memory.wf (s.writeBackOf core slot).mem = true := wf_foldl _ (fun s l => wf_writeBackBy s slot core l) _ s h

theorem wf_refresh (s : State) (core : Nat) (h : Memory.wf s.mem = true) : Memory.wf (s.refresh core).mem = true :=
  wf_foldl _ (fun s l => wf_evict s core l) _ s h

/-- Filtering addresses out of memory, as the loss of a saved context does, keeps it canonical. -/
theorem wf_filter (m : FMap Byte) (f : Nat × Byte → Bool) (h : Memory.wf m = true) : Memory.wf (m.filter f) = true :=
  FMap.wf_filter 0 f h

theorem wf_reset : Memory.wf State.reset.mem = true := rfl

end State

end Sys2Proof.Machine
end

