-- ==== Sys2Proof/Laws/Fabric.lean ====
section
/-!
SUPPORT. What sending a message does: the fields it leaves alone, and how a packet leaves by its port (02_torus_links R24, R25).
-/
namespace Sys2Proof.Laws

open Sys2Proof Sys2Proof.Machine Sys2Proof.Machine.State Sys2Proof.Safety

@[simp] theorem modPort_regs (s : State) (n : Nat) (f : Port → Port) : (s.modPort n f).regs = s.regs := by
  unfold modPort; split <;> rfl
@[simp] theorem modPort_out (s : State) (n : Nat) (f : Port → Port) : (s.modPort n f).out = s.out := by
  unfold modPort; split <;> rfl
@[simp] theorem modPort_mem (s : State) (n : Nat) (f : Port → Port) : (s.modPort n f).mem = s.mem := by
  unfold modPort; split <;> rfl
@[simp] theorem modPort_hart (s : State) (n : Nat) (f : Port → Port) : (s.modPort n f).hart = s.hart := by
  unfold modPort; split <;> rfl
@[simp] theorem modPort_portState (s : State) (n k : Nat) (f : Port → Port) : (s.modPort n f).portState k = s.portState k := by
  simp only [portState, State.reg, modPort_regs]

/-- The port that was changed reads as changed. -/
theorem port_modPort (s : State) (n : Nat) (f : Port → Port) (h : n < 6) : (s.modPort n f).port n = f (s.port n) := by
  simp [State.modPort, State.port, h, Vector.getElem_toList]

@[simp] theorem emit_port (s : State) (o : Output) (n : Nat) : (s.emit o).port n = s.port n := rfl
@[simp] theorem emit_modPort (s : State) (o : Output) (n : Nat) (f : Port → Port) :
    (s.emit o).modPort n f = (s.modPort n f).emit o := by
  unfold modPort; split <;> rfl

theorem reg_of_regs {s t : State} (h : t.regs = s.regs) : t.reg = s.reg := by
  funext k; simp only [State.reg, h]

theorem route_of_regs {s t : State} (h : t.regs = s.regs) : t.route = s.route := by
  funext d
  unfold State.route State.dimSize State.dimWrap State.chipId
  rw [reg_of_regs h]

theorem datelineHop_of_regs {s t : State} (h : t.regs = s.regs) : t.datelineHop = s.datelineHop := by
  funext p
  unfold State.datelineHop State.dimSize State.dimWrap State.chipId
  rw [reg_of_regs h]

/-- What packet a message makes depends on the registers alone (R24, R28). -/
theorem packetOf_of_regs {s t : State} (h : t.regs = s.regs) : t.packetOf = s.packetOf := by
  funext o
  unfold State.packetOf State.chipId
  rw [reg_of_regs h, route_of_regs h, datelineHop_of_regs h]

/-- A message leaves as its packet's flits where its port can take them (R24, R25). -/
theorem leaves_emitNet (s : State) (o : Output) : Leaves s (s.emitNet o) o := by
  constructor
  · intro h; unfold State.emitNet; rw [h]; exact ⟨rfl, rfl⟩
  · intro k h hp hu hw hr
    have ne : ¬s.portState k.port = 4 := by omega
    have hx : s.portState k.port = 2 ∧ (s.port k.port).replay.length + k.flits ≤ 512 := ⟨hu, hr⟩
    have e : s.emitNet o = (s.modPort k.port fun q => { q with waiting := q.waiting ++ [o] }).transmit k.port [o] := by
      unfold State.emitNet; rw [h]; simp only [if_neg ne, State.drain, port_modPort _ _ _ hp, hw, List.nil_append]
    rw [e]
    simp only [State.transmit]
    rw [packetOf_of_regs (s := s) (by simp), h]
    simp only [modPort_portState, port_modPort _ _ _ hp, hx, and_self, if_true]
    simp only [emit_modPort, emit_port, port_modPort _ _ _ hp, emit_out, modPort_out, List.append_assoc, List.cons_append,
      List.nil_append]
    exact ⟨rfl, trivial, rfl⟩

end Sys2Proof.Laws
end

