-- ==== Sys2Proof/Laws/Ops.lean ====
section
/-!
SUPPORT. For each shared operation, once, what it can do: writing a register, taking a trap, branching, running an action.
-/
namespace Sys2Proof.Laws

open Sys2Proof Sys2Proof.Machine Sys2Proof.Machine.State Sys2Proof.Safety

/-- Memory and caches equal as data read the same. -/
theorem sameMemory_of {s t : State} (m : t.mem = s.mem) (d : t.dcache = s.dcache) : SameMemory s t := by
  refine ⟨fun a => ?_, fun core a _ => ?_⟩
  · simp only [State.byteAt, m]
  · simp only [State.coreByte, State.dline, State.byteAt, m, d]

theorem addFlags_csr (s : State) (f : Nat) :
    (s.addFlags f).hart.csr = { s.hart.csr with vflags := s.hart.csr.vflags ||| nw f } := by
  unfold State.addFlags
  split
  · rename_i h; subst h; simp [nw]
  · rfl

theorem regEffect_of (s : State) (rd : Reg) (v : Word) (fl : Nat) (n : Nat) :
    RegEffect s (((s.addFlags fl).setX rd v).advance n) rd v fl (s.pc + BitVec.ofNat 64 n) where
  regs r := by rw [x_advance, x_setX, x_addFlags]
  pc := by
    rw [advance_pc, setX_pc]
    show (s.addFlags fl).hart.pc + _ = _
    rw [addFlags_hart_pc]; rfl
  csr := by simp [addFlags_csr]
  memory := sameMemory_of (by simp) (by simp)
  rest := by unfold State.setX State.addFlags; split <;> split <;> rfl

/-- The result form of the integer instructions (R308 to R312). -/
theorem gives_of_regOp {s : State} {i : Instr} {rd : Reg} {v : Word} (h : exec i s = regOp rd v s) : Gives s i rd v := by
  refine ⟨_, h, ?_⟩
  simpa [State.addFlags] using regEffect_of s rd v 0 4

/-- The result form of the floating-point instructions (R320). -/
theorem givesFl_of_fpOp {s : State} {i : Instr} {rd : Reg} {r : FRes} (h : exec i s = fpOp rd r s) :
    GivesFl s i rd (nw r.1) r.2 := ⟨_, h, regEffect_of s rd (nw r.1) r.2 4⟩

/-- A jump that writes a link register, or none (R314, R315). -/
theorem jumps_of {s : State} {i : Instr} {rd : Reg} {v t : Word} (h : exec i s = .next ((s.setX rd v).jumpTo t)) :
    Jumps s i rd v t := by
  refine ⟨_, h, ?_, rfl, ?_, sameMemory_of (by simp) (by simp), ?_⟩
  · intro r; rw [x_jumpTo, x_setX]
  · simp [nw]
  · unfold State.setX; split <;> rfl

/-- One bit of a register after a field of it is replaced. -/
theorem getLsbD_setFld (w : Word) (lo len v i : Nat) (hi : i < 64) :
    (setFld w lo len v).getLsbD i = if lo ≤ i ∧ i < lo + len then v.testBit (i - lo) else w.getLsbD i := by
  simp only [setFld, fieldMask, BitVec.getLsbD_or, BitVec.getLsbD_and, BitVec.getLsbD_not, BitVec.getLsbD_ofNat, hi,
    decide_true, Bool.true_and, Nat.testBit_mul_two_pow, Nat.testBit_two_pow_sub_one, Nat.testBit_mod_two_pow]
  by_cases h1 : lo ≤ i
  · by_cases h2 : i < lo + len
    · have : i - lo < len := by omega
      simp [h1, h2, this]
    · have : ¬i - lo < len := by omega
      simp [h1, h2, this]
  · simp [h1]

theorem testBit_fld (w : Word) (lo len j : Nat) : (fld w lo len).testBit j = (decide (j < len) && w.getLsbD (j + lo)) := by
  simp only [fld, Nat.testBit_mod_two_pow, Nat.testBit_div_two_pow, BitVec.testBit_toNat]

/-- The field that was replaced reads as the value, in its width. -/
theorem fld_setFld_same (w : Word) (lo len v : Nat) (h : lo + len ≤ 64) : fld (setFld w lo len v) lo len = v % 2 ^ len := by
  apply Nat.eq_of_testBit_eq
  intro j
  rw [testBit_fld, Nat.testBit_mod_two_pow]
  by_cases hj : j < len
  · rw [getLsbD_setFld _ _ _ _ _ (by omega), if_pos (by omega), Nat.add_sub_cancel]
  · simp [hj]

/-- A field outside the one replaced reads as before. -/
theorem fld_setFld_other (w : Word) (lo len v lo2 len2 : Nat) (h : lo2 + len2 ≤ 64)
    (d : lo2 + len2 ≤ lo ∨ lo + len ≤ lo2) : fld (setFld w lo len v) lo2 len2 = fld w lo2 len2 := by
  apply Nat.eq_of_testBit_eq
  intro j
  rw [testBit_fld, testBit_fld]
  by_cases hj : j < len2
  · rw [getLsbD_setFld _ _ _ _ _ (by omega), if_neg (by omega)]
  · simp [hj]

theorem fld_lt (w : Word) (lo len : Nat) : fld w lo len < 2 ^ len := Nat.mod_lt _ (Nat.two_pow_pos _)

/-- What taking a trap does (R220). -/
theorem trapEffect_of (s : State) (c : Cause) (sub : Nat) (tval tpc : Word) (imp : Bool) (h : sub < 16) :
    TrapEffect s (s.takeTrap c sub tval tpc imp) c sub tval tpc imp where
  tpc := by
    show tpc &&& fieldMask 0 53 = _
    congr 1
  tcause := by
    show BitVec.ofNat 64 (b2n imp * 2 ^ 63 + sub % 16 * 2 ^ 8 + c.code) = _
    rw [Nat.mod_eq_of_lt h]; rfl
  tval := rfl
  pmode := by
    show fld (setFld (setFld (setFld _ 1 1 _) 0 1 1) 2 2 _) 1 1 = _
    rw [fld_setFld_other _ _ _ _ _ _ (by decide) (by decide), fld_setFld_other _ _ _ _ _ _ (by decide) (by decide),
      fld_setFld_same _ _ _ _ (by decide)]
    exact Nat.mod_eq_of_lt (fld_lt _ 0 1)
  mode := by
    show fld (setFld (setFld (setFld _ 1 1 _) 0 1 1) 2 2 _) 0 1 = _
    rw [fld_setFld_other _ _ _ _ _ _ (by decide) (by decide)]
    exact (fld_setFld_same _ _ _ _ (by decide)).trans (by decide)
  depth := by
    show fld (setFld (setFld (setFld _ 1 1 _) 0 1 1) 2 2 _) 2 2 = _
    rw [fld_setFld_same _ _ _ _ (by decide)]
    exact Nat.mod_eq_of_lt (Nat.lt_of_le_of_lt (Nat.min_le_right _ _) (by decide))
  above i hi := by
    show (setFld (setFld (setFld _ 1 1 _) 0 1 1) 2 2 _).getLsbD i = s.hart.csr.tstat.getLsbD i
    by_cases h64 : i < 64
    · rw [getLsbD_setFld _ _ _ _ _ h64, if_neg (by omega), getLsbD_setFld _ _ _ _ _ h64, if_neg (by omega),
        getLsbD_setFld _ _ _ _ _ h64, if_neg (by omega)]
    · rw [BitVec.getLsbD_of_ge _ _ (by omega), BitVec.getLsbD_of_ge _ _ (by omega)]
  pc := rfl
  regs _ := rfl
  memory := sameMemory_of rfl rfl
  rest := rfl

/-- A trap that reports the instruction's own address, and waits while anything older is incomplete (R136). -/
theorem traps_of {s : State} {i : Instr} {c : Cause} {sub : Nat} {tval : Word} (h : sub < 16)
    (e : exec i s = .next (Exit.inOrder s (.trap s c sub tval)).state) : Traps s i c sub tval := by
  constructor
  · intro q
    refine ⟨_, ?_, trapEffect_of s c sub tval s.pc false h⟩
    rw [e]; simp only [Exit.inOrder, show s.hart.pend = [] from q]; rfl
  · intro q
    have : s.hart.pend.isEmpty = false := by simpa [Quiet] using q
    rw [e]; simp only [Exit.inOrder, this]; rfl

/-! ### Actions -/

theorem runAct_ok {n : Nat} {a : Act Unit} {s t : State} (h : a s = .ok ((), t)) : runAct n a s = .next (t.advance n) := by
  simp only [runAct, h]

/-- What an action that ends early leaves; a trap waits while anything older is incomplete (R136). -/
theorem runAct_error {n : Nat} {a : Act Unit} {s : State} {e : Exit} (h : a s = .error e) :
    runAct n a s = .next (e.inOrder s).state := by
  simp only [runAct, h]

/-- An action's two ends: it retires, or it ends early in the state its exit says. -/
theorem runAct_cases (n : Nat) (a : Act Unit) (s : State) :
    (∃ t, a s = .ok ((), t) ∧ runAct n a s = .next (t.advance n))
    ∨ (∃ e, a s = .error e ∧ runAct n a s = .next (e.inOrder s).state) := by
  cases h : a s with
  | ok r => exact .inl ⟨r.2, rfl, by simp only [runAct, h]⟩
  | error e => exact .inr ⟨e, rfl, by simp only [runAct, h]⟩

theorem bind_ok {α β : Type} {a : Act α} {f : α → Act β} {s t : State} {v : α} (h : a s = .ok (v, t)) :
    (a >>= f) s = f v t := by
  show (StateT.bind a f) s = _
  simp only [StateT.bind, h]; rfl

theorem bind_error {α β : Type} {a : Act α} {f : α → Act β} {s : State} {e : Exit} (h : a s = .error e) :
    (a >>= f) s = .error e := by
  show (StateT.bind a f) s = _
  simp only [StateT.bind, h]; rfl

@[simp] theorem pure_apply {α : Type} (v : α) (s : State) : (pure v : Act α) s = .ok (v, s) := rfl
@[simp] theorem get_apply (s : State) : (get : Act State) s = .ok (s, s) := rfl
@[simp] theorem set_apply (s t : State) : (set t : Act Unit) s = .ok ((), t) := rfl
@[simp] theorem modify_apply (f : State → State) (s : State) : (modify f : Act Unit) s = .ok ((), f s) := rfl

theorem held_ok {s : State} (h : Quiet s) : Machine.held s = .ok ((), s) := by
  simp only [Machine.held, show s.hart.pend = [] from h, List.isEmpty_nil, if_true]

theorem copyGate_ok {s : State} {pa n : Nat} (h : unfilled s pa n = []) : copyGate pa n s = .ok ((), s) := by
  simp only [copyGate, h]

theorem check_ok {c : Bool} {k : Cause} {sub : Nat} {v : Word} {s : State} (h : c = true) : check c k sub v s = .ok ((), s) := by
  subst h; rfl

theorem check_error {c : Bool} {k : Cause} {sub : Nat} {v : Word} {s : State} (h : c = false) :
    check c k sub v s = .error (.trap s k sub v) := by
  subst h; rfl

/-! ### Where addresses lead -/

/-- Translation through a cached leaf reads no table (R177, R179, R181). -/
theorem translate_cached {s : State} {t a va : Nat} {sys : Bool} {need : Need} {l : Leaf}
    (h : s.tlbFind t a (va / 2 ^ 17) = some l) :
    s.translate t a sys need va = if va / 2 ^ 53 ≠ 0 ∨ bit (s.reg (rTENPT t)) 63 = false then .error 1 else
      match s.leafCheck sys need l with
      | .ok f => .ok (f + va % 2 ^ 17)
      | .error k => .error k := by
  unfold State.translate
  rw [h]
  by_cases hv : va / 2 ^ 53 = 0
  · by_cases ht : bit (s.reg (rTENPT t)) 63 = true
    · have n : ¬(va / 2 ^ 53 ≠ 0 ∨ bit (s.reg (rTENPT t)) 63 = false) := fun o =>
        o.elim (fun x => x hv) (fun x => by rw [ht] at x; cases x)
      rw [if_neg n, if_neg n]
      cases hk : s.leafCheck sys need l <;> simp only [bind, Except.bind, pure, Except.pure, hk]
    · have y : va / 2 ^ 53 ≠ 0 ∨ bit (s.reg (rTENPT t)) 63 = false := .inr (by cases h : bit (s.reg (rTENPT t)) 63 with | false => rfl | true => exact absurd h ht)
      rw [if_pos y, if_pos y]; rfl
  · have y : va / 2 ^ 53 ≠ 0 ∨ bit (s.reg (rTENPT t)) 63 = false := .inl hv
    rw [if_pos y, if_pos y]; rfl

/-- An address of the shared-store window, or of a page whose translation is cached, leads where it led whatever memory
and the vector registers hold (R163, R167, R181). -/
theorem reach_asAddressed {s u : State} {need : Need} {va n : Nat} (h : AsAddressed s u)
    (w : inWindow va = true ∨ (s.tlbFind s.crew.tenant s.crew.asid (va / 2 ^ 17)).isSome = true) :
    u.reach need va n = s.reach need va n := by
  obtain ⟨u', rfl⟩ := h
  unfold State.reach
  by_cases hw : inWindow va = true
  · simp only [hw, if_true]
  · obtain ⟨l, hl⟩ := Option.isSome_iff_exists.mp (w.resolve_left hw)
    simp only [hw]
    rw [translate_cached hl, translate_cached (l := l) (by exact hl)]
    rfl

/-- The pieces of an access all of which reach places (R162, R163). -/
theorem reachPieces_ok {s : State} {a : Acc} {need : Need} {va : Word} (f : Nat → Nat → Nat) :
    ∀ ps : List (Nat × Nat × Nat), (∀ p ∈ ps, s.reach need p.1 p.2.2 = .ok (f p.1 p.2.2)) →
      reachPieces a need va s ps = .ok (ps.map fun p => (p.2.1, p.2.2, s.place (f p.1 p.2.2)))
  | [], _ => rfl
  | (v, off, k) :: ps, h => by
    simp only [reachPieces, h (v, off, k) (List.mem_cons_self ..)]
    rw [reachPieces_ok f ps fun p hp => h p (List.mem_cons_of_mem _ hp)]
    rfl

/-- An access all of whose pieces reach places that admit it (R162, R163). -/
theorem reachAll_ok {s : State} {a : Acc} {need : Need} {va : Word} {n : Nat} (f : Nat → Nat → Nat)
    (h : ∀ p ∈ pieces va.toNat n,
      s.reach need p.1 p.2.2 = .ok (f p.1 p.2.2) ∧ s.admits a va.toNat n (s.place (f p.1 p.2.2)) = true) :
    reachAll a need va n s = .ok ((pieces va.toNat n).map fun p => (p.2.1, p.2.2, s.place (f p.1 p.2.2)), s) := by
  simp only [reachAll, reachPieces_ok f _ fun p hp => (h p hp).1]
  rw [if_pos]
  simp only [List.all_map, List.all_eq_true]
  exact fun p hp => (h p hp).2

/-- What an access changes nothing of, and where it leads: the state is the one it was given. -/
theorem reachAll_state {s t : State} {a : Acc} {need : Need} {va : Word} {n : Nat} {ps : List (Nat × Nat × Place)}
    (h : reachAll a need va n s = .ok (ps, t)) : t = s := by
  simp only [reachAll] at h
  split at h
  · cases h
  · split at h
    · injection h with h; injection h with _ h; exact h.symm
    · cases h

/-- Pieces that lie in the shared-store window or in pages whose translations are cached. -/
def Steady (s : State) (ps : List (Nat × Nat × Nat)) : Prop :=
  ∀ p ∈ ps, inWindow p.1 = true ∨ (s.tlbFind s.crew.tenant s.crew.asid (p.1 / 2 ^ 17)).isSome = true

/-- An address that cannot be reached ends the access. -/
theorem addrFault_error {read : Bool} {va : Word} (f : AFault) (s : State) :
    ∃ q, addrFault (α := Unit) read va f s = .error q := by
  cases f with
  | kind k => cases k <;> exact ⟨_, rfl⟩
  | refused => exact ⟨_, rfl⟩
  | outside => exact ⟨_, rfl⟩

theorem reachPieces_asAddressed {s u : State} {a : Acc} {need : Need} {va : Word} (h : AsAddressed s u) :
    ∀ (ps : List (Nat × Nat × Nat)) (r : List (Nat × Nat × Place)), Steady s ps →
      reachPieces a need va s ps = .ok r → reachPieces a need va u ps = .ok r
  | [], _, _, e => e
  | (v, off, k) :: ps, r, w, e => by
    have hr := reach_asAddressed (need := need) (n := k) h (w (v, off, k) (List.mem_cons_self ..))
    have hw : Steady s ps := fun p hp => w p (List.mem_cons_of_mem _ hp)
    have hp : ∀ pa, u.place pa = s.place pa := by intro pa; obtain ⟨u', rfl⟩ := h; rfl
    simp only [reachPieces, hr] at e ⊢
    split at e
    · rename_i f _
      obtain ⟨q, hq⟩ := addrFault_error (read := a.isRead)
        (va := if (a == .scalarLd || a == .scalarSt) = true then BitVec.ofNat 64 v else va) f s
      rw [hq] at e; cases e
    · rename_i pa _
      rw [hp]
      split at e
      · rename_i r' hr'
        rw [reachPieces_asAddressed h ps r' hw hr']
        exact e
      · cases e

/-- An access whose pieces are cached or in the window, and which now reaches clean and filled local memory, lands there
whatever memory and the vector registers come to hold. -/
theorem lands_of {s : State} {a : Acc} {need : Need} {va : Word} {n : Nat} {ps : List (Nat × Nat × Place)}
    (w : Steady s (pieces va.toNat n)) (h : reachAll a need va n s = .ok (ps, s))
    (m : ∀ p ∈ ps, ∃ pa, p.2.2 = .mem pa ∧ unfilled s pa p.2.1 = [] ∧ s.poisonedAny pa p.2.1 = false) :
    Lands s a need va n ps := by
  refine ⟨fun u hu => ?_, m⟩
  have ha : ∀ q, u.admits a va.toNat n q = s.admits a va.toNat n q := by
    intro q; obtain ⟨u', rfl⟩ := hu; rfl
  simp only [reachAll] at h ⊢
  split at h
  · cases h
  · rename_i r hr
    rw [reachPieces_asAddressed hu _ r w hr]
    simp only [ha]
    split at h
    · rename_i hadm
      rw [if_pos hadm]
      injection h with h; injection h with h _; rw [h]
    · cases h

end Sys2Proof.Laws
end

