-- ==== Sys2Proof/Laws/PerInstr.lean ====
section
/-!
SUPPORT. One lemma per constructor of `Instr`: the encoding of an instruction has exactly the parcels that its first parcel
announces (12_encoding R281, R287), so that fetching by the first parcel reads the whole instruction and no more.
-/
namespace Sys2Proof.Laws.Sized

/-- A well-formed instruction has as many parcels as the kind of its first parcel says. -/
def Statement (i : Instr) : Prop :=
  i.wf = true → ∃ p r, encode i = p :: r ∧ (encode i).length = parcelCount p

theorem even_kind : ∀ o : BitVec 7, o.toNat % 2 = 0 → o.extractLsb' 0 2 = 0 ∨ o.extractLsb' 0 2 = 2 := by decide

theorem of_fields32 {i : Instr} {x : F32} (h : i.fields32 = some x)
    (e : x.op.toNat % 2 = 0) : Statement i := by
  intro _
  replace e := even_kind _ e
  refine ⟨x.pack, [], encode_of_fields32 h, ?_⟩
  rw [encode_of_fields32 h]
  rcases e with e | e <;> simp [parcelCount, F32.pack_low, e]

theorem of_fields64 {i : Instr} {x : F64} (h : i.fields32 = none) (k : i.fields64 = some x) (e : x.kind = 3) :
    Statement i := by
  intro _
  refine ⟨_, _, encode_of_fields64 h k, ?_⟩
  rw [encode_of_fields64 h k]
  simp only [List.length_cons, List.length_nil, parcelCount]
  rw [if_pos (by rw [F64.pack_low, e])]

theorem of_event {i : Instr} (h : i.wf = false) : Statement i := fun w => absurd (h ▸ w) (by decide)

theorem flatMap_length (ms : List (BitVec 64)) :
    (ms.flatMap fun w => [w.extractLsb' 0 32, w.extractLsb' 32 32]).length = 2 * ms.length := by
  induction ms with
  | nil => rfl
  | cons w ms ih => simp only [List.flatMap_cons, List.length_append, List.length_cons, List.length_nil, ih]; omega

theorem convoy (header : Parcel) (members : List (BitVec 64)) : Statement (.convoy header members) := by
  intro w
  refine ⟨header, _, rfl, ?_⟩
  simp only [Instr.wf, convoyWf, Bool.and_eq_true, decide_eq_true_eq] at w
  obtain ⟨k, n⟩ := w
  have e : encode (.convoy header members)
      = header :: members.flatMap (fun w => [w.extractLsb' 0 32, w.extractLsb' 32 32]) := rfl
  rw [e, List.length_cons, flatMap_length, n]
  have q : (header.extractLsb' 2 3).toNat = convoyCount header := rfl
  rw [q]
  unfold parcelCount
  have k3 : ¬header.extractLsb' 0 2 = 3 := by rw [k]; decide
  rw [if_neg k3, if_pos k]
  by_cases h : 2 ≤ convoyCount header ∧ convoyCount header ≤ 6
  · rw [if_pos h, if_pos h]; exact Nat.add_comm _ _
  · rw [if_neg h, if_neg h]
theorem add (rd rs1 rs2 : Reg) : Statement (.add rd rs1 rs2) := of_fields32 rfl (by simp [F32.reg])
theorem sub (rd rs1 rs2 : Reg) : Statement (.sub rd rs1 rs2) := of_fields32 rfl (by simp [F32.reg])
theorem and (rd rs1 rs2 : Reg) : Statement (.and rd rs1 rs2) := of_fields32 rfl (by simp [F32.reg])
theorem or (rd rs1 rs2 : Reg) : Statement (.or rd rs1 rs2) := of_fields32 rfl (by simp [F32.reg])
theorem xor (rd rs1 rs2 : Reg) : Statement (.xor rd rs1 rs2) := of_fields32 rfl (by simp [F32.reg])
theorem sll (rd rs1 rs2 : Reg) : Statement (.sll rd rs1 rs2) := of_fields32 rfl (by simp [F32.reg])
theorem srl (rd rs1 rs2 : Reg) : Statement (.srl rd rs1 rs2) := of_fields32 rfl (by simp [F32.reg])
theorem sra (rd rs1 rs2 : Reg) : Statement (.sra rd rs1 rs2) := of_fields32 rfl (by simp [F32.reg])
theorem slt (rd rs1 rs2 : Reg) : Statement (.slt rd rs1 rs2) := of_fields32 rfl (by simp [F32.reg])
theorem sltu (rd rs1 rs2 : Reg) : Statement (.sltu rd rs1 rs2) := of_fields32 rfl (by simp [F32.reg])
theorem min (rd rs1 rs2 : Reg) : Statement (.min rd rs1 rs2) := of_fields32 rfl (by simp [F32.reg])
theorem max (rd rs1 rs2 : Reg) : Statement (.max rd rs1 rs2) := of_fields32 rfl (by simp [F32.reg])
theorem minu (rd rs1 rs2 : Reg) : Statement (.minu rd rs1 rs2) := of_fields32 rfl (by simp [F32.reg])
theorem maxu (rd rs1 rs2 : Reg) : Statement (.maxu rd rs1 rs2) := of_fields32 rfl (by simp [F32.reg])
theorem mul (rd rs1 rs2 : Reg) : Statement (.mul rd rs1 rs2) := of_fields32 rfl (by simp [F32.reg])
theorem mulh (rd rs1 rs2 : Reg) : Statement (.mulh rd rs1 rs2) := of_fields32 rfl (by simp [F32.reg])
theorem mulhu (rd rs1 rs2 : Reg) : Statement (.mulhu rd rs1 rs2) := of_fields32 rfl (by simp [F32.reg])
theorem div (rd rs1 rs2 : Reg) : Statement (.div rd rs1 rs2) := of_fields32 rfl (by simp [F32.reg])
theorem divu (rd rs1 rs2 : Reg) : Statement (.divu rd rs1 rs2) := of_fields32 rfl (by simp [F32.reg])
theorem rem (rd rs1 rs2 : Reg) : Statement (.rem rd rs1 rs2) := of_fields32 rfl (by simp [F32.reg])
theorem remu (rd rs1 rs2 : Reg) : Statement (.remu rd rs1 rs2) := of_fields32 rfl (by simp [F32.reg])
theorem addw (rd rs1 rs2 : Reg) : Statement (.addw rd rs1 rs2) := of_fields32 rfl (by simp [F32.reg])
theorem subw (rd rs1 rs2 : Reg) : Statement (.subw rd rs1 rs2) := of_fields32 rfl (by simp [F32.reg])
theorem sllw (rd rs1 rs2 : Reg) : Statement (.sllw rd rs1 rs2) := of_fields32 rfl (by simp [F32.reg])
theorem srlw (rd rs1 rs2 : Reg) : Statement (.srlw rd rs1 rs2) := of_fields32 rfl (by simp [F32.reg])
theorem sraw (rd rs1 rs2 : Reg) : Statement (.sraw rd rs1 rs2) := of_fields32 rfl (by simp [F32.reg])
theorem mulw (rd rs1 rs2 : Reg) : Statement (.mulw rd rs1 rs2) := of_fields32 rfl (by simp [F32.reg])
theorem addi (rd rs1 : Reg) (imm : BitVec 12) : Statement (.addi rd rs1 imm) := of_fields32 rfl (by simp [F32.immF])
theorem andi (rd rs1 : Reg) (imm : BitVec 12) : Statement (.andi rd rs1 imm) := of_fields32 rfl (by simp [F32.immF])
theorem ori (rd rs1 : Reg) (imm : BitVec 12) : Statement (.ori rd rs1 imm) := of_fields32 rfl (by simp [F32.immF])
theorem xori (rd rs1 : Reg) (imm : BitVec 12) : Statement (.xori rd rs1 imm) := of_fields32 rfl (by simp [F32.immF])
theorem slti (rd rs1 : Reg) (imm : BitVec 12) : Statement (.slti rd rs1 imm) := of_fields32 rfl (by simp [F32.immF])
theorem sltiu (rd rs1 : Reg) (imm : BitVec 12) : Statement (.sltiu rd rs1 imm) := of_fields32 rfl (by simp [F32.immF])
theorem slli (rd rs1 : Reg) (sh : BitVec 6) : Statement (.slli rd rs1 sh) := of_fields32 rfl (by simp [F32.immF])
theorem srli (rd rs1 : Reg) (sh : BitVec 6) : Statement (.srli rd rs1 sh) := of_fields32 rfl (by simp [F32.immF])
theorem srai (rd rs1 : Reg) (sh : BitVec 6) : Statement (.srai rd rs1 sh) := of_fields32 rfl (by simp [F32.immF])
theorem ldd (rd rs1 : Reg) (imm : BitVec 12) : Statement (.ldd rd rs1 imm) := of_fields32 rfl (by simp [F32.immF])
theorem ldw (rd rs1 : Reg) (imm : BitVec 12) : Statement (.ldw rd rs1 imm) := of_fields32 rfl (by simp [F32.immF])
theorem ldwz (rd rs1 : Reg) (imm : BitVec 12) : Statement (.ldwz rd rs1 imm) := of_fields32 rfl (by simp [F32.immF])
theorem ldh (rd rs1 : Reg) (imm : BitVec 12) : Statement (.ldh rd rs1 imm) := of_fields32 rfl (by simp [F32.immF])
theorem ldhz (rd rs1 : Reg) (imm : BitVec 12) : Statement (.ldhz rd rs1 imm) := of_fields32 rfl (by simp [F32.immF])
theorem ldb (rd rs1 : Reg) (imm : BitVec 12) : Statement (.ldb rd rs1 imm) := of_fields32 rfl (by simp [F32.immF])
theorem ldbz (rd rs1 : Reg) (imm : BitVec 12) : Statement (.ldbz rd rs1 imm) := of_fields32 rfl (by simp [F32.immF])
theorem std (rs2 rs1 : Reg) (imm : BitVec 12) : Statement (.std rs2 rs1 imm) := of_fields32 rfl (by simp [F32.immF])
theorem stw (rs2 rs1 : Reg) (imm : BitVec 12) : Statement (.stw rs2 rs1 imm) := of_fields32 rfl (by simp [F32.immF])
theorem sth (rs2 rs1 : Reg) (imm : BitVec 12) : Statement (.sth rs2 rs1 imm) := of_fields32 rfl (by simp [F32.immF])
theorem stb (rs2 rs1 : Reg) (imm : BitVec 12) : Statement (.stb rs2 rs1 imm) := of_fields32 rfl (by simp [F32.immF])
theorem beq (rs1 rs2 : Reg) (imm : BitVec 12) : Statement (.beq rs1 rs2 imm) := of_fields32 rfl (by simp [F32.immF])
theorem bne (rs1 rs2 : Reg) (imm : BitVec 12) : Statement (.bne rs1 rs2 imm) := of_fields32 rfl (by simp [F32.immF])
theorem blt (rs1 rs2 : Reg) (imm : BitVec 12) : Statement (.blt rs1 rs2 imm) := of_fields32 rfl (by simp [F32.immF])
theorem bge (rs1 rs2 : Reg) (imm : BitVec 12) : Statement (.bge rs1 rs2 imm) := of_fields32 rfl (by simp [F32.immF])
theorem bltu (rs1 rs2 : Reg) (imm : BitVec 12) : Statement (.bltu rs1 rs2 imm) := of_fields32 rfl (by simp [F32.immF])
theorem bgeu (rs1 rs2 : Reg) (imm : BitVec 12) : Statement (.bgeu rs1 rs2 imm) := of_fields32 rfl (by simp [F32.immF])
theorem jl (rd : Reg) (imm : BitVec 20) : Statement (.jl rd imm) := of_fields32 rfl (by simp [F32.jump])
theorem jlr (rd rs1 : Reg) (imm : BitVec 12) : Statement (.jlr rd rs1 imm) := of_fields32 rfl (by simp [F32.immF])
theorem lih (rd : Reg) (imm : BitVec 20) : Statement (.lih rd imm) := of_fields32 rfl (by simp [F32.jump])
theorem addpc (rd : Reg) (imm : BitVec 20) : Statement (.addpc rd imm) := of_fields32 rfl (by simp [F32.jump])
theorem fadd (d : Bool) (rd rs1 rs2 : Reg) : Statement (.fadd d rd rs1 rs2) := of_fields32 rfl (by simp [F32.reg])
theorem fsub (d : Bool) (rd rs1 rs2 : Reg) : Statement (.fsub d rd rs1 rs2) := of_fields32 rfl (by simp [F32.reg])
theorem fmul (d : Bool) (rd rs1 rs2 : Reg) : Statement (.fmul d rd rs1 rs2) := of_fields32 rfl (by simp [F32.reg])
theorem fdiv (d : Bool) (rd rs1 rs2 : Reg) : Statement (.fdiv d rd rs1 rs2) := of_fields32 rfl (by simp [F32.reg])
theorem fsqrt (d : Bool) (rd rs1 : Reg) : Statement (.fsqrt d rd rs1) := of_fields32 rfl (by simp [F32.reg])
theorem fmin (d : Bool) (rd rs1 rs2 : Reg) : Statement (.fmin d rd rs1 rs2) := of_fields32 rfl (by simp [F32.reg])
theorem fmax (d : Bool) (rd rs1 rs2 : Reg) : Statement (.fmax d rd rs1 rs2) := of_fields32 rfl (by simp [F32.reg])
theorem fcmp (d : Bool) (cond : BitVec 4) (rd rs1 rs2 : Reg) : Statement (.fcmp d cond rd rs1 rs2) := of_fields32 rfl (by simp [F32.reg])
theorem fclass (d : Bool) (rd rs1 : Reg) : Statement (.fclass d rd rs1) := of_fields32 rfl (by simp [F32.reg])
theorem fcvt (d : Bool) (kind : BitVec 4) (rd rs1 : Reg) : Statement (.fcvt d kind rd rs1) := of_fields32 rfl (by simp [F32.reg])
theorem fma (d : Bool) (rd rs1 rs2 rs3 : Reg) : Statement (.fma d rd rs1 rs2 rs3) := of_fields32 rfl (by simp [F32.reg])
theorem amoadd (d : Bool) (ord : BitVec 2) (rd rs1 rs2 : Reg) : Statement (.amoadd d ord rd rs1 rs2) := of_fields32 rfl (by simp [F32.reg])
theorem amoand (d : Bool) (ord : BitVec 2) (rd rs1 rs2 : Reg) : Statement (.amoand d ord rd rs1 rs2) := of_fields32 rfl (by simp [F32.reg])
theorem amoor (d : Bool) (ord : BitVec 2) (rd rs1 rs2 : Reg) : Statement (.amoor d ord rd rs1 rs2) := of_fields32 rfl (by simp [F32.reg])
theorem amoxor (d : Bool) (ord : BitVec 2) (rd rs1 rs2 : Reg) : Statement (.amoxor d ord rd rs1 rs2) := of_fields32 rfl (by simp [F32.reg])
theorem amomin (d : Bool) (ord : BitVec 2) (rd rs1 rs2 : Reg) : Statement (.amomin d ord rd rs1 rs2) := of_fields32 rfl (by simp [F32.reg])
theorem amomax (d : Bool) (ord : BitVec 2) (rd rs1 rs2 : Reg) : Statement (.amomax d ord rd rs1 rs2) := of_fields32 rfl (by simp [F32.reg])
theorem amoswap (d : Bool) (ord : BitVec 2) (rd rs1 rs2 : Reg) : Statement (.amoswap d ord rd rs1 rs2) := of_fields32 rfl (by simp [F32.reg])
theorem amocas (d : Bool) (ord : BitVec 2) (rd rs1 rs2 : Reg) : Statement (.amocas d ord rd rs1 rs2) := of_fields32 rfl (by simp [F32.reg])
theorem amofadd (d : Bool) (ord : BitVec 2) (rd rs1 rs2 : Reg) : Statement (.amofadd d ord rd rs1 rs2) := of_fields32 rfl (by simp [F32.reg])
theorem csrr (rd : Reg) (csr : BitVec 12) : Statement (.csrr rd csr) := of_fields32 rfl (by simp [F32.immF])
theorem csrw (csr : BitVec 12) (rs1 : Reg) : Statement (.csrw csr rs1) := of_fields32 rfl (by simp [F32.immF])
theorem csrs (csr : BitVec 12) (rs1 : Reg) : Statement (.csrs csr rs1) := of_fields32 rfl (by simp [F32.immF])
theorem csrc (csr : BitVec 12) (rs1 : Reg) : Statement (.csrc csr rs1) := of_fields32 rfl (by simp [F32.immF])
theorem svc (n : BitVec 12) : Statement (.svc n) := of_fields32 rfl (by simp [F32.immF])
theorem bkpt : Statement (.bkpt) := of_fields32 rfl (by simp [F32.immF])
theorem tret : Statement (.tret) := of_fields32 rfl (by simp [F32.immF])
theorem halt : Statement (.halt) := of_fields32 rfl (by simp [F32.immF])
theorem pulse : Statement (.pulse) := of_fields32 rfl (by simp [F32.immF])
theorem phase (n : BitVec 8) : Statement (.phase n) := of_fields32 rfl (by simp [F32.immF])
theorem tinv (op : BitVec 2) (rs1 : Reg) : Statement (.tinv op rs1) := of_fields32 rfl (by simp [F32.immF])
theorem fence (kind : BitVec 2) (scope : BitVec 2) : Statement (.fence kind scope) := of_fields32 rfl (by simp [F32.immF])
theorem lsync (scope : BitVec 2) : Statement (.lsync scope) := of_fields32 rfl (by simp [F32.immF])
theorem ifence : Statement (.ifence) := of_fields32 rfl (by simp [F32.immF])
theorem cwb (rs1 : Reg) (imm : BitVec 12) : Statement (.cwb rs1 imm) := of_fields32 rfl (by simp [F32.immF])
theorem cinv (rs1 : Reg) (imm : BitVec 12) : Statement (.cinv rs1 imm) := of_fields32 rfl (by simp [F32.immF])
theorem iinv (rs1 : Reg) (imm : BitVec 12) : Statement (.iinv rs1 imm) := of_fields32 rfl (by simp [F32.immF])
theorem qsend (rel : Bool) (q : Reg) (rs2 : Reg) : Statement (.qsend rel q rs2) := of_fields32 rfl (by simp [F32.reg])
theorem qrecv (acq : Bool) (rd : Reg) (q : Reg) : Statement (.qrecv acq rd q) := of_fields32 rfl (by simp [F32.reg])
theorem qpeek (rd : Reg) (q : Reg) : Statement (.qpeek rd q) := of_fields32 rfl (by simp [F32.reg])
theorem qpoll (rd : Reg) (q : Reg) : Statement (.qpoll rd q) := of_fields32 rfl (by simp [F32.reg])
theorem bar (launch : Bool) (id : BitVec 4) : Statement (.bar launch id) := of_fields32 rfl (by simp [F32.immF])
theorem ctrwait (rd rs1 : Reg) (ctr : BitVec 10) : Statement (.ctrwait rd rs1 ctr) := of_fields32 rfl (by simp [F32.immF])
theorem ctradd (rel : Bool) (rd rs1 : Reg) (ctr : BitVec 10) : Statement (.ctradd rel rd rs1 ctr) := of_fields32 rfl (by simp [F32.immF])
theorem launch (rd rs1 : Reg) (q : BitVec 4) : Statement (.launch rd rs1 q) := of_fields32 rfl (by simp [F32.immF])
theorem clz (rd rs1 : Reg) : Statement (.clz rd rs1) := of_fields32 rfl (by simp [F32.immF])
theorem ctz (rd rs1 : Reg) : Statement (.ctz rd rs1) := of_fields32 rfl (by simp [F32.immF])
theorem popc (rd rs1 : Reg) : Statement (.popc rd rs1) := of_fields32 rfl (by simp [F32.immF])
theorem bswap (rd rs1 : Reg) : Statement (.bswap rd rs1) := of_fields32 rfl (by simp [F32.immF])
theorem bfx (rd rs1 : Reg) (pos width1 : BitVec 6) : Statement (.bfx rd rs1 pos width1) := of_fields32 rfl (by simp [F32.immF])
theorem bfi (rd rs1 : Reg) (pos width1 : BitVec 6) : Statement (.bfi rd rs1 pos width1) := of_fields32 rfl (by simp [F32.immF])
theorem vsetl (rd rs1 : Reg) (vt : BitVec 10) (ds : Option (BitVec 3)) : Statement (.vsetl rd rs1 vt ds) := of_fields64 rfl rfl (by simp)
theorem vdecl (rd : Reg) (nreg sew : BitVec 2) : Statement (.vdecl rd nreg sew) := of_fields64 rfl rfl (by simp)
theorem dscfg (port : BitVec 3) (xbase xcounts xstrides : Reg) (width : BitVec 2) (out : Bool) : Statement (.dscfg port xbase xcounts xstrides width out) := of_fields64 rfl rfl (by simp)
theorem dsclr (port : BitVec 3) : Statement (.dsclr port) := of_fields64 rfl rfl (by simp)
theorem vld (vd xb : Reg) (e : BitVec 16) (lu ff : Bool) (m : VMask) : Statement (.vld vd xb e lu ff m) := of_fields64 rfl rfl (by simp)
theorem vlds (vd xb xs : Reg) (e : BitVec 16) (lu ff : Bool) (m : VMask) : Statement (.vlds vd xb xs e lu ff m) := of_fields64 rfl rfl (by simp)
theorem vldx (vd xb vi : Reg) (iw : BitVec 2) (lu ff : Bool) (m : VMask) : Statement (.vldx vd xb vi iw lu ff m) := of_fields64 rfl rfl (by simp)
theorem vldt (vd xb : Reg) (e : BitVec 16) (lu t : Bool) (m : VMask) : Statement (.vldt vd xb e lu t m) := of_fields64 rfl rfl (by simp)
theorem vst (vs : Reg) (dst : StDst) (m : VMask) : Statement (.vst vs dst m) := by
  cases dst <;> exact of_fields64 rfl rfl (by simp)
theorem vsts (vs xb xs : Reg) (e : BitVec 16) (m : VMask) : Statement (.vsts vs xb xs e m) := of_fields64 rfl rfl (by simp)
theorem vstx (vs xb vi : Reg) (iw : BitVec 2) (m : VMask) : Statement (.vstx vs xb vi iw m) := of_fields64 rfl rfl (by simp)
theorem vstt (vs xb : Reg) (e : BitVec 16) (m : VMask) : Statement (.vstt vs xb e m) := of_fields64 rfl rfl (by simp)
theorem vadd (vd vs2 : Reg) (s1 : Src1) (m : VMask) : Statement (.vadd vd vs2 s1 m) := of_fields64 rfl rfl (by simp)
theorem vsub (vd vs2 : Reg) (s1 : Src1) (m : VMask) : Statement (.vsub vd vs2 s1 m) := of_fields64 rfl rfl (by simp)
theorem vrsub (vd vs2 : Reg) (s1 : Src1) (m : VMask) : Statement (.vrsub vd vs2 s1 m) := of_fields64 rfl rfl (by simp)
theorem vmul (vd vs2 : Reg) (s1 : Src1) (m : VMask) : Statement (.vmul vd vs2 s1 m) := of_fields64 rfl rfl (by simp)
theorem vmulh (u : Bool) (vd vs2 : Reg) (s1 : Src1) (m : VMask) : Statement (.vmulh u vd vs2 s1 m) := of_fields64 rfl rfl (by simp)
theorem vdiv (u : Bool) (vd vs2 : Reg) (s1 : Src1) (m : VMask) : Statement (.vdiv u vd vs2 s1 m) := of_fields64 rfl rfl (by simp)
theorem vrem (u : Bool) (vd vs2 : Reg) (s1 : Src1) (m : VMask) : Statement (.vrem u vd vs2 s1 m) := of_fields64 rfl rfl (by simp)
theorem vmin (u : Bool) (vd vs2 : Reg) (s1 : Src1) (m : VMask) : Statement (.vmin u vd vs2 s1 m) := of_fields64 rfl rfl (by simp)
theorem vmax (u : Bool) (vd vs2 : Reg) (s1 : Src1) (m : VMask) : Statement (.vmax u vd vs2 s1 m) := of_fields64 rfl rfl (by simp)
theorem vand (vd vs2 : Reg) (s1 : Src1) (m : VMask) : Statement (.vand vd vs2 s1 m) := of_fields64 rfl rfl (by simp)
theorem vor (vd vs2 : Reg) (s1 : Src1) (m : VMask) : Statement (.vor vd vs2 s1 m) := of_fields64 rfl rfl (by simp)
theorem vxor (vd vs2 : Reg) (s1 : Src1) (m : VMask) : Statement (.vxor vd vs2 s1 m) := of_fields64 rfl rfl (by simp)
theorem vsll (vd vs2 : Reg) (s1 : Src1) (m : VMask) : Statement (.vsll vd vs2 s1 m) := of_fields64 rfl rfl (by simp)
theorem vsrl (vd vs2 : Reg) (s1 : Src1) (m : VMask) : Statement (.vsrl vd vs2 s1 m) := of_fields64 rfl rfl (by simp)
theorem vsra (vd vs2 : Reg) (s1 : Src1) (m : VMask) : Statement (.vsra vd vs2 s1 m) := of_fields64 rfl rfl (by simp)
theorem vsadd (u : Bool) (vd vs2 : Reg) (s1 : Src1) (m : VMask) : Statement (.vsadd u vd vs2 s1 m) := of_fields64 rfl rfl (by simp)
theorem vssub (u : Bool) (vd vs2 : Reg) (s1 : Src1) (m : VMask) : Statement (.vssub u vd vs2 s1 m) := of_fields64 rfl rfl (by simp)
theorem vnclip (u : Bool) (vd vs2 : Reg) (s1 : Src1) (m : VMask) : Statement (.vnclip u vd vs2 s1 m) := of_fields64 rfl rfl (by simp)
theorem vwmul (u : Bool) (vd vs2 : Reg) (s1 : Src1) (m : VMask) : Statement (.vwmul u vd vs2 s1 m) := of_fields64 rfl rfl (by simp)
theorem vcmp (u : Bool) (cond : BitVec 3) (md vs2 : Reg) (s1 : Src1) (m : VMask) : Statement (.vcmp u cond md vs2 s1 m) := of_fields64 rfl rfl (by simp)
theorem vmerge (vd vs2 : Reg) (s1 : Src1) (mk : BitVec 3) : Statement (.vmerge vd vs2 s1 mk) := of_fields64 rfl rfl (by simp)
theorem vmv (vd : Reg) (s1 : Src1) (m : VMask) : Statement (.vmv vd s1 m) := of_fields64 rfl rfl (by simp)
theorem vbcast (vd vs2 : Reg) (s1 : XOrImm) (m : VMask) : Statement (.vbcast vd vs2 s1 m) := of_fields64 rfl rfl (by simp)
theorem vfadd (vd vs2 : Reg) (s1 : Src1) (m : VMask) : Statement (.vfadd vd vs2 s1 m) := of_fields64 rfl rfl (by simp)
theorem vfsub (vd vs2 : Reg) (s1 : Src1) (m : VMask) : Statement (.vfsub vd vs2 s1 m) := of_fields64 rfl rfl (by simp)
theorem vfmul (vd vs2 : Reg) (s1 : Src1) (m : VMask) : Statement (.vfmul vd vs2 s1 m) := of_fields64 rfl rfl (by simp)
theorem vfdiv (vd vs2 : Reg) (s1 : Src1) (m : VMask) : Statement (.vfdiv vd vs2 s1 m) := of_fields64 rfl rfl (by simp)
theorem vfsqrt (vd vs2 : Reg) (m : VMask) : Statement (.vfsqrt vd vs2 m) := of_fields64 rfl rfl (by simp)
theorem vfmin (vd vs2 : Reg) (s1 : Src1) (m : VMask) : Statement (.vfmin vd vs2 s1 m) := of_fields64 rfl rfl (by simp)
theorem vfmax (vd vs2 : Reg) (s1 : Src1) (m : VMask) : Statement (.vfmax vd vs2 s1 m) := of_fields64 rfl rfl (by simp)
theorem vfsgn (inj : BitVec 2) (vd vs2 : Reg) (s1 : Src1) (m : VMask) : Statement (.vfsgn inj vd vs2 s1 m) := of_fields64 rfl rfl (by simp)
theorem vfclass (vd vs2 : Reg) (m : VMask) : Statement (.vfclass vd vs2 m) := of_fields64 rfl rfl (by simp)
theorem vfcmp (cond : BitVec 3) (md vs2 : Reg) (s1 : Src1) (m : VMask) : Statement (.vfcmp cond md vs2 s1 m) := of_fields64 rfl rfl (by simp)
theorem vfma (neg : BitVec 2) (vd vs2 : Reg) (s1 : Src1) (vs3 : Reg) (m : VMask) : Statement (.vfma neg vd vs2 s1 vs3 m) := of_fields64 rfl rfl (by simp)
theorem vfrec (vd vs2 : Reg) (m : VMask) : Statement (.vfrec vd vs2 m) := of_fields64 rfl rfl (by simp)
theorem vfrsq (vd vs2 : Reg) (m : VMask) : Statement (.vfrsq vd vs2 m) := of_fields64 rfl rfl (by simp)
theorem vfrecref (vd vs2 : Reg) (s1 : Src1) (m : VMask) : Statement (.vfrecref vd vs2 s1 m) := of_fields64 rfl rfl (by simp)
theorem vfrsqref (vd vs2 : Reg) (s1 : Src1) (m : VMask) : Statement (.vfrsqref vd vs2 s1 m) := of_fields64 rfl rfl (by simp)
theorem vfexp2 (vd vs2 : Reg) (m : VMask) : Statement (.vfexp2 vd vs2 m) := of_fields64 rfl rfl (by simp)
theorem vflog2 (vd vs2 : Reg) (m : VMask) : Statement (.vflog2 vd vs2 m) := of_fields64 rfl rfl (by simp)
theorem vfcvt (vd vs2 : Reg) (src : BitVec 4) (m : VMask) : Statement (.vfcvt vd vs2 src m) := of_fields64 rfl rfl (by simp)
theorem vfcvti (u : Bool) (vd vs2 : Reg) (src : BitVec 4) (m : VMask) : Statement (.vfcvti u vd vs2 src m) := of_fields64 rfl rfl (by simp)
theorem vicvtf (vd vs2 : Reg) (src : BitVec 4) (m : VMask) : Statement (.vicvtf vd vs2 src m) := of_fields64 rfl rfl (by simp)
theorem viext (vd vs2 : Reg) (src : BitVec 4) (m : VMask) : Statement (.viext vd vs2 src m) := of_fields64 rfl rfl (by simp)
theorem vredsum (f : Bool) (vd vs2 : Reg) (s1 : VOrX) (m : VMask) : Statement (.vredsum f vd vs2 s1 m) := of_fields64 rfl rfl (by simp)
theorem vredosum (vd vs2 : Reg) (s1 : VOrX) (m : VMask) : Statement (.vredosum vd vs2 s1 m) := of_fields64 rfl rfl (by simp)
theorem vredmax (f u : Bool) (vd vs2 : Reg) (s1 : VOrX) (m : VMask) : Statement (.vredmax f u vd vs2 s1 m) := of_fields64 rfl rfl (by simp)
theorem vredmin (f u : Bool) (vd vs2 : Reg) (s1 : VOrX) (m : VMask) : Statement (.vredmin f u vd vs2 s1 m) := of_fields64 rfl rfl (by simp)
theorem vredand (vd vs2 : Reg) (s1 : VOrX) (m : VMask) : Statement (.vredand vd vs2 s1 m) := of_fields64 rfl rfl (by simp)
theorem vredor (vd vs2 : Reg) (s1 : VOrX) (m : VMask) : Statement (.vredor vd vs2 s1 m) := of_fields64 rfl rfl (by simp)
theorem vmlogic (op : BitVec 3) (md ms2 ms1 : Reg) : Statement (.vmlogic op md ms2 ms1) := of_fields64 rfl rfl (by simp)
theorem vpopc (rd ms2 : Reg) (m : VMask) : Statement (.vpopc rd ms2 m) := of_fields64 rfl rfl (by simp)
theorem vfirst (rd ms2 : Reg) (m : VMask) : Statement (.vfirst rd ms2 m) := of_fields64 rfl rfl (by simp)
theorem viota (vd ms2 : Reg) (m : VMask) : Statement (.viota vd ms2 m) := of_fields64 rfl rfl (by simp)
theorem vslideup (vd vs2 : Reg) (s1 : XOrImm) (m : VMask) : Statement (.vslideup vd vs2 s1 m) := of_fields64 rfl rfl (by simp)
theorem vslidedn (vd vs2 : Reg) (s1 : XOrImm) (m : VMask) : Statement (.vslidedn vd vs2 s1 m) := of_fields64 rfl rfl (by simp)
theorem vperm (vd vs2 vs1 : Reg) (m : VMask) : Statement (.vperm vd vs2 vs1 m) := of_fields64 rfl rfl (by simp)
theorem vcompress (vd vs2 ms1 : Reg) : Statement (.vcompress vd vs2 ms1) := of_fields64 rfl rfl (by simp)
theorem vexpand (vd vs2 ms1 : Reg) : Statement (.vexpand vd vs2 ms1) := of_fields64 rfl rfl (by simp)
theorem vmvxs (rd vs2 : Reg) (s1 : XOrImm) : Statement (.vmvxs rd vs2 s1) := of_fields64 rfl rfl (by simp)
theorem vmvsx (vd : Reg) (s1 : XOrImm) : Statement (.vmvsx vd s1) := of_fields64 rfl rfl (by simp)
theorem vnzscan (f : Bool) (vd vs2 : Reg) (m : VMask) : Statement (.vnzscan f vd vs2 m) := of_fields64 rfl rfl (by simp)
theorem vtopk (f byval : Bool) (vd vi vs2 : Reg) (s1 : XOrImm) (m : VMask) : Statement (.vtopk f byval vd vi vs2 s1 m) := of_fields64 rfl rfl (by simp)
theorem vsegscan (f : Bool) (vd vs2 ms1 : Reg) (m : VMask) : Statement (.vsegscan f vd vs2 ms1 m) := of_fields64 rfl rfl (by simp)
theorem vpivdiv (vd vs2 xp : Reg) (m : VMask) : Statement (.vpivdiv vd vs2 xp m) := of_fields64 rfl rfl (by simp)
theorem vpivsel (f : Bool) (rd vs2 : Reg) (m : VMask) : Statement (.vpivsel f rd vs2 m) := of_fields64 rfl rfl (by simp)
theorem vamo (op : BitVec 4) (vd xb vi : Reg) (s1 : VOrX) (m : VMask) : Statement (.vamo op vd xb vi s1 m) := of_fields64 rfl rfl (by simp)
theorem vscatadd (f : Bool) (xb vi : Reg) (s1 : VOrX) (m : VMask) : Statement (.vscatadd f xb vi s1 m) := of_fields64 rfl rfl (by simp)
theorem vscatacc (f : Bool) (xb vi : Reg) (s1 : VOrX) (m : VMask) : Statement (.vscatacc f xb vi s1 m) := of_fields64 rfl rfl (by simp)
theorem vlock (md xb vi : Reg) (m : VMask) : Statement (.vlock md xb vi m) := of_fields64 rfl rfl (by simp)
theorem vunlock (xb vi : Reg) (m : VMask) : Statement (.vunlock xb vi m) := of_fields64 rfl rfl (by simp)
theorem vsend (rel : Bool) (q vs2 : Reg) : Statement (.vsend rel q vs2) := of_fields64 rfl rfl (by simp)
theorem vrecv (acq : Bool) (vd q : Reg) : Statement (.vrecv acq vd q) := of_fields64 rfl rfl (by simp)
theorem mten (n : BitVec 4) : Statement (.mten n) := of_fields64 rfl rfl (by simp)
theorem mtdis : Statement (.mtdis) := of_fields64 rfl rfl (by simp)
theorem mshape (xs : Reg) : Statement (.mshape xs) := of_fields64 rfl rfl (by simp)
theorem mpred (s1 : XOrImm) : Statement (.mpred s1) := of_fields64 rfl rfl (by simp)
theorem mscale (b : Bool) (vs : Reg) (nb : BitVec 6) : Statement (.mscale b vs nb) := of_fields64 rfl rfl (by simp)
theorem mopa (acc : Reg) (a b : MOperand) (int8 : Bool) (fwd : Option Reg) : Statement (.mopa acc a b int8 fwd) := of_fields64 rfl rfl rfl
theorem mops (acc : Reg) (a b : MOperand) (int8 : Bool) (fwd : Option Reg) : Statement (.mops acc a b int8 fwd) := of_fields64 rfl rfl rfl
theorem mopag (gb : Bool) (acc s2 s1 xb : Reg) (int8 : Bool) : Statement (.mopag gb acc s2 s1 xb int8) := of_fields64 rfl rfl (by simp)
theorem mzero (acc : Reg) : Statement (.mzero acc) := of_fields64 rfl rfl (by simp)
theorem mtrd (vd acc : Reg) (origin : XOrImm) (m : VMask) : Statement (.mtrd vd acc origin m) := of_fields64 rfl rfl (by simp)
theorem mtwr (acc vs : Reg) (origin : XOrImm) (m : VMask) : Statement (.mtwr acc vs origin m) := of_fields64 rfl rfl (by simp)
theorem mtld (acc xb : Reg) (vi : Option Reg) (t : Bool) (fmt : BitVec 4) : Statement (.mtld acc xb vi t fmt) := of_fields64 rfl rfl (by simp)
theorem mtst (acc xb : Reg) (vi : Option Reg) (t : Bool) (fmt : BitVec 4) : Statement (.mtst acc xb vi t fmt) := of_fields64 rfl rfl (by simp)
theorem mtsend (rel t : Bool) (q acc : Reg) (fmt : BitVec 4) : Statement (.mtsend rel t q acc fmt) := of_fields64 rfl rfl (by simp)
theorem mtrecv (acq : Bool) (acc q : Reg) : Statement (.mtrecv acq acc q) := of_fields64 rfl rfl (by simp)
theorem mgcfg (xb : Reg) (mask : BitVec 5) : Statement (.mgcfg xb mask) := of_fields64 rfl rfl (by simp)
theorem mgin (k : BitVec 3) (vc vv : Reg) (m : VMask) : Statement (.mgin k vc vv m) := of_fields64 rfl rfl (by simp)
theorem mgrun (reuse : Bool) (rd xb xl : Reg) : Statement (.mgrun reuse rd xb xl) := of_fields64 rfl rfl (by simp)
theorem mgdrain (vc vv : Reg) : Statement (.mgdrain vc vv) := of_fields64 rfl rfl (by simp)
theorem mgrst : Statement (.mgrst) := of_fields64 rfl rfl (by simp)
theorem xcopy (lu twoD : Bool) (ch : Reg) (dst src : Reg) (len : XOrImm) : Statement (.xcopy lu twoD ch dst src len) := of_fields64 rfl rfl (by simp)
theorem xwait (ch xaddr : Reg) : Statement (.xwait ch xaddr) := of_fields64 rfl rfl (by simp)
theorem undefinedEncoding (parcel : Parcel) : Statement (.undefinedEncoding parcel) := of_event rfl
theorem fetchFault (va : Word) (sub : BitVec 4) : Statement (.fetchFault va sub) := of_event rfl
theorem vauxUp : Statement (.vauxUp) := of_event rfl
theorem powerOnStep : Statement (.powerOnStep) := of_event rfl
theorem powerOnStop : Statement (.powerOnStop) := of_event rfl
theorem perstNDeassert : Statement (.perstNDeassert) := of_event rfl
theorem perstNAssert : Statement (.perstNAssert) := of_event rfl
theorem hostLinkTrained : Statement (.hostLinkTrained) := of_event rfl
theorem linkTrainingTimeout : Statement (.linkTrainingTimeout) := of_event rfl
theorem configurationRequest : Statement (.configurationRequest) := of_event rfl
theorem thermalTrip : Statement (.thermalTrip) := of_event rfl
theorem stackTripComparator : Statement (.stackTripComparator) := of_event rfl
theorem vrAlert : Statement (.vrAlert) := of_event rfl
theorem powerOff : Statement (.powerOff) := of_event rfl
theorem dynamicAddressAssign : Statement (.dynamicAddressAssign) := of_event rfl
theorem extend : Statement (.extend) := of_event rfl
theorem raisesvn : Statement (.raisesvn) := of_event rfl
theorem writeclass : Statement (.writeclass) := of_event rfl
theorem readclass : Statement (.readclass) := of_event rfl
theorem mailboxCommandEnd : Statement (.mailboxCommandEnd) := of_event rfl
theorem getVersion : Statement (.getVersion) := of_event rfl
theorem getCapabilities : Statement (.getCapabilities) := of_event rfl
theorem negotiateAlgorithms : Statement (.negotiateAlgorithms) := of_event rfl
theorem getDigests : Statement (.getDigests) := of_event rfl
theorem getCertificate : Statement (.getCertificate) := of_event rfl
theorem challenge : Statement (.challenge) := of_event rfl
theorem getMeasurements : Statement (.getMeasurements) := of_event rfl
theorem spdmUnsupportedRequest : Statement (.spdmUnsupportedRequest) := of_event rfl
theorem launchPacket : Statement (.launchPacket) := of_event rfl
theorem bar4Read : Statement (.bar4Read) := of_event rfl
theorem bar4Write : Statement (.bar4Write) := of_event rfl
theorem counterWrite : Statement (.counterWrite) := of_event rfl
theorem counterAdd : Statement (.counterAdd) := of_event rfl
theorem functionLevelResetVf : Statement (.functionLevelResetVf) := of_event rfl
theorem functionLevelResetPf : Statement (.functionLevelResetPf) := of_event rfl
theorem hostApertureResponse : Statement (.hostApertureResponse) := of_event rfl
theorem resume : Statement (.resume) := of_event rfl
theorem abort : Statement (.abort) := of_event rfl
theorem preempt : Statement (.preempt) := of_event rfl
theorem schedulerCommandEnd : Statement (.schedulerCommandEnd) := of_event rfl
theorem fqresume : Statement (.fqresume) := of_event rfl
theorem fqdata0Read : Statement (.fqdata0Read) := of_event rfl
theorem ixdropRead : Statement (.ixdropRead) := of_event rfl
theorem faultAddressQueueRead : Statement (.faultAddressQueueRead) := of_event rfl
theorem enlq : Statement (.enlq) := of_event rfl
theorem tlbinvTenant : Statement (.tlbinvTenant) := of_event rfl
theorem tlbinvAsid : Statement (.tlbinvAsid) := of_event rfl
theorem tlbinvPage : Statement (.tlbinvPage) := of_event rfl
theorem invalidationComplete : Statement (.invalidationComplete) := of_event rfl
theorem bpladd : Statement (.bpladd) := of_event rfl
theorem bplFlashWriteDone : Statement (.bplFlashWriteDone) := of_event rfl
theorem admindown : Statement (.admindown) := of_event rfl
theorem clrcnt : Statement (.clrcnt) := of_event rfl
theorem wayreq : Statement (.wayreq) := of_event rfl
theorem registerWrite : Statement (.registerWrite) := of_event rfl
theorem linkPortTrained : Statement (.linkPortTrained) := of_event rfl
theorem flitReceive : Statement (.flitReceive) := of_event rfl
theorem retrain : Statement (.retrain) := of_event rfl
theorem portDown : Statement (.portDown) := of_event rfl
theorem routerForward : Statement (.routerForward) := of_event rfl
theorem remoteRequest : Statement (.remoteRequest) := of_event rfl
theorem remoteResponse : Statement (.remoteResponse) := of_event rfl
theorem multicastMessage : Statement (.multicastMessage) := of_event rfl
theorem scatterPair : Statement (.scatterPair) := of_event rfl
theorem bind : Statement (.bind) := of_event rfl
theorem bindack : Statement (.bindack) := of_event rfl
theorem nack : Statement (.nack) := of_event rfl
theorem unbind : Statement (.unbind) := of_event rfl
theorem bindResend : Statement (.bindResend) := of_event rfl
theorem tileMessage : Statement (.tileMessage) := of_event rfl
theorem creditReturn : Statement (.creditReturn) := of_event rfl
theorem away : Statement (.away) := of_event rfl
theorem awayack : Statement (.awayack) := of_event rfl
theorem back : Statement (.back) := of_event rfl
theorem crewPlacement : Statement (.crewPlacement) := of_event rfl
theorem zeroCountLaunch : Statement (.zeroCountLaunch) := of_event rfl
theorem crewEnd : Statement (.crewEnd) := of_event rfl
theorem launchCompletion : Statement (.launchCompletion) := of_event rfl
theorem preemption : Statement (.preemption) := of_event rfl
theorem contextSaveDone : Statement (.contextSaveDone) := of_event rfl
theorem crewRestore : Statement (.crewRestore) := of_event rfl
theorem fairnessQuantum : Statement (.fairnessQuantum) := of_event rfl
theorem ageingThreshold : Statement (.ageingThreshold) := of_event rfl
theorem watchdogExpiry : Statement (.watchdogExpiry) := of_event rfl
theorem energyCalibration : Statement (.energyCalibration) := of_event rfl
theorem energyCap : Statement (.energyCap) := of_event rfl
theorem tenantBudgetExhausted : Statement (.tenantBudgetExhausted) := of_event rfl
theorem tenantBudgetInterval : Statement (.tenantBudgetInterval) := of_event rfl
theorem capLevelRaise : Statement (.capLevelRaise) := of_event rfl
theorem capLevelLower : Statement (.capLevelLower) := of_event rfl
theorem ballastStep : Statement (.ballastStep) := of_event rfl
theorem sensorSample : Statement (.sensorSample) := of_event rfl
theorem sensorReturnValid : Statement (.sensorReturnValid) := of_event rfl
theorem safePointExit : Statement (.safePointExit) := of_event rfl
theorem safeCeilingStep : Statement (.safeCeilingStep) := of_event rfl
theorem thermalCeilingStep : Statement (.thermalCeilingStep) := of_event rfl
theorem criticalTimeout : Statement (.criticalTimeout) := of_event rfl
theorem droopResponse : Statement (.droopResponse) := of_event rfl
theorem dramRetraining : Statement (.dramRetraining) := of_event rfl
theorem dramScrub : Statement (.dramScrub) := of_event rfl
theorem eccError : Statement (.eccError) := of_event rfl
theorem cacheEviction : Statement (.cacheEviction) := of_event rfl
theorem fatalError : Statement (.fatalError) := of_event rfl
theorem dumpComplete : Statement (.dumpComplete) := of_event rfl
theorem mopaComplete : Statement (.mopaComplete) := of_event rfl
theorem copyPageRegister : Statement (.copyPageRegister) := of_event rfl
theorem copyComplete : Statement (.copyComplete) := of_event rfl
theorem copyChannelFault : Statement (.copyChannelFault) := of_event rfl
theorem streamRetire : Statement (.streamRetire) := of_event rfl
theorem mergeCheckpoint : Statement (.mergeCheckpoint) := of_event rfl
theorem mergePassEnd : Statement (.mergePassEnd) := of_event rfl
theorem impreciseTrap : Statement (.impreciseTrap) := of_event rfl

end Sys2Proof.Laws.Sized
end

