-- ==== Sys2Proof/Machine/Dxas.lean ====
section
/-!
DEFINITION. dxas, the assembly language (12_encoding R298 to R304; the forms as 13, 14 and 15 write them): from source text to the
bytes of its sections. `none` stands for a source file that dxas rejects.
-/
namespace Sys2Proof.Machine

/-! ### Lines and literals (R298, R299) -/

/-- A piece of a line: a symbol (whether it stands right after what precedes it, in upper case, as written), a literal
with its base, a sign; `l` and `r` are the signs << and >>. -/
inductive Tok where
  | sym (glued : Bool) (up raw : String)
  | num (n : Nat) (base : Nat)
  | op (c : Char)
  deriving DecidableEq, Repr

def symStart (c : Char) : Bool := c.isAlpha || c == '_' || c == '.'
def symChar (c : Char) : Bool := c.isAlphanum || c == '_'

/-- A digit's value, 99 for no digit. -/
def digitVal (c : Char) : Nat :=
  if c.isDigit then c.toNat - 48
  else if 'a' ≤ c ∧ c ≤ 'f' then c.toNat - 87
  else if 'A' ≤ c ∧ c ≤ 'F' then c.toNat - 55
  else 99

/-- Digits of a base, with underscores between any two; `last` says that a digit has just been read. -/
def digitsVal (base : Nat) : Nat → Bool → List Char → Option Nat
  | acc, last, [] => if last then some acc else none
  | acc, last, c :: cs =>
    if c = '_' then if last then digitsVal base acc false cs else none
    else if digitVal c < base then digitsVal base (acc * base + digitVal c) true cs else none

/-- A literal. In an expression it has at most 64 bits (log 61). -/
def literal (cs : List Char) : Option Tok :=
  let v := match cs with
    | '0' :: 'x' :: r => (16, r)
    | '0' :: 'X' :: r => (16, r)
    | '0' :: 'b' :: r => (2, r)
    | '0' :: 'B' :: r => (2, r)
    | _ => (10, cs)
  (digitsVal v.1 0 false v.2).map fun n => .num n v.1

/-- The tokens of a line without its comment; `glued` says that the last character was no space. -/
def lexLine : Nat → Bool → List Char → Option (List Tok)
  | 0, _, _ => none
  | _ + 1, _, [] => some []
  | f + 1, glued, c :: cs =>
    if c = ';' then some []
    else if c = ' ' || c = '\t' || c = '\r' then lexLine f false cs
    else if symStart c then
      let w := c :: cs.takeWhile symChar
      (lexLine f true (cs.dropWhile symChar)).map fun ts => .sym glued (String.ofList (w.map Char.toUpper)) (String.ofList w) :: ts
    else if c.isDigit then
      match literal (c :: cs.takeWhile symChar) with
      | some t => (lexLine f true (cs.dropWhile symChar)).map fun ts => t :: ts
      | none => none
    else match c, cs with
      | '<', '<' :: r => (lexLine f true r).map fun ts => .op 'l' :: ts
      | '>', '>' :: r => (lexLine f true r).map fun ts => .op 'r' :: ts
      | _, _ => if "-~*/+&|()[],:=$".toList.contains c then (lexLine f true cs).map fun ts => .op c :: ts else none

/-- Pieces of a list between the elements that a test picks. -/
def splitAt_ {α : Type} (p : α → Bool) : List α → List (List α)
  | [] => [[]]
  | a :: as =>
    match splitAt_ p as with
    | [] => [[a]]
    | g :: gs => if p a then [] :: g :: gs else (a :: g) :: gs

/-! ### Expressions (R299) -/

inductive Expr where
  | lit (n : Nat)
  | sym (name : String)
  | here
  | neg (e : Expr)
  | inv (e : Expr)
  | bin (op : Char) (a b : Expr)
  deriving DecidableEq, Repr

/-- The operators of a precedence level, 1 binding tightest (log 61). -/
def levelOps : Nat → List Char
  | 1 => ['*', '/']
  | 2 => ['+', '-']
  | 3 => ['l', 'r']
  | 4 => ['&']
  | _ => ['|']

/-- Read an expression of a level; with a left operand, what continues it. Operators of a level group from the left. -/
def parseExpr : Nat → Nat → Option Expr → List Tok → Option (Expr × List Tok)
  | 0, _, _, _ => none
  | f + 1, 0, _, ts =>
    match ts with
    | .num n _ :: r => if n < 2 ^ 64 then some (.lit n, r) else none
    | .sym _ _ raw :: r => some (.sym raw, r)
    | .op '$' :: r => some (.here, r)
    | .op '-' :: r => (parseExpr f 0 none r).map fun x => (.neg x.1, x.2)
    | .op '~' :: r => (parseExpr f 0 none r).map fun x => (.inv x.1, x.2)
    | .op '(' :: r =>
      match parseExpr f 5 none r with
      | some (e, .op ')' :: r') => some (e, r')
      | _ => none
    | _ => none
  | f + 1, l + 1, none, ts =>
    match parseExpr f l none ts with
    | some (e, r) => parseExpr f (l + 1) (some e) r
    | none => none
  | f + 1, l + 1, some e, ts =>
    match ts with
    | .op c :: r =>
      if (levelOps (l + 1)).contains c then
        match parseExpr f l none r with
        | some (e', r') => parseExpr f (l + 1) (some (.bin c e e')) r'
        | none => none
      else some (e, ts)
    | _ => some (e, ts)

/-- A whole token list as an expression. -/
def exprOf (ts : List Tok) : Option Expr :=
  match parseExpr (8 * ts.length + 8) 5 none ts with
  | some (e, []) => some e
  | _ => none

/-- The value in 64-bit two's complement: a shift by a negative amount is an error (log 61). -/
def Expr.eval (env : String → Option Word) (loc : Word) : Expr → Option Word
  | .lit n => some (BitVec.ofNat 64 n)
  | .sym name => env name
  | .here => some loc
  | .neg e => (e.eval env loc).map fun a => -a
  | .inv e => (e.eval env loc).map fun a => ~~~a
  | .bin op a b =>
    match a.eval env loc, b.eval env loc with
    | some x, some y =>
      match op with
      | '*' => some (x * y)
      | '/' => if y = 0 then none else some (x.sdiv y)
      | '+' => some (x + y)
      | '-' => some (x - y)
      | 'l' => if y.toInt < 0 then none else some (if 64 ≤ y.toNat then 0 else x <<< y.toNat)
      | 'r' => if y.toInt < 0 then none else some (x.sshiftRight (Nat.min y.toNat 63))
      | '&' => some (x &&& y)
      | _ => some (x ||| y)
    | _, _ => none

/-! ### Operands (R293, R301) -/

/-- An operand as written. A memory operand holds its base and its offset, with the sign before it. -/
inductive Opnd where
  | x (r : Reg)
  | v (r : Reg)
  | m (r : Reg)
  | acc (r : Reg)
  | ds (r : Reg)
  | q (r : Reg)
  | lq (r : Reg)
  | mem (b : Reg) (off : Option (Bool × List Tok))
  | other (ts : List Tok)
  deriving DecidableEq, Repr

/-- The number after a register name's letters, below a bound, in plain decimal. -/
def regNum (bound : Nat) (cs : List Char) : Option Reg :=
  match cs with
  | [] => none
  | c :: r =>
    if !(c :: r).all Char.isDigit || (decide (c = '0') && !r.isEmpty) then none
    else match digitsVal 10 0 false cs with
      | some n => if n < bound then some (BitVec.ofNat 5 n) else none
      | none => none

/-- A register's name in upper case (R293). -/
def regOf (up : String) : Option Opnd :=
  match up.toList with
  | ['Z', 'E', 'R', 'O'] => some (.x 0)
  | ['L', 'K'] => some (.x 1)
  | ['S', 'P'] => some (.x 2)
  | ['K', 'P'] => some (.x 3)
  | 'L' :: 'Q' :: r => (regNum 16 r).map .lq
  | 'D' :: 'S' :: r => (regNum 8 r).map .ds
  | 'A' :: 'C' :: 'C' :: r => (regNum 8 r).map .acc
  | 'X' :: r => (regNum 32 r).map .x
  | 'V' :: r => (regNum 32 r).map .v
  | 'M' :: r => (regNum 8 r).map .m
  | 'Q' :: r => (regNum 8 r).map .q
  | _ => none

/-- One operand between commas. -/
def operand (ts : List Tok) : Option Opnd :=
  match ts with
  | [] => none
  | [.sym _ up _] => some ((regOf up).getD (.other ts))
  | .op '[' :: .sym _ up _ :: r =>
    match regOf up, r.getLast? with
    | some (.x b), some (.op ']') =>
      match r.dropLast with
      | [] => some (.mem b none)
      | .op '+' :: e => some (.mem b (some (false, e)))
      | .op '-' :: e => some (.mem b (some (true, e)))
      | _ => none
    | _, _ => none
  | _ => some (.other ts)

/-- Where an instruction is assembled: the symbols and its own address. -/
structure AsmCtx where
  env  : String → Option Word
  loc  : Word

def valueOf (c : AsmCtx) (ts : List Tok) : Option Word :=
  match exprOf ts with
  | some e => e.eval c.env c.loc
  | none => none

/-- A value within the signed range of `n` bits. -/
def fitS (n : Nat) (v : Word) : Option (BitVec n) :=
  if -((2 ^ (n - 1) : Nat) : Int) ≤ v.toInt ∧ v.toInt < ((2 ^ (n - 1) : Nat) : Int) then some (v.setWidth n) else none

/-- A value within 0 to `top`. -/
def fitU (n top : Nat) (v : Word) : Option (BitVec n) :=
  if 0 ≤ v.toInt ∧ v.toInt ≤ (top : Int) then some (v.setWidth n) else none

def signedOp (n : Nat) (c : AsmCtx) : Opnd → Option (BitVec n)
  | .other ts => (valueOf c ts).bind (fitS n)
  | _ => none

def unsignedOp (n top : Nat) (c : AsmCtx) : Opnd → Option (BitVec n)
  | .other ts => (valueOf c ts).bind (fitU n top)
  | _ => none

/-- A branch or jump target: the distance in parcels. -/
def targetOp (n : Nat) (c : AsmCtx) : Opnd → Option (BitVec n)
  | .other ts =>
    match valueOf c ts with
    | some v => if (v - c.loc).toNat % 4 = 0 then fitS n ((v - c.loc).sshiftRight 2) else none
    | none => none
  | _ => none

/-- The offset of a memory operand. -/
def offsetOf (n : Nat) (c : AsmCtx) : Option (Bool × List Tok) → Option (BitVec n)
  | none => some 0
  | some (minus, ts) =>
    match valueOf c ts with
    | some v => fitS n (if minus then -v else v)
    | none => none

/-- A bare word, in upper case. -/
def keyword : Opnd → String
  | .other [.sym _ up _] => up
  | _ => ""

/-- A keyword of a list. -/
def keyOf {α : Type} (l : List (String × α)) (o : Opnd) : Option α := l.lookup (keyword o)

/-- The governing mask after `k` operands: m1 to m7, last (R301). -/
def withMask (k : Nat) (ops : List Opnd) : Option (List Opnd × VMask) :=
  if ops.length = k then some (ops, .unmasked)
  else if ops.length = k + 1 then
    match ops.getLast? with
    | some (.m r) => if r = 0 then none else some (ops.dropLast, .masked (r.setWidth 3))
    | _ => none
  else none

/-- Whether every suffix is defined for the form, and each written once (R300). -/
def suffixes (allowed sf : List String) : Bool := sf.all allowed.contains && decide sf.Nodup

/-- The one suffix of a set that is written, if any; two of them are an error. -/
def pick {α : Type} (set : List (String × α)) (sf : List String) : Option (Option α) :=
  match sf.filterMap fun x => set.lookup x with
  | [] => some none
  | [a] => some (some a)
  | _ => none

/-- As `pick`, where one must be written. -/
def pick1 {α : Type} (set : List (String × α)) (sf : List String) : Option α :=
  match pick set sf with
  | some r => r
  | none => none

/-- Go on only if a condition holds. -/
def when_ {α : Type} (b : Bool) (r : Option α) : Option α := if b then r else none

/-- The operand-kind suffixes. -/
def kinds : List String := [".VV", ".VX", ".VI", ".VS"]

/-- Whether the kind suffix written, if any, agrees with the operand's kind. -/
def kindOk (sf : List String) (k : String) : Bool := sf.all fun x => !kinds.contains x || decide (x = k)

/-- The K1 operand of the forms that take every kind; `imm` says that an immediate is one of them (R339). -/
def src1Op (imm : Bool) (c : AsmCtx) (sf : List String) : Opnd → Option Src1
  | .v r => when_ (kindOk sf ".VV") (some (.v r))
  | .x r => when_ (kindOk sf ".VX") (some (.x r))
  | .ds p => when_ (kindOk sf ".VS") (some (.ds (p.setWidth 3)))
  | o => when_ (imm && kindOk sf ".VI") ((signedOp 16 c o).map .imm)

/-- An x register or an unsigned immediate. -/
def xiOp (c : AsmCtx) (sf : List String) : Opnd → Option XOrImm
  | .x r => when_ (kindOk sf ".VX") (some (.x r))
  | o => when_ (kindOk sf ".VI") ((unsignedOp 16 65535 c o).map .imm)

/-- A vector group or an x register. -/
def vxOp (sf : List String) : Opnd → Option VOrX
  | .v r => when_ (kindOk sf ".VV") (some (.v r))
  | .x r => when_ (kindOk sf ".VX") (some (.x r))
  | _ => none

/-- A vector group or a link queue. -/
def mOp : Opnd → Option MOperand
  | .v r => some (.v r)
  | .lq r => some (.lq r)
  | _ => none

/-! ### Scalar forms (13_scalar_system) -/

def formsRrr : List (String × (Reg → Reg → Reg → Instr)) :=
  [("ADD", .add), ("SUB", .sub), ("AND", .and), ("OR", .or), ("XOR", .xor), ("SLL", .sll), ("SRL", .srl), ("SRA", .sra),
   ("SLT", .slt), ("SLTU", .sltu), ("MIN", .min), ("MAX", .max), ("MINU", .minu), ("MAXU", .maxu), ("MUL", .mul), ("MULH", .mulh),
   ("MULHU", .mulhu), ("DIV", .div), ("DIVU", .divu), ("REM", .rem), ("REMU", .remu), ("ADDW", .addw), ("SUBW", .subw),
   ("SLLW", .sllw), ("SRLW", .srlw), ("SRAW", .sraw), ("MULW", .mulw)]

def formsRri : List (String × (Reg → Reg → BitVec 12 → Instr)) :=
  [("ADDI", .addi), ("ANDI", .andi), ("ORI", .ori), ("XORI", .xori), ("SLTI", .slti), ("SLTIU", .sltiu)]

def formsShift : List (String × (Reg → Reg → BitVec 6 → Instr)) := [("SLLI", .slli), ("SRLI", .srli), ("SRAI", .srai)]

/-- Register and memory operand: loads, stores and JLR. -/
def formsRm : List (String × (Reg → Reg → BitVec 12 → Instr)) :=
  [("LDD", .ldd), ("LDW", .ldw), ("LDWZ", .ldwz), ("LDH", .ldh), ("LDHZ", .ldhz), ("LDB", .ldb), ("LDBZ", .ldbz), ("STD", .std),
   ("STW", .stw), ("STH", .sth), ("STB", .stb), ("JLR", .jlr)]

def formsBranch : List (String × (Reg → Reg → BitVec 12 → Instr)) :=
  [("BEQ", .beq), ("BNE", .bne), ("BLT", .blt), ("BGE", .bge), ("BLTU", .bltu), ("BGEU", .bgeu)]

def formsCache : List (String × (Reg → BitVec 12 → Instr)) := [("CWB", .cwb), ("CINV", .cinv), ("IINV", .iinv)]

def formsRr : List (String × (Reg → Reg → Instr)) := [("CLZ", .clz), ("CTZ", .ctz), ("POPC", .popc), ("BSWAP", .bswap)]

def formsBf : List (String × (Reg → Reg → BitVec 6 → BitVec 6 → Instr)) := [("BFX", .bfx), ("BFI", .bfi)]

def formsFrrr : List (String × (Bool → Reg → Reg → Reg → Instr)) :=
  [("FADD", .fadd), ("FSUB", .fsub), ("FMUL", .fmul), ("FDIV", .fdiv), ("FMIN", .fmin), ("FMAX", .fmax)]

def formsFrr : List (String × (Bool → Reg → Reg → Instr)) := [("FSQRT", .fsqrt), ("FCLASS", .fclass)]

def formsAmo : List (String × (Bool → BitVec 2 → Reg → Reg → Reg → Instr)) :=
  [("AMOADD", .amoadd), ("AMOAND", .amoand), ("AMOOR", .amoor), ("AMOXOR", .amoxor), ("AMOMIN", .amomin), ("AMOMAX", .amomax),
   ("AMOSWAP", .amoswap), ("AMOCAS", .amocas), ("AMOFADD", .amofadd)]

def formsCsrw : List (String × (BitVec 12 → Reg → Instr)) := [("CSRW", .csrw), ("CSRS", .csrs), ("CSRC", .csrc)]

def formsPlain : List (String × Instr) :=
  [("BKPT", .bkpt), ("TRET", .tret), ("HALT", .halt), ("PULSE", .pulse), ("IFENCE", .ifence), ("MTDIS", .mtdis), ("MGRST", .mgrst)]

def fmtSuffix : List (String × Bool) := [(".S", false), (".D", true)]
def ordSuffix : List (String × BitVec 2) := [(".ACQ", 1), (".REL", 2), (".AR", 3)]
def scopeSuffix : List (String × BitVec 2) := [(".CORE", 0), (".DIE", 1), (".DEV", 2), (".SYS", 3)]

/-- Names `base0` to `base(n − 1)` at rising addresses. -/
def numbered (base : String) (a n : Nat) : List (String × Nat) := (List.range n).map fun i => (base ++ toString i, a + i)

/-- Consecutive names from an address. -/
def namedFrom (a : Nat) : List String → List (String × Nat)
  | [] => []
  | n :: ns => (n, a) :: namedFrom (a + 1) ns

/-- The names of R295. -/
def csrNames : List (String × Nat) :=
  namedFrom 0x000 ["VL", "VTYPE", "VSTART", "VRC", "VRP", "VREDACC", "VFLAGS", "FRM"]
  ++ namedFrom 0x010 ["MSHAPE", "MPRED", "MSTART", "AMOMODE", "PIVTAU", "PIVSTAT", "OWNMAP", "HWEIGHT"]
  ++ namedFrom 0x100 ["HARTID", "CREWID", "CORENUM", "DIENUM", "CHIPID", "CYCLE", "INSTRET", "ENERGY", "PHASEMK", "CHAINPERM"]
  ++ numbered "LOOPIDX" 0x110 4 ++ namedFrom 0x114 ["LAUNCHID", "SSBASE", "SSSIZE"]
  ++ namedFrom 0x200 ["MGOUTB", "MGOUTL", "MGSPB", "MGSPL", "MGMODE", "MGSTATE", "MGOCNT", "MGTAG", "MGSTAT"]
  ++ numbered "XWM" 0x210 4 ++ numbered "XSTAT" 0x214 4 ++ [("DSSTAT", 0x220), ("QSTAT", 0x230)]
  ++ namedFrom 0x300 ["TVEC", "TPC", "TCAUSE", "TVAL", "TSTAT", "TSCRATCH"] ++ [("HCAP", 0x310)] ++ numbered "LQCFG" 0x400 16

def csrOp (c : AsmCtx) (o : Opnd) : Option (BitVec 12) :=
  match csrNames.lookup (keyword o) with
  | some a => some (BitVec.ofNat 12 a)
  | none => unsignedOp 12 4095 c o

/-- Forms whose operands are registers, an immediate or a memory operand, without suffix. -/
def asmPlain (c : AsmCtx) (n : String) (ops : List Opnd) : Option Instr :=
  match ops with
  | [] => formsPlain.lookup n
  | [.mem b off] => do let f ← formsCache.lookup n; some (f b (← offsetOf 12 c off))
  | [.x d, .mem b off] => do let f ← formsRm.lookup n; some (f d b (← offsetOf 12 c off))
  | [.x d, .x a] => (formsRr.lookup n).map fun f => f d a
  | [.x d, .x a, .x b] => (formsRrr.lookup n).map fun f => f d a b
  | [.x d, .x a, o] =>
    (do let f ← formsRri.lookup n; some (f d a (← signedOp 12 c o)))
    <|> (do let f ← formsShift.lookup n; some (f d a (← unsignedOp 6 63 c o)))
    <|> (do let f ← formsBranch.lookup n; some (f d a (← targetOp 12 c o)))
    <|> when_ (n == "LAUNCH") ((unsignedOp 4 15 c o).map (.launch d a ·))
    <|> when_ (n == "CTRWAIT") ((unsignedOp 10 1023 c o).map (.ctrwait d a ·))
  | [.x d, .x a, p, w] => do
    let f ← formsBf.lookup n
    let pos ← unsignedOp 6 63 c p
    let w1 ← unsignedOp 7 64 c w
    when_ (decide (w1 ≠ 0) && decide (pos.toNat + w1.toNat ≤ 64)) (some (f d a pos ((w1 - 1).setWidth 6)))
  | [.x d, o] =>
    match n with
    | "JL" => (targetOp 20 c o).map (.jl d ·)
    | "LIH" => (signedOp 20 c o).map (.lih d ·)
    | "ADDPC" => (signedOp 20 c o).map (.addpc d ·)
    | "CSRR" => (csrOp c o).map (.csrr d ·)
    | _ => none
  | [o, .x a] =>
    (do let f ← formsCsrw.lookup n; some (f (← csrOp c o) a)) <|> when_ (n == "TINV") ((unsignedOp 2 2 c o).map (.tinv · a))
  | [o] =>
    match n with
    | "SVC" => (unsignedOp 12 4095 c o).map .svc
    | "PHASE" => (unsignedOp 8 255 c o).map .phase
    | _ => none
  | [o, k] => when_ (n == "BAR") (do some (.bar (← keyOf [("CREW", false), ("LAUNCH", true)] k) (← unsignedOp 4 15 c o)))
  | _ => none

/-- Scalar forms with suffixes or with queue registers. -/
def asmSuffixed (c : AsmCtx) (n : String) (sf : List String) (ops : List Opnd) : Option Instr :=
  let d : Option Bool := when_ (suffixes [".S", ".D"] sf) (pick1 fmtSuffix sf)
  match n, ops with
  | "FCMP", [.x r, .x a, .x b, k] => do some (.fcmp (← d) (← keyOf [("EQ", 0), ("NE", 1), ("LT", 2), ("LE", 3)] k) r a b)
  | "FCVT", [.x r, .x a, k] => do
    some (.fcvt (← d) (← keyOf [("TOI", 0), ("TOU", 1), ("TOIW", 2), ("TOUW", 3), ("FROMI", 4), ("FROMU", 5), ("FROMIW", 6),
      ("FROMUW", 7), ("FROMF", 8)] k) r a)
  | "FMA", [.x r, .x a, .x b, .x e] => d.map fun d => .fma d r a b e
  | "FENCE", [] =>
    when_ (suffixes ((ordSuffix ++ scopeSuffix).map (·.1)) sf) (do some (.fence (← pick1 ordSuffix sf) (← pick1 scopeSuffix sf)))
  | "LSYNC", [] => when_ (suffixes (scopeSuffix.map (·.1)) sf) ((pick1 scopeSuffix sf).map .lsync)
  | "QSEND", [.q q, .x b] => when_ (suffixes [".REL"] sf) (some (.qsend (sf.contains ".REL") q b))
  | "QRECV", [.x r, .q q] => when_ (suffixes [".ACQ"] sf) (some (.qrecv (sf.contains ".ACQ") r q))
  | "QPEEK", [.x r, .q q] => when_ sf.isEmpty (some (.qpeek r q))
  | "QPOLL", [.x r, .q q] => when_ sf.isEmpty (some (.qpoll r q))
  | "CTRADD", [.x r, .x a, o] => when_ (suffixes [".REL"] sf) ((unsignedOp 10 1023 c o).map (.ctradd (sf.contains ".REL") r a ·))
  | _, [.x r, .x a, .x b] => do let f ← formsFrrr.lookup n; some (f (← d) r a b)
  | _, [.x r, .x a] => do let f ← formsFrr.lookup n; some (f (← d) r a)
  | _, [.x r, .x b, .mem a none] => do
    let f ← formsAmo.lookup n
    when_ (suffixes [".S", ".D", ".ACQ", ".REL", ".AR"] sf) (do some (f (← pick1 fmtSuffix sf) ((← pick ordSuffix sf).getD 0) r a b))
  | _, _ => none

/-! ### Vector forms (14_vector) -/

def formsInt : List (String × (Reg → Reg → Src1 → VMask → Instr)) :=
  [("VADD", .vadd), ("VSUB", .vsub), ("VRSUB", .vrsub), ("VMUL", .vmul), ("VAND", .vand), ("VOR", .vor), ("VXOR", .vxor),
   ("VSLL", .vsll), ("VSRL", .vsrl), ("VSRA", .vsra)]

def formsIntU : List (String × (Bool → Reg → Reg → Src1 → VMask → Instr)) :=
  [("VMULH", .vmulh), ("VDIV", .vdiv), ("VREM", .vrem), ("VMIN", .vmin), ("VMAX", .vmax), ("VSADD", .vsadd), ("VSSUB", .vssub),
   ("VNCLIP", .vnclip), ("VWMUL", .vwmul)]

def formsFp : List (String × (Reg → Reg → Src1 → VMask → Instr)) :=
  [("VFADD", .vfadd), ("VFSUB", .vfsub), ("VFMUL", .vfmul), ("VFDIV", .vfdiv), ("VFMIN", .vfmin), ("VFMAX", .vfmax),
   ("VFRECREF", .vfrecref), ("VFRSQREF", .vfrsqref)]

def formsUn : List (String × (Reg → Reg → VMask → Instr)) :=
  [("VFSQRT", .vfsqrt), ("VFCLASS", .vfclass), ("VFREC", .vfrec), ("VFRSQ", .vfrsq), ("VFEXP2", .vfexp2), ("VFLOG2", .vflog2)]

def formsXi : List (String × (Reg → Reg → XOrImm → VMask → Instr)) :=
  [("VBCAST", .vbcast), ("VSLIDEUP", .vslideup), ("VSLIDEDN", .vslidedn)]

def formsRed : List (String × (Reg → Reg → VOrX → VMask → Instr)) := [("VREDOSUM", .vredosum), ("VREDAND", .vredand), ("VREDOR", .vredor)]

/-- Conditions (R341). -/
def condKeys : List (String × BitVec 3) := [("EQ", 0), ("NE", 1), ("LT", 2), ("LE", 3), ("GT", 4), ("GE", 5)]

/-- Source formats of conversions (R358): FP ones, then integer ones. -/
def fpKeys : List (String × BitVec 4) := [("F64", 3), ("F32", 2), ("F16", 1), ("BF16", 5), ("E4M3", 0), ("E5M2", 4)]
def intKeys : List (String × BitVec 4) :=
  [("I8", 8), ("I16", 9), ("I32", 10), ("I64", 11), ("U8", 0), ("U16", 1), ("U32", 2), ("U64", 3)]

/-- Tile formats (R376). -/
def tileKeys : List (String × BitVec 4) :=
  [("I8", 0), ("E4M3", 1), ("E5M2", 2), ("F16", 3), ("BF16", 4), ("I32", 5), ("F32", 6)]

/-- Element widths in bits. -/
def widthOp (c : AsmCtx) (o : Opnd) : Option (BitVec 2) :=
  match unsignedOp 7 64 c o with
  | some 8 => some 0
  | some 16 => some 1
  | some 32 => some 2
  | some 64 => some 3
  | _ => none

/-- A vector type (R301): keywords in any order, or one expression from 0 to 1,023 with bit 7 clear. -/
def vtypeOp (c : AsmCtx) (ops : List Opnd) : Option (BitVec 10) :=
  let sews := [("SEW8", 0x000), ("SEW16", 0x010), ("SEW32", 0x020), ("SEW64", 0x030)]
  let lmuls := [("LMUL1", 0x000), ("LMUL2", 0x100), ("LMUL4", 0x200), ("LMUL8", 0x300)]
  let flags := [("ALT", 1), ("TAILZ", 2), ("MASKZ", 4), ("SATF8", 8)]
  let ks := ops.map keyword
  if suffixes ((sews ++ lmuls ++ flags).map (·.1)) ks then do
    let sew ← pick1 sews ks
    let lmul ← pick lmuls ks
    some (BitVec.ofNat 10 (sew + lmul.getD 0 + (ks.filterMap fun k => flags.lookup k).foldl (· + ·) 0))
  else match ops with
    | [o] => (unsignedOp 10 1023 c o).bind fun v => when_ (!v.getLsbD 7) (some v)
    | _ => none

/-- Configuration, loads and stores. -/
def asmVecMem (c : AsmCtx) (n : String) (sf : List String) (ops : List Opnd) : Option Instr :=
  let lu := sf.contains ".LU"
  let ff := sf.contains ".FF"
  match n, ops with
  | "VSETL", .x d :: .x a :: rest =>
    if sf = [".DS"] then
      match rest with
      | .ds p :: vt => (vtypeOp c vt).map fun t => .vsetl d a t (some (p.setWidth 3))
      | _ => none
    else when_ sf.isEmpty ((vtypeOp c rest).map fun t => .vsetl d a t none)
  | "VDECL", [.x d, r, w] => when_ sf.isEmpty (do
    let nr ← unsignedOp 6 32 c r
    when_ (decide (nr ≠ 0) && decide (nr.toNat % 8 = 0)) (some (.vdecl d (BitVec.ofNat 2 (nr.toNat / 8 - 1)) (← widthOp c w))))
  | "DSCFG", [.ds p, .x b, .x cn, .x st, w, k] =>
    when_ sf.isEmpty (do some (.dscfg (p.setWidth 3) b cn st (← widthOp c w) (← keyOf [("IN", false), ("OUT", true)] k)))
  | "DSCLR", [.ds p] => when_ sf.isEmpty (some (.dsclr (p.setWidth 3)))
  | "VLD", _ => when_ (suffixes [".LU", ".FF"] sf) (match withMask 2 ops with
    | some ([.v d, .mem b off], m) => (offsetOf 16 c off).map fun e => .vld d b e lu ff m
    | _ => none)
  | "VLDS", _ => when_ (suffixes [".LU", ".FF"] sf) (match withMask 3 ops with
    | some ([.v d, .mem b off, .x st], m) => (offsetOf 16 c off).map fun e => .vlds d b st e lu ff m
    | _ => none)
  | "VLDX", _ => when_ (suffixes [".LU", ".FF"] sf) (match withMask 4 ops with
    | some ([.v d, .mem b none, .v i, w], m) => (widthOp c w).map fun iw => .vldx d b i iw lu ff m
    | _ => none)
  | "VLDT", _ => when_ (suffixes [".LU", ".T"] sf) (match withMask 2 ops with
    | some ([.v d, .mem b off], m) => (offsetOf 16 c off).map fun e => .vldt d b e lu (sf.contains ".T") m
    | _ => none)
  | "VST", [.v d, .ds p] => when_ sf.isEmpty (some (.vst d (.ds (p.setWidth 3)) .unmasked))
  | "VST", _ => when_ sf.isEmpty (match withMask 2 ops with
    | some ([.v d, .mem b off], m) => (offsetOf 16 c off).map fun e => .vst d (.mem b e) m
    | _ => none)
  | "VSTS", _ => when_ sf.isEmpty (match withMask 3 ops with
    | some ([.v d, .mem b off, .x st], m) => (offsetOf 16 c off).map fun e => .vsts d b st e m
    | _ => none)
  | "VSTX", _ => when_ sf.isEmpty (match withMask 4 ops with
    | some ([.v d, .mem b none, .v i, w], m) => (widthOp c w).map fun iw => .vstx d b i iw m
    | _ => none)
  | "VSTT", _ => when_ sf.isEmpty (match withMask 2 ops with
    | some ([.v d, .mem b off], m) => (offsetOf 16 c off).map fun e => .vstt d b e m
    | _ => none)
  | _, _ => none

/-- Element-wise arithmetic, conversions and reductions. -/
def asmVecArith (c : AsmCtx) (n : String) (sf : List String) (ops : List Opnd) : Option Instr :=
  let u := sf.contains ".U"
  let f := sf.contains ".F"
  let only (l : List String) : Option Unit := when_ (suffixes l sf) (some ())
  match n with
  | "VMERGE" =>
    match ops with
    | [.v d, .v a, o, .m k] => do
      only kinds
      when_ (decide (k ≠ 0)) (some (.vmerge d a (← src1Op true c sf o) (k.setWidth 3)))
    | _ => none
  | "VMV" =>
    match withMask 2 ops with
    | some ([.v d, o], m) => do only kinds; some (.vmv d (← src1Op true c sf o) m)
    | _ => none
  | "VFMA" =>
    match withMask 4 ops with
    | some ([.v d, .v a, o, .v e], m) => do only kinds; some (.vfma 0 d a (← src1Op false c sf o) e m)
    | _ =>
      match withMask 5 ops with
      | some ([.v d, .v a, o, .v e, k], m) => do
        only kinds
        some (.vfma (← keyOf [("NP", 1), ("NC", 2), ("NPC", 3)] k) d a (← src1Op false c sf o) e m)
      | _ => none
  | "VFCVT" | "VFCVTI" | "VICVTF" | "VIEXT" =>
    match withMask 3 ops with
    | some ([.v d, .v a, k], m) =>
      match n with
      | "VFCVT" => do only []; some (.vfcvt d a (← keyOf fpKeys k) m)
      | "VFCVTI" => do only [".U"]; some (.vfcvti u d a (← keyOf fpKeys k) m)
      | "VICVTF" => do only []; some (.vicvtf d a (← keyOf intKeys k) m)
      | _ => do only []; some (.viext d a (← keyOf intKeys k) m)
    | _ => none
  | "VCMP" =>
    match withMask 4 ops with
    | some ([.m d, .v a, o, k], m) => do only (".U" :: kinds); some (.vcmp u (← keyOf condKeys k) d a (← src1Op true c sf o) m)
    | _ => none
  | "VFCMP" =>
    match withMask 4 ops with
    | some ([.m d, .v a, o, k], m) => do only kinds; some (.vfcmp (← keyOf condKeys k) d a (← src1Op false c sf o) m)
    | _ => none
  | "VFSGN" =>
    match withMask 4 ops with
    | some ([.v d, .v a, o, k], m) => do
      only kinds
      some (.vfsgn (← keyOf [("J", 0), ("JN", 1), ("JX", 2)] k) d a (← src1Op false c sf o) m)
    | _ => none
  | _ =>
    match withMask 2 ops with
    | some ([.v d, .v a], m) => do let g ← formsUn.lookup n; only []; some (g d a m)
    | _ =>
      match withMask 3 ops with
      | some ([.v d, .v a, o], m) =>
        (do let g ← formsInt.lookup n; only kinds; some (g d a (← src1Op true c sf o) m))
        <|> (do let g ← formsIntU.lookup n; only (".U" :: kinds); some (g u d a (← src1Op true c sf o) m))
        <|> (do let g ← formsFp.lookup n; only kinds; some (g d a (← src1Op false c sf o) m))
        <|> (do let g ← formsXi.lookup n; only [".VX", ".VI"]; some (g d a (← xiOp c sf o) m))
        <|> (do let g ← formsRed.lookup n; only [".VV", ".VX"]; some (g d a (← vxOp sf o) m))
        <|> when_ (n == "VREDSUM") (do only [".F", ".VV", ".VX"]; some (.vredsum f d a (← vxOp sf o) m))
        <|> when_ (n == "VREDMAX" && !(f && u)) (do only [".F", ".U", ".VV", ".VX"]; some (.vredmax f u d a (← vxOp sf o) m))
        <|> when_ (n == "VREDMIN" && !(f && u)) (do only [".F", ".U", ".VV", ".VX"]; some (.vredmin f u d a (← vxOp sf o) m))
      | _ => none

/-- Masks, permutation, sparse forms, pivots, operations at memory and link-queue transfers. -/
def asmVecOther (c : AsmCtx) (n : String) (sf : List String) (ops : List Opnd) : Option Instr :=
  let f := sf.contains ".F"
  let only (l : List String) : Option Unit := when_ (suffixes l sf) (some ())
  match n, ops with
  | "VMLOGIC", [.m d, .m a, .m b, k] => do
    only []
    some (.vmlogic (← keyOf [("AND", 0), ("OR", 1), ("XOR", 2), ("ANDN", 3), ("ORN", 4), ("NAND", 5), ("NOR", 6), ("XNOR", 7)] k) d a b)
  | "VCOMPRESS", [.v d, .v a, .m b] => do only []; some (.vcompress d a b)
  | "VEXPAND", [.v d, .v a, .m b] => do only []; some (.vexpand d a b)
  | "VMVXS", [.x d, .v a, o] => do only [".VX", ".VI"]; some (.vmvxs d a (← xiOp c sf o))
  | "VMVSX", [.v d, o] => do only [".VX", ".VI"]; some (.vmvsx d (← xiOp c sf o))
  | "VSEND", [.lq q, .v a] => do only [".REL"]; some (.vsend (sf.contains ".REL") q a)
  | "VRECV", [.v d, .lq q] => do only [".ACQ"]; some (.vrecv (sf.contains ".ACQ") d q)
  | "VSEGSCAN", _ =>
    match withMask 3 ops with
    | some ([.v d, .v a, .m b], m) => do only [".F"]; some (.vsegscan f d a b m)
    | _ => none
  | "VTOPK", _ =>
    match withMask 4 ops with
    | some ([.v d, .v i, .v a, o], m) => do only [".F", ".VX", ".VI"]; some (.vtopk f false d i a (← xiOp c sf o) m)
    | _ =>
      match withMask 5 ops with
      | some ([.v d, .v i, .v a, o, k], m) => do
        only [".F", ".VX", ".VI"]
        when_ (keyword k == "VAL") (some (.vtopk f true d i a (← xiOp c sf o) m))
      | _ => none
  | "VAMO", _ =>
    match withMask 5 ops with
    | some ([.v d, .mem b none, .v i, o, k], m) => do
      only [".VV", ".VX"]
      some (.vamo (← keyOf [("ADD", 0), ("AND", 1), ("OR", 2), ("XOR", 3), ("MIN", 4), ("MAX", 5), ("MINU", 6), ("MAXU", 7),
        ("SWAP", 8), ("CAS", 9), ("FADD", 10), ("FMIN", 11), ("FMAX", 12)] k) d b i (← vxOp sf o) m)
    | _ => none
  | _, _ =>
    match withMask 2 ops with
    | some ([.x d, .m a], m) =>
      match n with
      | "VPOPC" => do only []; some (.vpopc d a m)
      | "VFIRST" => do only []; some (.vfirst d a m)
      | _ => none
    | some ([.x d, .v a], m) => when_ (n == "VPIVSEL") (do only [".F"]; some (.vpivsel f d a m))
    | some ([.v d, .m a], m) => when_ (n == "VIOTA") (do only []; some (.viota d a m))
    | some ([.v d, .v a], m) => when_ (n == "VNZSCAN") (do only [".F"]; some (.vnzscan f d a m))
    | some ([.mem b none, .v i], m) => when_ (n == "VUNLOCK") (do only []; some (.vunlock b i m))
    | _ =>
      match withMask 3 ops with
      | some ([.v d, .v a, .v b], m) => when_ (n == "VPERM") (do only []; some (.vperm d a b m))
      | some ([.v d, .v a, .x p], m) => when_ (n == "VPIVDIV") (do only []; some (.vpivdiv d a p m))
      | some ([.m d, .mem b none, .v i], m) => when_ (n == "VLOCK") (do only []; some (.vlock d b i m))
      | some ([.mem b none, .v i, o], m) =>
        match n with
        | "VSCATADD" => do only [".F", ".VV", ".VX"]; some (.vscatadd f b i (← vxOp sf o) m)
        | "VSCATACC" => do only [".F", ".VV", ".VX"]; some (.vscatacc f b i (← vxOp sf o) m)
        | _ => none
      | _ => none

/-! ### Matrix, merge and copy forms (15_matrix_merge_copy R376) -/

/-- An origin: an x register, or row0 and col0. -/
def originOp (c : AsmCtx) : List Opnd → Option XOrImm
  | [.x r] => some (.x r)
  | [a, b] => do some (.imm ((← unsignedOp 6 63 c a).setWidth 16 ||| ((← unsignedOp 6 63 c b).setWidth 16 <<< 8)))
  | _ => none

/-- The mask of a tile window, after an origin of one or two operands. -/
def tileMask : List Opnd → Option (List Opnd × VMask)
  | [.x r] => some ([.x r], .unmasked)
  | [.x r, m] => withMask 1 [.x r, m]
  | ops => withMask 2 ops

/-- Configuration, outer products and tile moves. -/
def asmMatrix (c : AsmCtx) (n : String) (sf : List String) (ops : List Opnd) : Option Instr :=
  let i := sf.contains ".I"
  let fwd := sf.contains ".FWD"
  let only (l : List String) : Option Unit := when_ (suffixes l sf) (some ())
  match n, ops with
  | "MTEN", [o] => do only []; some (.mten (← unsignedOp 4 15 c o))
  | "MSHAPE", [.x a] => do only []; some (.mshape a)
  | "MPRED", [.x a] => do only []; some (.mpred (.x a))
  | "MPRED", [r, k] => do
    only []
    some (.mpred (.imm ((← unsignedOp 7 127 c r).setWidth 16 ||| ((← unsignedOp 7 127 c k).setWidth 16 <<< 8))))
  | "MSCALE", [.v a, o] => do only [".A", ".B"]; some (.mscale (← pick1 [(".A", false), (".B", true)] sf) a (← unsignedOp 6 63 c o))
  | "MOPA", [.acc t, a, b] => do only [".I"]; some (.mopa t (← mOp a) (← mOp b) i none)
  | "MOPS", [.acc t, a, b] => do only [".I"]; some (.mops t (← mOp a) (← mOp b) i none)
  | "MOPA", [.acc t, a, .lq b, .lq r] => do only [".I", ".FWD"]; when_ fwd (some (.mopa t (← mOp a) (.lq b) i (some r)))
  | "MOPS", [.acc t, a, .lq b, .lq r] => do only [".I", ".FWD"]; when_ fwd (some (.mops t (← mOp a) (.lq b) i (some r)))
  | "MOPAG", [.acc t, .v a, .v b, .mem x none] => do
    only [".I", ".GA", ".GB"]
    some (.mopag (← pick1 [(".GA", false), (".GB", true)] sf) t a b x i)
  | "MZERO", [.acc t] => do only []; some (.mzero t)
  | "MTRD", .v d :: .acc t :: rest => do
    only []
    let (o, m) ← tileMask rest
    some (.mtrd d t (← originOp c o) m)
  | "MTWR", .acc t :: .v a :: rest => do
    only []
    let (o, m) ← tileMask rest
    some (.mtwr t a (← originOp c o) m)
  | "MTLD", .acc t :: .mem b none :: rest => do
    only [".X", ".T"]
    match rest with
    | [.v x, k] => when_ (sf.contains ".X") (do some (.mtld t b (some x) (sf.contains ".T") (← keyOf tileKeys k)))
    | [k] => when_ (!sf.contains ".X") (do some (.mtld t b none (sf.contains ".T") (← keyOf tileKeys k)))
    | _ => none
  | "MTST", .acc t :: .mem b none :: rest => do
    only [".X", ".T"]
    match rest with
    | [.v x, k] => when_ (sf.contains ".X") (do some (.mtst t b (some x) (sf.contains ".T") (← keyOf tileKeys k)))
    | [k] => when_ (!sf.contains ".X") (do some (.mtst t b none (sf.contains ".T") (← keyOf tileKeys k)))
    | _ => none
  | "MTSEND", [.lq q, .acc t, k] => do
    only [".REL", ".T"]
    some (.mtsend (sf.contains ".REL") (sf.contains ".T") q t (← keyOf tileKeys k))
  | "MTRECV", [.acc t, .lq q] => do only [".ACQ"]; some (.mtrecv (sf.contains ".ACQ") t q)
  | _, _ => none

/-- Merge and copy forms. -/
def asmMerge (c : AsmCtx) (n : String) (sf : List String) (ops : List Opnd) : Option Instr :=
  let only (l : List String) : Option Unit := when_ (suffixes l sf) (some ())
  match n, ops with
  | "MGCFG", [.mem b none, o] => do only []; some (.mgcfg b (← unsignedOp 5 31 c o))
  | "MGIN", _ =>
    match withMask 3 ops with
    | some ([k, .v a, .v b], m) => do only []; some (.mgin (← unsignedOp 3 7 c k) a b m)
    | _ => none
  | "MGRUN", [.x d, .mem b none, .x l] => do only [".REUSE"]; some (.mgrun (sf.contains ".REUSE") d b l)
  | "MGDRAIN", [.v a, .v b] => do only []; some (.mgdrain a b)
  | "XCOPY", [k, .x d, .x s, l] => do
    only [".LU", ".2D"]
    let len ← (match l with
      | .x r => some (.x r)
      | o => (unsignedOp 16 65535 c o).map .imm)
    some (.xcopy (sf.contains ".LU") (sf.contains ".2D") (← unsignedOp 5 3 c k) d s len)
  | "XWAIT", [k, .x a] => do only []; some (.xwait (← unsignedOp 5 3 c k) a)
  | _, _ => none

/-- One instruction. -/
def asmInstr (c : AsmCtx) (n : String) (sf : List String) (ops : List Opnd) : Option Instr :=
  when_ sf.isEmpty (asmPlain c n ops) <|> asmSuffixed c n sf ops <|> asmVecMem c n sf ops <|> asmVecArith c n sf ops
    <|> asmVecOther c n sf ops <|> asmMatrix c n sf ops <|> asmMerge c n sf ops

/-- How many v registers the operands need: one more than the highest named. -/
def regsNamed (ops : List Opnd) : Nat :=
  (ops.map fun o => match o with
    | .v r => r.toNat + 1
    | _ => 0).foldl Nat.max 0

/-- Whether a mnemonic is a 64-bit instruction's (R290). -/
def isWide (n : String) : Bool :=
  (match n.toList with
    | 'V' :: _ => true
    | _ => false)
  || ["DSCFG", "DSCLR", "MTEN", "MTDIS", "MSHAPE", "MPRED", "MSCALE", "MOPA", "MOPS", "MOPAG", "MZERO", "MTRD", "MTWR", "MTLD", "MTST",
      "MTSEND", "MTRECV", "MGCFG", "MGIN", "MGRUN", "MGDRAIN", "MGRST", "XCOPY", "XWAIT"].contains n

/-! ### Statements -/

/-- A statement of a line. -/
inductive Stmt where
  | label (name : String)
  | insn (n : String) (sf : List String) (ops : List Opnd)
  | convoy (units : List Nat)
  | dir (n : String) (args : List (List Tok))
  deriving DecidableEq, Repr

/-- Arguments between commas; no argument may be empty. -/
def arguments (ts : List Tok) : Option (List (List Tok)) :=
  match ts with
  | [] => some []
  | _ =>
    let as := splitAt_ (fun t => decide (t = .op ',')) ts
    if as.any List.isEmpty then none else some as

/-- Unit names (R144, R302). -/
def unitKeys : List (String × Nat) :=
  [("LD", 1), ("ST", 2), ("VA", 3), ("VB", 4), ("FM", 5), ("XP", 6), ("SF", 7), ("MX", 8), ("NQ", 9)]

/-- The suffixes that follow a mnemonic without a space, and the rest. -/
def takeSuffixes : List Tok → List String × List Tok
  | .sym true up raw :: r =>
    if up.startsWith "." then
      let x := takeSuffixes r
      (up :: x.1, x.2)
    else ([], .sym true up raw :: r)
  | ts => ([], ts)

/-- The statement of a line without its label. -/
def statement (ts : List Tok) : Option (List Stmt) :=
  match ts with
  | [] => some []
  | .sym _ up _ :: r =>
    if up.startsWith "." then (arguments r).map fun as => [.dir up as]
    else if up = "CONVOY" then do
      let us ← (← arguments r).mapM fun a => match a with
        | [.sym _ u _] => unitKeys.lookup u
        | _ => none
      when_ (decide (2 ≤ us.length) && decide (us.length ≤ 6) && decide us.Nodup) (some [.convoy us])
    else
      let (sf, rest) := takeSuffixes r
      (do some [.insn up sf (← (← arguments rest).mapM operand)])
  | _ => none

/-- A line (R298). -/
def lineOf (cs : List Char) : Option (List Stmt) :=
  match lexLine (cs.length + 1) false cs with
  | some (.sym _ _ raw :: .op ':' :: r) => (statement r).map fun s => .label raw :: s
  | some ts => statement ts
  | none => none

/-- A source file's statements. -/
def statements (src : List String) : Option (List Stmt) := (src.mapM fun l => lineOf l.toList).map List.flatten

/-! ### Kernels, sections and directives (R303, R304) -/

inductive Sect where
  | text | data | rodata
  deriving DecidableEq, Repr

/-- A kernel's declarations; `loops` by level: kind and count; `named` is how many v registers its instructions need. -/
structure Kernel where
  entry : Word
  regs  : Option (Nat × Nat)
  harts : Nat
  accs  : Nat
  loops : List (Nat × Nat × Nat)
  named : Nat
  deriving DecidableEq, Repr

/-- A convoy whose members are still to come: how many, their units, and the words of those read. -/
structure OpenConvoy where
  units : List Nat
  words : List (BitVec 64)
  deriving DecidableEq, Repr

/-- A section: where it is placed, and its bytes so far. -/
structure Section where
  base  : Word
  bytes : List Byte
  deriving DecidableEq, Repr

/-- Where a pass over the statements stands. -/
structure Asm where
  sect    : Sect
  text    : Section
  data    : Section
  rodata  : Section
  syms    : List (String × Word)
  globals : List String
  kern    : Option Kernel
  last    : Option Kernel
  convoy  : Option OpenConvoy
  deriving DecidableEq, Repr

/-- The section selected. -/
def Asm.cur (a : Asm) : Section :=
  match a.sect with
  | .text => a.text
  | .data => a.data
  | .rodata => a.rodata

/-- The location counter. -/
def Asm.loc (a : Asm) : Word := a.cur.base + BitVec.ofNat 64 a.cur.bytes.length

/-- A new symbol; a second definition is an error. -/
def Asm.define (a : Asm) (name : String) (v : Word) : Option Asm :=
  if (a.syms.lookup name).isSome then none else some { a with syms := (name, v) :: a.syms }

/-- Bytes at the location counter. -/
def Asm.emit (a : Asm) (bs : List Byte) : Asm :=
  match a.sect with
  | .text => { a with text := { a.text with bytes := a.text.bytes ++ bs } }
  | .data => { a with data := { a.data with bytes := a.data.bytes ++ bs } }
  | .rodata => { a with rodata := { a.rodata with bytes := a.rodata.bytes ++ bs } }

/-- Zero bytes up to a multiple of `n`. -/
def Asm.pad (a : Asm) (n : Nat) : Asm :=
  a.emit (List.replicate ((n - a.loc.toNat % n) % n) 0)

/-- A value of `n` bytes, within the signed or the unsigned range. -/
def dataBytes (n : Nat) (v : Word) : Option (List Byte) :=
  if 8 ≤ n ∨ (fitS (8 * n) v).isSome ∨ (fitU (8 * n) (2 ^ (8 * n) - 1) v).isSome then some (bytesLE n v.toNat) else none

/-- A decimal m / 10^k rounded to nearest even; an overflow is an error. -/
def decimal (f : Fmt) (neg : Bool) (m k : Nat) : Option Nat :=
  if m = 0 then some (f.zero neg)
  else
    let l := Nat.log2 (10 ^ k) + 1
    let r := divMag f 0 neg false (m * 2 ^ l, -(l : Int)) (10 ^ k, 0)
    if r.2 / fOF % 2 = 1 then none else some r.1

/-- The digits of a fraction, after its full stop, as a number, and how many they are. -/
def fraction (raw : String) : Option (Nat × Nat) :=
  match raw.toList with
  | '.' :: cs => (digitsVal 10 0 false cs).map fun n => (n, (cs.filter Char.isDigit).length)
  | _ => none

/-- An item of an FP directive (R303). -/
def fpItem (f : Fmt) (ts : List Tok) : Option Nat :=
  let (neg, ts) := match ts with
    | .op '-' :: r => (true, r)
    | _ => (false, ts)
  match ts with
  | [.num n 16] => when_ (!neg && decide (n < 2 ^ f.w)) (some n)
  | [.num n 10] => decimal f neg n 0
  | [.num n 10, .sym true _ raw] => do
    let (m, k) ← fraction raw
    decimal f neg (n * 10 ^ k + m) k
  | [.sym _ "INF" _] => some (f.inf neg)
  | [.sym _ "NAN" _] => when_ (!neg) (some f.defNaN)
  | _ => none

/-- The keys of .launch with the largest values of their fields (R304). -/
def launchKeys : List (String × Nat) :=
  [("CLASS", 7), ("PHASE", 255), ("KERNELID", 2 ^ 32 - 1), ("ARGS", 2 ^ 53 - 1), ("SSMEM", 65535), ("WDOG", 15), ("LQS", 15),
   ("WAITCTR", 1023), ("WAITVAL", 2 ^ 32 - 1), ("DONECTR", 1023), ("DONEADD", 4095), ("DONEADDR", 2 ^ 53 - 1), ("DONEVAL", 2 ^ 32 - 1),
   ("MSIX", 2047), ("ECAP", 65535), ("PERSIST", 1), ("COSCHED", 1), ("SSZERO", 1), ("PIVG", 1), ("SERIAL", 1), ("MSIEN", 1), ("XCH", 4),
   ("LGS", 32)]

/-- One KEY=value. -/
def launchArg (c : AsmCtx) (ts : List Tok) : Option (String × Nat) :=
  match ts with
  | .sym _ up _ :: .op '=' :: e => do
    let top ← launchKeys.lookup up
    let v ← fitU 64 top (← valueOf c e)
    some (up, v.toNat)
  | _ => none

/-- A level's 16 bits in word 3; an undeclared level is TEMPORAL × 1. -/
def loopWord (k : Kernel) (l : Nat) : Nat :=
  match k.loops.lookup l with
  | some (kind, count) => kind * 2 ^ 14 + count
  | none => 1

/-- The eight words of a packet (R63, R304). -/
def launchWords (k : Kernel) (kv : List (String × Nat)) : Option (List Word) :=
  let g (s : String) : Nat := (kv.lookup s).getD 0
  let xch := (kv.lookup "XCH").getD 1
  match k.regs, [(4, 0), (8, 1), (16, 2), (32, 3)].lookup ((kv.lookup "LGS").getD 32) with
  | some (nreg, sew), some lgs =>
    let w0 := g "PHASE" * 2 ^ 48 + g "KERNELID" * 2 ^ 16 + g "SERIAL" * 2 ^ 11 + g "PIVG" * 2 ^ 10 + g "SSZERO" * 2 ^ 9
      + g "COSCHED" * 2 ^ 8 + g "PERSIST" * 2 ^ 7 + g "CLASS" * 2 ^ 4 + 1
    let w3 := loopWord k 0 + loopWord k 1 * 2 ^ 16 + loopWord k 2 * 2 ^ 32 + loopWord k 3 * 2 ^ 48
    let w4 := (xch - 1) * 2 ^ 40 + g "LQS" * 2 ^ 36 + g "WDOG" * 2 ^ 32 + g "SSMEM" * 2 ^ 16 + k.accs * 2 ^ 12
      + (Nat.log2 sew - 3) * 2 ^ 10 + (nreg / 8 - 1) * 2 ^ 8 + lgs * 2 ^ 6 + (k.harts - 1)
    let w5 := g "DONEADD" * 2 ^ 52 + g "DONECTR" * 2 ^ 42 + g "WAITVAL" * 2 ^ 10 + g "WAITCTR"
    let w7 := g "ECAP" * 2 ^ 44 + g "MSIEN" * 2 ^ 43 + g "MSIX" * 2 ^ 32 + g "DONEVAL"
    let ws := [w0, k.entry.toNat, g "ARGS", w3, w4, w5, g "DONEADDR", w7].map fun n => BitVec.ofNat 64 n
    when_ (decide (1 ≤ xch) && decide (256 ≤ vlenbOf (pkLanes ws) (pkHarts ws) (pkNreg ws)) && decide (g "DONEADDR" % 4 = 0)
      && decide (pkProd ws (fun n => decide (n = 2)) ≤ 2)) (some ws)
  | _, _ => none

/-- Names that may follow .loop (R303). -/
def loopKinds : List (String × Nat) := [("TEMPORAL", 0), ("SPATIAL_CORE", 1), ("SPATIAL_DIE", 2), ("POOLED", 3)]

/-- Widths of the data directives, in bytes, and formats of the FP ones. -/
def dataDirs : List (String × Nat) := [(".BYTE", 1), (".HALF", 2), (".WORD", 4), (".DWORD", 8)]
def fpDirs : List (String × Fmt) := [(".BF16", bf16), (".FP16", fp16), (".FP32", fp32), (".FP64", fp64)]

/-- A directive. Before the final pass a value that is not known yet stands for nothing but its size. -/
def Asm.directive (a : Asm) (c : AsmCtx) (final : Bool) (n : String) (args : List (List Tok)) : Option Asm :=
  let nat (ts : List Tok) (lo hi : Nat) : Option Nat :=
    let v := (valueOf c ts).bind fun v => (fitU 64 hi v).bind fun w => when_ (decide (lo ≤ w.toNat)) (some w.toNat)
    if final then v else some (v.getD lo)
  let inKern (f : Kernel → Option Kernel) : Option Asm := do some { a with kern := some (← f (← a.kern)) }
  match n, args with
  | ".TEXT", [] => some { a with sect := .text }
  | ".DATA", [] => some { a with sect := .data }
  | ".RODATA", [] => some { a with sect := .rodata }
  | ".ALIGN", [e] => do
    let k ← nat e 1 4096
    when_ (!final || decide (2 ^ Nat.log2 k = k)) (some (a.pad k))
  | ".SPACE", e :: rest => do
    let k ← nat e 0 (2 ^ 32)
    match rest with
    | [] => some (a.emit (List.replicate k 0))
    | [v] =>
      let b ← if final then (valueOf c v).bind (dataBytes 1) else some [0]
      some (a.emit (List.flatten (List.replicate k b)))
    | _ => none
  | ".EQU", [[.sym _ _ raw], e] =>
    match valueOf c e with
    | some v => a.define raw v
    | none => if final then none else some a
  | ".GLOBAL", [[.sym _ _ raw]] => some { a with globals := raw :: a.globals }
  | ".KERNEL", [[.sym _ _ raw]] =>
    match a.kern with
    | some _ => none
    | none => do some { (← a.define raw c.loc) with kern := some { entry := c.loc, regs := none, harts := 1, accs := 0, loops := [], named := 0 } }
  | ".ENDK", [] => do
    let k ← a.kern
    when_ (match k.regs with
      | some (nr, _) => decide (k.named ≤ nr)
      | none => true) (some { a with kern := none, last := some k })
  | ".REGS", [r, w] => inKern fun k => do
    let nr ← nat r 8 32
    let sw ← nat w 8 64
    when_ (!final || (decide (nr % 8 = 0) && [8, 16, 32, 64].contains sw)) (some { k with regs := some (nr, sw) })
  | ".HARTS", [e] => inKern fun k => do some { k with harts := ← nat e 1 32 }
  | ".ACCS", [e] => inKern fun k => do some { k with accs := ← nat e 0 8 }
  | ".LOOP", [l, [.sym _ up _], e] => inKern fun k => do
    let lv ← nat l 0 3
    when_ (!final || (k.loops.lookup lv).isNone) (do some { k with loops := (lv, ← loopKinds.lookup up, ← nat e 0 16383) :: k.loops })
  | ".LAUNCH", _ =>
    if a.sect = .text then none
    else do
      let k ← a.last
      let a := a.pad 64
      if final then
        let kv ← args.mapM (launchArg { c with loc := a.loc })
        let ws ← launchWords k kv
        when_ (decide (kv.map (·.1)).Nodup) (some (a.emit (ws.flatMap fun w => bytesLE 8 w.toNat)))
      else some (a.emit (List.replicate 64 0))
  | _, [] => none
  | _, _ =>
    match dataDirs.lookup n, fpDirs.lookup n with
    | some w, _ =>
      if final then do
        let bs ← args.mapM fun e => (valueOf c e).bind (dataBytes w)
        some (a.emit bs.flatten)
      else some (a.emit (List.replicate (w * args.length) 0))
    | none, some f => do
      let bs ← args.mapM fun e => (fpItem f e).map (bytesLE (f.w / 8))
      some (a.emit bs.flatten)
    | none, none => none

/-! ### Convoys (R302) -/

/-- R144 and R145 as far as the source decides them: register numbers only. -/
def convoySource : List (Nat × BitVec 64 × Instr) → List Nat → List Nat → Bool
  | [], _, _ => true
  | (u, w, i) :: ms, vread, mread =>
    match memberOp i State.reset with
    | none => false
    | some o =>
      (unitsOf w i).contains u && o.writes.all (fun g => !vread.contains g.1) && o.mwrites.all (fun r => !mread.contains r)
      && (!lastOnly i || ms.isEmpty) && convoySource ms (o.reads.map (·.1) ++ vread) (o.mreads ++ mread)

/-- The members with their units, decoded. -/
def convoyMembers : List Nat → List (BitVec 64) → Option (List (Nat × BitVec 64 × Instr))
  | u :: us, w :: ws =>
    match decode64 w, convoyMembers us ws with
    | .ok i, some r => some ((u, w, i) :: r)
    | _, _ => none
  | [], [] => some []
  | _, _ => none

/-- The header of a convoy (R287). -/
def convoyHeader (units : List Nat) : Parcel :=
  BitVec.ofNat 32 (1 + 4 * units.length + ((units.zip (List.range 6)).map fun p => p.1 * 2 ^ (5 + 4 * p.2)).foldl (· + ·) 0)

/-- A member joins the open convoy; the last one closes it. -/
def Asm.member (a : Asm) (w : BitVec 64) : Option Asm :=
  match a.convoy with
  | none => some a
  | some cv =>
    let ws := cv.words ++ [w]
    if ws.length < cv.units.length then some { a with convoy := some { cv with words := ws } }
    else match convoyMembers cv.units ws with
      | some ms => when_ (convoySource ms [] []) (some { a with convoy := none })
      | none => none

/-! ### Assembling -/

/-- The bytes of parcels. -/
def parcelBytes (ps : List Parcel) : List Byte := ps.flatMap fun p => bytesLE 4 p.toNat

/-- One statement. `prev` holds the symbols of the pass before. -/
def Asm.stmt (prev : List (String × Word)) (final : Bool) (a : Asm) (st : Stmt) : Option Asm :=
  let loc := a.loc
  let c : AsmCtx :=
    { env := fun n => match a.syms.lookup n with
        | some v => some v
        | none => prev.lookup n
      loc := loc }
  match st with
  | .label name => a.define name loc
  | .convoy us => if a.convoy.isSome then none else some { a.emit (parcelBytes [convoyHeader us]) with convoy := some ⟨us, []⟩ }
  | .dir n args => if a.convoy.isSome then none else a.directive c final n args
  | .insn n sf ops =>
    if a.convoy.isSome && !isWide n then none
    else if final then
      match asmInstr c n sf ops with
      | some i =>
        let ps := encode i
        let a := { a with kern := a.kern.map fun (k : Kernel) => { k with named := Nat.max k.named (regsNamed ops) } }
        (a.emit (parcelBytes ps)).member (match ps with
          | [lo, hi] => hi ++ lo
          | _ => 0)
      | none => none
    else some (a.emit (List.replicate (if isWide n then 8 else 4) 0))

/-- One pass; a convoy closes only in the final one, so the others take its members as plain instructions. -/
def asmPass (base : Word × Word × Word) (prev : List (String × Word)) (final : Bool) (sts : List Stmt) : Option Asm :=
  let start : Asm :=
    { sect := .text, text := ⟨base.1, []⟩, data := ⟨base.2.1, []⟩, rodata := ⟨base.2.2, []⟩, syms := [], globals := [], kern := none, last := none, convoy := none }
  sts.foldlM (fun a st => (a.stmt prev final st).map fun b => if final then b else { b with convoy := none }) start

/-- Passes that settle the symbols: `.equ` and the directives that move the location counter may name symbols that stand
later. -/
def settle (base : Word × Word × Word) (sts : List Stmt) : Nat → List (String × Word) → Option (List (String × Word))
  | 0, prev => some prev
  | k + 1, prev =>
    match asmPass base prev false sts with
    | some a => if a.syms = prev then some prev else settle base sts k a.syms
    | none => none

/-- What dxas emits: the bytes of the sections, every symbol's value, and the names exported. -/
structure Image where
  text    : List Byte
  data    : List Byte
  rodata  : List Byte
  syms    : List (String × Word)
  globals : List String
  deriving DecidableEq, Repr

/-- Assemble a source file, given by its lines, its sections placed where the linker puts them. -/
def assemble (text data rodata : Word) (src : List String) : Option Image :=
  match statements src with
  | none => none
  | some sts =>
    match settle (text, data, rodata) sts (sts.length + 2) [] with
    | none => none
    | some syms =>
      match asmPass (text, data, rodata) syms true sts with
      | none => none
      | some a =>
        when_ (a.kern.isNone && a.convoy.isNone && decide (a.syms = syms) && a.globals.all fun g => (a.syms.lookup g).isSome)
          (some { text := a.text.bytes, data := a.data.bytes, rodata := a.rodata.bytes, syms := a.syms, globals := a.globals })

end Sys2Proof.Machine
end

