-- ==== Sys2Proof/Tests/Slice0.lean ====
section
/-!
SUPPORT. Tests: ill-formed terms refused, words of the manual's encodings decoded, small steps with results worked out from the
manual, and for each statement of Certificates/Slice0/Obligations.lean with hypotheses a state and operands that meet them.
-/
namespace Sys2Proof.Tests

open Sys2Proof.Machine Sys2Proof.Machine.State Sys2Proof.Safety

set_option Elab.async false

/-! ### Ill-formed terms (R287 to R292, R317, R324, R339, R341, R358, R359, R364, R375) -/

/-- Governing masks: m0 may not govern, in any class that admits a mask; a VMERGE selector is m1 to m7. -/
theorem test_refuses_mask_zero :
    ([.vld 4 10 0 false false (.masked 0), .vlds 4 10 11 0 false false (.masked 0), .vldx 4 10 8 0 false false (.masked 0),
      .vldt 4 10 0 false false (.masked 0), .vst 4 (.mem 10 0) (.masked 0), .vsts 4 10 11 0 (.masked 0), .vstx 4 10 8 0 (.masked 0),
      .vstt 4 10 0 (.masked 0), .vadd 4 8 (.v 12) (.masked 0), .vmv 4 (.v 12) (.masked 0), .vbcast 4 8 (.x 1) (.masked 0),
      .vmerge 4 8 (.v 12) 0, .vfadd 4 8 (.v 12) (.masked 0), .vfsqrt 4 8 (.masked 0), .vfma 0 4 8 (.v 12) 16 (.masked 0)] ++
     [.vredsum false 4 8 (.v 12) (.masked 0), .vpopc 4 1 (.masked 0), .vslideup 4 8 (.x 1) (.masked 0), .vnzscan false 4 8 (.masked 0),
      .vtopk false false 4 12 8 (.x 1) (.masked 0), .vsegscan false 4 8 1 (.masked 0), .vpivdiv 4 8 1 (.masked 0),
      .vscatadd false 10 8 (.x 1) (.masked 0), .vlock 1 10 8 (.masked 0), .vunlock 10 8 (.masked 0), .mtrd 4 0 (.x 1) (.masked 0),
      .mtwr 0 4 (.x 1) (.masked 0), .mgin 0 4 8 (.masked 0)] : List Instr).all (fun i => !i.wf) = true := by decide +kernel

/-- Codes and fields that no encoding holds or that the manual calls undefined. -/
theorem test_refuses_undefined_codes :
    ([.fcmp false 4 1 2 3, .fcvt true 9 1 2, .tinv 3 0, .tinv 0 5, .tinv 2 5, .fence 0 1, .vsetl 1 2 0x080 none, .vsetl 1 2 0x040 none,
      .vst 4 (.ds 1) (.masked 1), .vcmp false 6 1 8 (.v 12) .unmasked, .vfcmp 7 1 8 (.v 12) .unmasked,
      .vfadd 4 8 (.imm 1) .unmasked, .vfma 0 4 8 (.imm 1) 16 .unmasked, .vfsgn 3 4 8 (.v 12) .unmasked, .vfsgn 0 4 8 (.imm 0) .unmasked] ++
     [.vfcvt 4 8 6 .unmasked, .vfcvt 4 8 8 .unmasked, .vfcvti false 4 8 7 .unmasked, .vicvtf 4 8 4 .unmasked, .viext 4 8 12 .unmasked,
      .vredmax true true 4 8 (.v 12) .unmasked, .vredmin true true 4 8 (.x 1) .unmasked, .vamo 13 4 10 8 (.x 1) .unmasked,
      .mpred (.imm 0x0080), .mpred (.imm 0x8000), .mtld 0 10 none false 7, .mtst 0 10 none false 15, .mtsend false false 0 0 7,
      .convoy 0x00000065 [0, 0], .convoy 0x0000006D [0, 0], .vauxUp, .impreciseTrap, .undefinedEncoding 0, .fetchFault 0 0]
      : List Instr).all (fun i => !i.wf) = true := by decide +kernel

/-! ### Words of the encodings -/

/-- The reserved encodings named by R283 to R292 decode to nothing: opcode 0, LOAD fn3 7, SLLI with bit 6, an all-ones word, a
class 0x0F, an unmasked form with MREG, a masked form with m0, a VADD with the MOD bit of .U. -/
theorem test_decode_refuses :
    ([decodeTableWord 32 0, decodeTableWord 32 0x000E2088, decodeTableWord 32 0x040C2084, decodeTableWord 32 0xFFFFFFFE,
      decodeTableWord 64 0x000000008000003F, decodeTableWord 64 0x00000000A014C40F, decodeTableWord 64 0x000000000014C40F,
      decodeTableWord 64 0x000000208014C40F] : List (Option Instr)).all (· = none) = true := by decide +kernel

/-- Source: words the manual prints, beside those of the obligation: R286, R322, R330, R333, R334, after R347, R350, R375. -/
theorem test_decode_manual_words :
    decodeTableWord 32 0xFFC06284 = some (.addi 5 6 0xFFC)
    ∧ decodeTableWord 32 0x803E7384 = some (.srai 7 7 3)
    ∧ decodeTableWord 32 0xFFC2028C = some (.bne 5 0 0xFFC)
    ∧ decodeTableWord 32 0x3AD6A29A = some (.amocas true 1 5 10 11)
    ∧ decodeTableWord 32 0x0060001E = some (.fence 1 2)
    ∧ decodeTableWord 32 0x0032001E = some (.lsync 3)
    ∧ decodeTableWord 32 0x0004001E = some (.ifence)
    ∧ decodeTableWord 32 0x040A2022 = some (.qsend true 2 5)
    ∧ decodeTableWord 32 0x00300024 = some (.bar false 3) := by decide +kernel

/-- Source: 64-bit words the manual prints: R347, R350, R375. -/
theorem test_decode_manual_long_words :
    decodeTableWord 64 0x000000018105A217 = some (.vfma 0 2 1 (.x 13) 2 .unmasked)
    ∧ decodeTableWord 64 0x0000004085000407 = some (.vld 4 10 0 false true .unmasked)
    ∧ decodeTableWord 64 0x0001000080000043 = some (.mten 1)
    ∧ decodeTableWord 64 0x000008018000C043 = some (.mshape 6)
    ∧ decodeTableWord 64 0x10200C0280000043 = some (.mpred (.imm 0x1020))
    ∧ decodeTableWord 64 0x0000000080110047 = some (.mopa 0 (.v 4) (.v 8) false none)
    ∧ decodeTableWord 64 0x0000014081904147 = some (.mopa 1 (.v 4) (.lq 2) false (some 3))
    ∧ decodeTableWord 64 0x000414808000004B = some (.mtsend false true 0 0 4)
    ∧ decodeTableWord 64 0x0000082185016553 = some (.mgrun true 5 10 11)
    ∧ decodeTableWord 64 0x010000028AD00057 = some (.xcopy false false 0 21 20 (.imm 0x100)) := by decide +kernel

/-- Source: fields of R283 with the codes of R286, R311, R316, R319. -/
theorem test_decode_scalar_arithmetic :
    decodeTableWord 32 0x05FC1F82 = some (.remu 31 1 30)
    ∧ decodeTableWord 32 0x03FE4184 = some (.srli 3 4 63)
    ∧ decodeTableWord 32 0x04062086 = some (.mulw 1 2 3)
    ∧ decodeTableWord 32 0x80001492 = some (.lih 9 0x80001)
    ∧ decodeTableWord 32 0x7FFFF494 = some (.addpc 9 0x7FFFF)
    ∧ decodeTableWord 32 0x7E087326 = some (.bfx 6 7 32 31)
    ∧ decodeTableWord 32 0x4E002096 = some (.fcvt true 8 1 2)
    ∧ decodeTableWord 32 0x38C62096 = some (.fcmp false 3 1 2 3)
    ∧ decodeTableWord 32 0x09062098 = some (.fma true 1 2 3 4) := by decide +kernel

/-- Source: fields of R283 with the codes of R286, R321. -/
theorem test_decode_scalar_memory_and_jumps :
    decodeTableWord 32 0x7FFC2088 = some (.ldbz 1 2 0x7FF)
    ∧ decodeTableWord 32 0x8004848A = some (.sth 9 8 0x800)
    ∧ decodeTableWord 32 0x800A208C = some (.bgeu 1 2 0x800)
    ∧ decodeTableWord 32 0xFFFFF08E = some (.jl 1 0xFFFFF)
    ∧ decodeTableWord 32 0x00001010 = some (.jlr 0 1 0)
    ∧ decodeTableWord 32 0x468A419A = some (.amofadd false 3 3 4 5) := by decide +kernel

/-- Source: fields of R283 with the codes of R324, R332, R333, R334, R335. -/
theorem test_decode_system :
    decodeTableWord 32 0x3046701C = some (.csrc 0x304 7)
    ∧ decodeTableWord 32 0xFFF8001C = some (.svc 4095)
    ∧ decodeTableWord 32 0x001A001C = some (.tret)
    ∧ decodeTableWord 32 0x001E901C = some (.tinv 1 9)
    ∧ decodeTableWord 32 0xFC023020 = some (.cinv 3 0xFC0)
    ∧ decodeTableWord 32 0x0A007222 = some (.qrecv true 4 7)
    ∧ decodeTableWord 32 0x7FF420A4 = some (.ctradd true 1 2 1023)
    ∧ decodeTableWord 32 0x00F662A4 = some (.launch 5 6 15) := by decide +kernel

/-- Source: fields of R288 with the codes of R290, R344 to R348, R368, R372. -/
theorem test_decode_vector_memory_and_configuration :
    decodeTableWord 64 0x000B040080000503 = some (.vdecl 5 3 2)
    ∧ decodeTableWord 64 0x0005081D81882003 = some (.dscfg 7 1 2 3 1 true)
    ∧ decodeTableWord 64 0x0003082075100807 = some (.vldx 8 10 4 3 true false (.masked 7))
    ∧ decodeTableWord 64 0x000001148000040B = some (.vst 4 (.ds 5) .unmasked)
    ∧ decodeTableWord 64 0x0000012015110C37 = some (.vamo 9 12 10 4 (.v 8) (.masked 1))
    ∧ decodeTableWord 64 0x0000044185110037 = some (.vscatadd true 10 4 (.x 8) .unmasked)
    ∧ decodeTableWord 64 0x00000420800C103B = some (.vrecv true 16 3) := by decide +kernel

/-- Source: fields of R288 with the codes of R352, R355 to R358. -/
theorem test_decode_vector_arithmetic :
    decodeTableWord 64 0xFFFF4D222010030F = some (.vcmp true 4 3 4 (.imm 0xFFFF) (.masked 2))
    ∧ decodeTableWord 64 0x000058018011280F = some (.vbcast 8 4 (.x 9) .unmasked)
    ∧ decodeTableWord 64 0x00001C408010C813 = some (.vfsgn 2 8 4 (.v 6) .unmasked)
    ∧ decodeTableWord 64 0x0000255B80100113 = some (.vfcmp 5 1 4 (.ds 6) .unmasked)
    ∧ decodeTableWord 64 0x000000618218E817 = some (.vfma 3 8 6 (.x 7) 4 .unmasked)
    ∧ decodeTableWord 64 0x000014008010081B = some (.vflog2 8 4 .unmasked)
    ∧ decodeTableWord 64 0x000504208010081F = some (.vfcvti true 8 4 5 .unmasked)
    ∧ decodeTableWord 64 0x000B0C008010081F = some (.viext 8 4 11 .unmasked) := by decide +kernel

/-- Source: fields of R288 with the codes of R359 to R367. -/
theorem test_decode_vector_whole :
    decodeTableWord 64 0x000008414010A823 = some (.vredmax true false 8 4 (.x 5) (.masked 4))
    ∧ decodeTableWord 64 0x0000006080044727 = some (.vmlogic 3 7 1 2)
    ∧ decodeTableWord 64 0x000904028010082B = some (.vslidedn 8 4 (.imm 9) .unmasked)
    ∧ decodeTableWord 64 0x000010008010682B = some (.vexpand 8 4 3)
    ∧ decodeTableWord 64 0x000004C18610A82F = some (.vtopk true true 8 12 4 (.x 5) .unmasked)
    ∧ decodeTableWord 64 0x0000044080100533 = some (.vpivsel true 5 4 .unmasked) := by decide +kernel

/-- Source: fields of R288 with the codes of R375. -/
theorem test_decode_matrix_merge_copy :
    decodeTableWord 64 0x0020102080100043 = some (.mscale true 4 32)
    ∧ decodeTableWord 64 0x00000A8085110147 = some (.mopag true 1 4 8 10 true)
    ∧ decodeTableWord 64 0x3F3F08023010074B = some (.mtwr 7 4 (.imm 0x3F3F) (.masked 3))
    ∧ decodeTableWord 64 0x00060CC08510024B = some (.mtld 2 10 (some 4) true 6)
    ∧ decodeTableWord 64 0x0007040010110053 = some (.mgin 7 4 8 (.masked 1))
    ∧ decodeTableWord 64 0x00000C0084000453 = some (.mgdrain 4 8)
    ∧ decodeTableWord 64 0x0000040180012357 = some (.xwait 3 9) := by decide +kernel


/-! ### States for the witnesses: a crew of one hart on core 159 with four lanes, its shared store of 128 KiB and 16 bytes at the
bottom of the window, a page of local memory mapped at VA 0x20000 for everything, and two elements of 32 bits to process -/

/-- Its x registers: x1 the shared store, x2 = 2, x3 four bytes before the shared store's page boundary, x4 = 0x20000. -/
def xs : Vector Word 32 := (((Vector.replicate 32 0).set 1 0x1FFFF000000000).set 2 2 |>.set 3 0x1FFFF00001FFFC).set 4 0x20000

def hart0 : Hart :=
  { Hart.reset with live := true, pc := 0x20000, x := xs, ir := 0x1234, csr := { Csrs.reset with vl := 2, vtype := 0x20, tvec := 0x40 },
                    sewMax := 3, nreg := 32 }

def crew0 : Crew :=
  { Crew.reset with live := true, uid := 1, core := 159, hg := 16, ssBase := 0x1FFFF000000000, ssSize := 0x20010, accs := 8, lqs := 16, xch := 3 }

def base : State :=
  { State.reset with cur := 32, hart := hart0, crew := crew0, nextUid := 2
                     regs := [(rTENPT 0, 0x8000000000000000)]
                     tlb := [{ tenant := 0, asid := 0, page := 1, flags := 0x7D, frame := 0x40000, reach := 0 }] }

/-- The same in system mode. -/
def sys : State := base.onCsr fun c => { c with tstat := 1 }

theorem cacheOk_of {s : State} (h : s.dcache = []) : CacheOk s := by
  intro k d hf; rw [h] at hf; cases hf

theorem cacheSound_of {s : State} (h : s.dcache = []) (o : InOrder s := by exact ⟨rfl, rfl, rfl⟩) : CacheSound s :=
  ⟨cacheOk_of h, o, fun l d e => by rw [State.dline, h] at e; cases e⟩

theorem cacheRoom_of {s : State} (h : s.dcache = []) (o : InOrder s := by exact ⟨rfl, rfl, rfl⟩) : CacheRoom s :=
  ⟨cacheSound_of h o, by simp [State.dlines, h, cacheLines]⟩

/-- Whether an access reaches the given pieces, all local memory that is filled and free of poison, in the window or in pages
whose translations are cached. -/
def leads (s : State) (a : Acc) (need : Need) (va : Word) (n : Nat) (ps : List (Nat × Nat × Place)) : Bool :=
  (match reachAll a need va n s with | .ok r => decide (r.1 = ps) | .error _ => false)
  && (ps.all fun p => match p.2.2 with | .mem pa => (unfilled s pa p.2.1).isEmpty && !s.poisonedAny pa p.2.1 | _ => false)
  && (pieces va.toNat n).all fun p => inWindow p.1 || (s.tlbFind s.crew.tenant s.crew.asid (p.1 / 2 ^ 17)).isSome

theorem reachAll_of {s : State} {a : Acc} {need : Need} {va : Word} {n : Nat} {ps : List (Nat × Nat × Place)}
    (h : (match reachAll a need va n s with | .ok r => decide (r.1 = ps) | .error _ => false) = true) :
    reachAll a need va n s = .ok (ps, s) := by
  cases e : reachAll a need va n s with
  | error _ => rw [e] at h; cases h
  | ok r =>
    rw [e] at h
    have h1 := of_decide_eq_true h
    have h2 := Laws.reachAll_state (ps := r.1) (t := r.2) e
    rw [← h1, ← h2]

theorem mem_of_leads {s : State} {ps : List (Nat × Nat × Place)}
    (h : (ps.all fun p => match p.2.2 with
      | .mem pa => (unfilled s pa p.2.1).isEmpty && !s.poisonedAny pa p.2.1 | _ => false) = true) :
    ∀ p ∈ ps, ∃ pa, p.2.2 = .mem pa ∧ unfilled s pa p.2.1 = [] ∧ s.poisonedAny pa p.2.1 = false := by
  intro p hp
  have := List.all_eq_true.mp h p hp
  revert this
  cases hq : p.2.2 with
  | mem pa => intro this; simp only [Bool.and_eq_true] at this; exact ⟨pa, rfl, List.isEmpty_iff.mp this.1, by simpa using this.2⟩
  | _ => intro this; cases this

theorem reachesMem_of {s : State} {a : Acc} {need : Need} {va : Word} {n : Nat} {ps : List (Nat × Nat × Place)}
    (h : leads s a need va n ps = true) : ReachesMem s a need va n ps := by
  simp only [leads, Bool.and_eq_true] at h
  exact ⟨reachAll_of h.1.1, fun p hp => let ⟨pa, e, u, _⟩ := mem_of_leads h.1.2 p hp; ⟨pa, e, u⟩⟩

theorem lands_of {s : State} {a : Acc} {need : Need} {va : Word} {n : Nat} {ps : List (Nat × Nat × Place)}
    (h : leads s a need va n ps = true) : Lands s a need va n ps := by
  simp only [leads, Bool.and_eq_true] at h
  exact Laws.lands_of (fun p hp => by simpa using List.all_eq_true.mp h.2 p hp) (reachAll_of h.1.1) (mem_of_leads h.1.2)

/-- No piece's line is poisoned for the core. -/
theorem cleanForCore_of {s : State} {ps : List (Nat × Nat × Place)}
    (h : (ps.all fun p => match p.2.2 with
      | .mem pa => (linesOf pa p.2.1).all fun l => !s.corePois s.crew.core (l * 64) | _ => true) = true) : CleanForCore s ps := by
  intro p hp pa e l hl
  have := List.all_eq_true.mp h p hp
  rw [e] at this
  simpa using List.all_eq_true.mp this l hl

/-! ### For each statement with hypotheses, states and operands that meet them, clause by clause -/

/-- The state whose next move is the hart's turn, with the bytes of some parcels at its program counter. -/
def turnS (bs : List (Nat × Byte)) : State := { base with moves := [.hart 0 32 none], mem := bs }

/-- Its hart's turn. -/
def turnR (bs : List (Nat × Byte)) : State :=
  { base with mem := bs }

/-- ADDI x5, x5, 0x678 at the program counter's home. -/
def addiAt : List (Nat × Byte) := [(0x40000, 0x84), (0x40001, 0x52), (0x40002, 0x80), (0x40003, 0x67)]

theorem hartMoves (bs : List (Nat × Byte)) : HartMoves (turnS bs) (turnR bs) := ⟨0, 32, none, [], _, rfl, rfl, rfl, rfl⟩

def fetches (s : State) (ps : List Parcel) : Bool := match fetchInstr s with | .parcels qs _ => decide (qs = ps) | _ => false

theorem fetches_of {s : State} {ps : List Parcel} (h : fetches s ps = true) : ∃ u, fetchInstr s = .parcels ps u := by
  unfold fetches at h
  split at h
  · exact ⟨_, by rw [← of_decide_eq_true h]; assumption⟩
  · cases h

/-- The parcels `ps` are fetched, and the state in which they execute has a property. -/
def fetchesThen (s : State) (ps : List Parcel) (p : State → Bool) : Bool :=
  match fetchInstr s with | .parcels qs u => decide (qs = ps) && p (withParcels ps u) | _ => false

theorem fetchesThen_of {s : State} {ps : List Parcel} {p : State → Bool} (h : fetchesThen s ps p = true) :
    ∃ u, fetchInstr s = .parcels ps u ∧ p (withParcels ps u) = true := by
  unfold fetchesThen at h
  split at h
  · simp only [Bool.and_eq_true, decide_eq_true_eq] at h
    exact ⟨_, by rw [← h.1]; assumption, h.2⟩
  · cases h

/-- What the arbiter does with an instruction has a property. -/
def granting (i : Instr) (p : Grant → Bool) (v : State) : Bool := p (arbiter (occupancy v i) v)

/-- A masked VADD of two parcels whose first bytes stand at the start of a page. -/
def vaddAt : List (Nat × Byte) := [(0x40000, 0x0F), (0x40001, 0xC4), (0x40002, 0x14), (0x40003, 0x20)]

/-- The same turn with a second hart in the crew, `h`, and a convoy that may hold the lane group. -/
def turnTwo (h : Hart) (convoy : Option (Nat × Word × Word)) : State :=
  { (turnR vaddAt).onCrew fun c => { c with convoy } with harts := [(33, { h with idx := 1 })] }

/-- ADDI, which passes the arbiter by; VADD granted, kept waiting by another hart's convoy, and behind another hart's head. -/
theorem witness_StepRunsDecodedInstruction :
    let vadd : Instr := .vadd 4 5 (.v 6) (.masked 2)
    let asks (r : State) (p : Grant → Bool) : Prop := HartMoves { r with moves := [.hart 0 32 none] } r ∧ impDue r = false
      ∧ ∃ u, fetchInstr r = .parcels [0x2014C40F, 0] u
          ∧ granting vadd p (withParcels [0x2014C40F, 0] u) = true
    (HartMoves (turnS addiAt) (turnR addiAt) ∧ impDue (turnR addiAt) = false
      ∧ (∃ u, fetchInstr (turnR addiAt) = .parcels [0x67805284] u ∧ Granted (withParcels [0x67805284] u) 1 (.addi 5 5 0x678) (withParcels [0x67805284] u))
      ∧ decode [0x67805284] = .ok (.addi 5 5 0x678))
    ∧ decode [0x2014C40F, 0] = .ok vadd ∧ queued 2 vadd = true
    ∧ asks (turnR vaddAt) (fun g => match g with | .go _ => true | _ => false)
    ∧ asks (turnTwo hart0 (some (1, 0x20000, 0x20008))) (fun g => match g with | .stay _ => true | _ => false)
    ∧ asks (turnTwo { hart0 with head := some (false, (0x20000, 0)) } none)
        (fun g => match g with | .other slot => decide (slot = 33) && ((turnTwo hart0 none).focus slot).isSome | _ => false) := by
  refine ⟨⟨hartMoves _, by decide +kernel, ?_, by rfl⟩, by rfl, by decide, ?_, ?_, ?_⟩
  · exact (fetches_of (by decide +kernel)).imp fun u h => ⟨h, rfl⟩
  all_goals exact ⟨⟨0, 32, none, [], _, rfl, rfl, rfl, rfl⟩, by decide +kernel,
    fetchesThen_of (p := granting (.vadd 4 5 (.v 6) (.masked 2)) _) (by decide +kernel)⟩

theorem witness_FetchReadsEncodedInstruction :
    let s := turnR vaddAt
    let i : Instr := .vadd 4 5 (.v 6) (.masked 2)
    let pas (k : Nat) : Nat := 0x40000 + 4 * k
    i.wf = true ∧ s.hart.ibuf = [] ∧ s.icache = [] ∧ s.cregs = [] ∧ s.hart.pc.toNat % 4 = 0 ∧ (encode i).length = 2
    ∧ ∀ k, k < 2 → s.reach .fetch ((s.hart.pc.toNat + 4 * k) % 2 ^ 64) 4 = .ok (pas k) ∧ s.place (pas k) = .mem (pas k)
        ∧ pas k % 4 = 0 ∧ s.poisoned (pas k) = false ∧ s.readHome (pas k) 4 = ((encode i).getD k 0).toNat := by
  refine ⟨by decide +kernel, rfl, rfl, rfl, by decide +kernel, by decide +kernel, ?_⟩
  intro k hk
  have : k = 0 ∨ k = 1 := by omega
  rcases this with rfl | rfl
  · exact ⟨rfl, by decide +kernel, by decide +kernel, by decide +kernel, by decide +kernel⟩
  · exact ⟨rfl, by decide +kernel, by decide +kernel, by decide +kernel, by decide +kernel⟩

/-- A due report; a fetch beyond the mapped page; an all-zero parcel; a line that a copy has not filled. -/
theorem witness_StepTakesReportsAndFailures :
    let due : State := (turnR []).onHart fun h => { h with imp := some { cause := .poison, sub := 3, tval := 0 } }
    let far : State := (turnR []).onHart fun h => { h with pc := 0x40000 }
    let held : State := { turnR [] with cregs := [{ slot := 64, chan := 0, die := 0, lo := 0x40003, hi := 0x40004 }] }
    (HartMoves { due with moves := [.hart 0 32 none] } due ∧ impDue due = true)
    ∧ (HartMoves { far with moves := [.hart 0 32 none] } far ∧ impDue far = false
        ∧ (match fetchInstr far with | .fault va sub => decide (va = 0x40000 ∧ sub = 1) | _ => false) = true)
    ∧ (HartMoves (turnS []) (turnR []) ∧ impDue (turnR []) = false ∧ (∃ u, fetchInstr (turnR []) = .parcels [0] u)
        ∧ (match decode [0] with | .error _ => true | .ok _ => false) = true)
    ∧ (HartMoves { held with moves := [.hart 0 32 none] } held ∧ impDue held = false
        ∧ (match fetchInstr held with | .stop _ => true | _ => false) = true)
    ∧ (Quiet due ∧ ¬Quiet (due.onHart fun h => { h with pend := [{ tile := 0, vals := [], flags := 0, holds := [] }] })) :=
  ⟨⟨⟨0, 32, none, [], _, rfl, rfl, rfl, rfl⟩, by decide +kernel⟩,
   ⟨⟨0, 32, none, [], _, rfl, rfl, rfl, rfl⟩, by decide +kernel, by decide +kernel⟩,
   ⟨hartMoves _, by decide +kernel, fetches_of (by decide +kernel), by decide +kernel⟩,
   ⟨⟨0, 32, none, [], _, rfl, rfl, rfl, rfl⟩, by decide +kernel, by decide +kernel⟩, rfl, fun h => by cases h⟩

def goesOn (o : Host.Outcome State Fault Refusal) : Bool := match o with | .next _ => true | _ => false

theorem goesOn_of {o : Host.Outcome State Fault Refusal} (h : goesOn o = true) : ∃ t, o = .next t := by
  cases o with
  | next t => exact ⟨t, rfl⟩
  | _ => cases h

/-- A line held in the core's cache with its first byte dirty. -/
def lineS (s : State) (core line : Nat) : State :=
  s.putDline core line { data := 0xAB :: List.replicate 63 0, dirty := true :: List.replicate 63 false, by_ := [32], pois := false }

theorem cacheOk_lineS {s : State} {core line : Nat} (h : s.dcache = []) : CacheOk (lineS s core line) := by
  intro k d hf
  simp only [lineS, State.putDline, h] at hf
  change FMap.find k [(_, _)] = some d at hf
  simp only [FMap.find] at hf
  split at hf
  · injection hf with hf; subst hf; exact ⟨by decide, by decide⟩
  · simp at hf

theorem cacheSound_lineS {s : State} {core line : Nat} (h : s.dcache = []) (o : InOrder s := by exact ⟨rfl, rfl, rfl⟩) :
    CacheSound (lineS s core line) := by
  refine ⟨cacheOk_lineS h, o, fun l d e => ?_⟩
  simp only [lineS, State.putDline, State.dline, h] at e
  change FMap.find _ [(_, _)] = some d at e
  simp only [FMap.find] at e
  split at e
  · injection e with e; subst e; rfl
  · simp at e

theorem unheld_of {s : State} (h : s.cregs = []) : Unheld s := by
  intro l d _; simp [unfilled, h]

theorem witness_StepKeepsInvariant : Inv (turnS addiAt) ∧ ∃ t, step (turnS addiAt) = .next t :=
  ⟨⟨by decide +kernel, by decide +kernel⟩, goesOn_of (by decide +kernel)⟩

theorem witness_StepKeepsCacheLines :
    CacheOk (lineS (turnS addiAt) 159 5) ∧ ∃ t, step (lineS (turnS addiAt) 159 5) = .next t :=
  ⟨cacheOk_lineS rfl, goesOn_of (by decide +kernel)⟩

theorem witness_StepKeepsCrewsOnCores : CoresOk (turnS addiAt) ∧ ∃ t, step (turnS addiAt) = .next t :=
  ⟨⟨by decide, by decide, by decide⟩, goesOn_of (by decide +kernel)⟩

/-- A field that ends at bit 63, and one that ends at bit 64. -/
theorem witness_BitManipulationResults : (0#6).toNat + (63#6).toNat < 64 ∧ 64 ≤ (1#6).toNat + (63#6).toNat := by decide

/-- JLR to 0x20000 and to 0x20000 − 2. -/
theorem witness_BranchesAndJumps : (base.x 4 + BitVec.ofInt 64 (BitVec.toInt (0#12))).toNat % 4 = 0
    ∧ (base.x 4 + BitVec.ofInt 64 (BitVec.toInt (0xFFE#12))).toNat % 4 ≠ 0 := by decide +kernel

/-- The last condition of FCMP and the last kind of FCVT. -/
theorem witness_ScalarFloatResults : (3#4).toNat < 4 ∧ (8#4).toNat < 9 := by decide

/-- E4M3's NaN as an operand, alone and beside zero times infinity of E5M2; the largest finite E4M3 under mode 4. -/
theorem witness_NaNOperandsAndExactValues :
    (e4m3 ∈ [fp64, fp32, fp16, bf16, e5m2, e4m3] ∧ 0xFF < 2 ^ e4m3.w ∧ (e4m3.isNaN 0x00 || e4m3.isNaN 0xFF) = true)
    ∧ (e5m2 ∈ [fp64, fp32, fp16, bf16, e5m2, e4m3] ∧ 0x7D < 2 ^ e5m2.w
        ∧ (e5m2.isNaN 0x00 || e5m2.isNaN 0x7C || e5m2.isNaN 0x7D) = true)
    ∧ (0x7E < 2 ^ e4m3.w ∧ 4 < 5 ∧ e4m3.isNaN 0x7E = false ∧ e4m3.isInf 0x7E = false) := by decide +kernel

theorem find_mem {α : Type} {k : Nat} {a : α} : {m : FMap α} → FMap.find k m = some a → (k, a) ∈ m
  | [], h => by cases h
  | (j, b) :: m, h => by
    simp only [FMap.find] at h
    split at h
    · next e => injection h with h; subst e h; exact List.mem_cons_self
    · exact List.mem_cons_of_mem _ (find_mem h)

theorem find_const {α : Type} {k n : Nat} {f : Nat → Nat} {a d : α} (h : FMap.find k ((List.range n).map fun i => (f i, a)) = some d) :
    d = a := by
  obtain ⟨_, -, e⟩ := List.mem_map.mp (find_mem h)
  exact (Prod.mk.inj e).2.symm

/-- A line with every byte dirty. -/
def dirtyLine : DLine := { data := List.replicate 64 7, dirty := List.replicate 64 true, by_ := [32], pois := false }

/-- Lines 0, 1, … of core 159's cache, all dirty; each of its 1,024 lines taken. -/
def crowdLines (n : Nat) : FMap DLine := (List.range n).map fun i => (dkey 159 i, dirtyLine)

theorem find_crowdLines {k n : Nat} {d : DLine} (h : FMap.find k (crowdLines n) = some d) : d = dirtyLine := find_const h

def crowdOf (n : Nat) : State := { base with dcache := crowdLines n }

theorem cacheSound_crowdOf (n : Nat) : CacheSound (crowdOf n) := by
  have one : dirtyLine.data.length = 64 ∧ dirtyLine.dirty.length = 64 := by decide +kernel
  exact ⟨fun k d h => find_crowdLines h ▸ one, ⟨rfl, rfl, rfl⟩, fun l d h => by rw [find_crowdLines h, dirtyLine]⟩

def crowdS : State := crowdOf 1024

theorem cacheSound_crowdS : CacheSound crowdS := cacheSound_crowdOf _

/-- Eight bytes across the shared store's page boundary, with the cache empty and with it full; a load that has read its bytes early. -/
theorem witness_ScalarLoadsFromMemory :
    let ps : List (Nat × Nat × Place) := [(0, 4, .mem 0x700001FFFC), (4, 4, .mem 0x7000020000)]
    let met (s : State) : Prop := s.crew.core < 160 ∧ ReachesMem s .scalarLd .read (s.x 3 + BitVec.ofInt 64 (BitVec.toInt (0#12))) 8 ps
      ∧ CleanForCore s ps
    let early := base.onHart fun h => { h with early := [{ at_ := 0, scalar := true, pa := 0x7000000000, n := 8, v := 5 }] }
    (met base ∧ CacheRoom base)
    ∧ (met crowdS ∧ CacheSound crowdS ∧ (crowdS.dlines 159 fun _ => true).length = cacheLines
        ∧ crowdS.poisonedAny 0x700001FFFC 4 = false ∧ crowdS.poisonedAny 0x7000020000 4 = false)
    ∧ (reachAll .scalarLd .read (early.x 1 + BitVec.ofInt 64 (BitVec.toInt (0#12))) 8 early = .ok ([(0, 8, .mem 0x7000000000)], early)
        ∧ early.earlyValue true 0x7000000000 8 = some 5) :=
  ⟨⟨⟨by decide, reachesMem_of (by decide +kernel), cleanForCore_of (by decide +kernel)⟩, cacheRoom_of rfl⟩,
   ⟨⟨by decide, reachesMem_of (by decide +kernel), cleanForCore_of (by decide +kernel)⟩, cacheSound_crowdS, by decide +kernel,
    by decide +kernel, by decide +kernel⟩,
   reachAll_of (by decide +kernel), by decide +kernel⟩

/-- The page of VA 0x20000 at the first and the last byte of the host aperture, and at another device, with no answer and with
each answer; a load of each width, a store, and an AMO of either width with and without a suffix. -/
theorem witness_LoadsFromHostAndFabric :
    let via (frame : Nat) : State :=
      { base with tlb := [{ tenant := 0, asid := 0, page := 1, flags := 0x7D, frame, reach := 0 }]
                  regs := [(rAPERTURE 0, 0x8000000000000000), (rAPERTURE 63, 0x8000000000000000),
                           (rTENPT 0, 0x8000000000000000), (rIXCFG, 0x8000001111FF0000)] }
    let with_ (s : State) (a : Answer) : State := s.onHart fun h => { h with answers := [(0, a)] }
    let access (s : State) (a : Acc) (need : Need) (p : Place) (i : BitVec 12) (n : Nat) : Prop :=
      Quiet s ∧ s.hart.conv = none ∧ reachAll a need (s.x 4 + BitVec.ofInt 64 i.toInt) n s = .ok ([(0, n, p)], s)
    let one (s : State) (p : Place) (i : BitVec 12) : Prop := access s .scalarLd .read p i 8
    one (via 0x6000000000) (.aperture 0) 0
    ∧ one ((via 0x6FFFFE0000).onHart fun h => { h with x := h.x.set 4 0x3FFF8 }) (.aperture 0xFFFFFFFF8) 0
    ∧ (one (via (2 ^ 52 + 2 ^ 39)) (.remote 1 0) 0 ∧ LeavesDevice (via 0) (.remote 1 0) ∧ LeavesDevice (via 0) (.aperture 0))
    ∧ (access (via 0x6000000000) .scalarLd .read (.aperture 1) 1 4 ∧ access (via 0x6000000000) .scalarLd .read (.aperture 3) 3 2
        ∧ access (via (2 ^ 52 + 2 ^ 39)) .scalarLd .read (.remote 1 7) 7 1)
    ∧ (InOrder (via 0) ∧ access (via 0x6000000000) .scalarSt .write (.aperture 5) 5 8
        ∧ access (via (2 ^ 52 + 2 ^ 39)) .scalarSt .write (.remote 1 7) 7 1)
    ∧ (let s := via (2 ^ 52 + 2 ^ 39)
       (s.x 4).toNat % 8 = 0 ∧ reachAll .atomic .write (s.x 4) 8 s = .ok ([(0, 8, .remote 1 0)], s)
       ∧ reachAll .atomic .write (s.x 4) 4 s = .ok ([(0, 4, .remote 1 0)], s)
       ∧ (∃ s1, release 3 s = .ok ((), s1) ∧ ∃ s2, acquire 3 s1 = .ok ((), s2))
       ∧ FMap.find (updateKey 0) s.hart.answers = none ∧ s.hart.asked = []
       ∧ FMap.find (updateKey 0) ((s.onHart fun h => { h with answers := [(updateKey 0, .value 7)] })).hart.answers = some (.value 7))
    ∧ one (with_ (via 0x6000000000) (.value 7)) (.aperture 0) 0
    ∧ one (with_ (via 0x6000000000) .refused) (.aperture 0) 0
    ∧ one (with_ (via 0x6000000000) .poisoned) (.aperture 0) 0
    ∧ FMap.find 0 (via 0x6000000000).hart.answers = none ∧ (via 0x6000000000).hart.asked = [] ∧ (via 0x6000000000).hart.posted = []
    ∧ (let s := (via 0x6000000000).onHart fun h => { h with
         posted := [{ tag := 3, va := 0x20000, by_ := .hart, lo := aperturePa 7, n := 1, ins := 0, bad := false }] }
       one s (.aperture 0) 0
       ∧ BehindPosted s (.aperture 0) 8) :=
  ⟨⟨rfl, rfl, reachAll_of (by decide +kernel)⟩, ⟨rfl, rfl, reachAll_of (by decide +kernel)⟩,
   ⟨⟨rfl, rfl, reachAll_of (by decide +kernel)⟩, .inr ⟨1, 0, rfl, by decide +kernel, by decide +kernel⟩, .inl ⟨0, rfl⟩⟩,
   ⟨⟨rfl, rfl, reachAll_of (by decide +kernel)⟩, ⟨rfl, rfl, reachAll_of (by decide +kernel)⟩, rfl, rfl, reachAll_of (by decide +kernel)⟩,
   ⟨⟨rfl, rfl, rfl⟩, ⟨rfl, rfl, reachAll_of (by decide +kernel)⟩, rfl, rfl, reachAll_of (by decide +kernel)⟩,
   ⟨by decide +kernel, reachAll_of (by decide +kernel), reachAll_of (by decide +kernel), ⟨_, rfl, _, rfl⟩, by decide +kernel, rfl,
    by decide +kernel⟩,
   ⟨rfl, rfl, reachAll_of (by decide +kernel)⟩, ⟨rfl, rfl, reachAll_of (by decide +kernel)⟩,
   ⟨rfl, rfl, reachAll_of (by decide +kernel)⟩, by decide +kernel, by decide +kernel, rfl,
   ⟨rfl, rfl, reachAll_of (by decide +kernel)⟩, _, List.mem_cons_self, rfl, rfl, by decide +kernel, by decide +kernel⟩

/-- The same bytes with the cache empty and with it full; a store that is to wait. -/
theorem witness_ScalarStoresToMemory :
    let met (s : State) : Prop := s.crew.core < 160 ∧ Quiet s
      ∧ ReachesMem s .scalarSt .write (s.x 3 + BitVec.ofInt 64 (BitVec.toInt (0#12))) 8
          [(0, 4, .mem 0x700001FFFC), (4, 4, .mem 0x7000020000)]
    let late := base.onHart fun h => { h with late := 1 }
    (met base ∧ CacheRoom base) ∧ (met crowdS ∧ CacheSound crowdS)
    ∧ (late.crew.core < 160 ∧ Quiet late ∧ 0 < late.hart.late ∧ sliceOf 0x7000000FF8 = sliceOf (0x7000000FF8 + 8 - 1)
        ∧ ReachesMem late .scalarSt .write (late.x 3 + BitVec.ofInt 64 (BitVec.toInt (0x800#12)) - 0x1E804) 8 [(0, 8, .mem 0x7000000FF8)]
        ∧ late.poisonedAny 0x7000000FF8 8 = false) :=
  ⟨⟨⟨by decide, rfl, reachesMem_of (by decide +kernel)⟩, cacheRoom_of rfl⟩,
   ⟨⟨by decide, rfl, reachesMem_of (by decide +kernel)⟩, cacheSound_crowdS⟩,
   by decide, rfl, by decide, by decide +kernel, reachesMem_of (by decide +kernel), by decide +kernel⟩

/-- The last aligned eight bytes before the boundary. -/
theorem witness_ScalarAtomics :
    let s := base.onHart fun h => { h with x := h.x.set 3 0x1FFFF00001FFF8 }
    s.crew.core < 160 ∧ CacheSound s ∧ Quiet s ∧ Unheld (lineS s 159 5) ∧ (s.x 3).toNat % 8 = 0
    ∧ reachAll .atomic .write (s.x 3) 8 s = .ok ([(0, 8, .mem 0x700001FFF8)], s) ∧ unfilled s 0x700001FFF8 8 = []
    ∧ s.poisonedAny 0x700001FFF8 8 = false :=
  ⟨by decide, cacheSound_of rfl, rfl, unheld_of rfl, by decide +kernel, reachAll_of (by decide +kernel), by decide +kernel,
   by decide +kernel⟩

theorem witness_MisalignedAtomicsTrap : Quiet base ∧ (base.x 3).toNat % 8 ≠ 0 ∧ (base.x 2).toNat % 4 ≠ 0 :=
  ⟨rfl, by decide +kernel, by decide +kernel⟩

theorem witness_AtomicUpdateValues : 4 ∈ [4, 8] ∧ 8 ∈ [4, 8] := by decide

/-- An application CSR in application mode, a system CSR and the last declared link-queue CSR in system mode; VTYPE written in
system mode; CYCLE and ENERGY. -/
theorem witness_CsrInstructions :
    CsrOpen base 0x003 ∧ CsrOpen sys 0x300 ∧ CsrOpen sys 0x40F ∧ CsrOpen sys 0x001 ∧ CsrOpen base 0x105 ∧ CsrOpen base 0x107
    ∧ Quiet base ∧ Quiet sys
    ∧ (sys.sysMode = true ∧ fld (0x32 : Word) 4 3 < 4 ∧ (0x32 : Word).getLsbD 7 = false ∧ fld (0x32 : Word) 4 3 ≤ sys.hart.sewMax) := by
  refine ⟨?_, ?_, ?_, ?_, ?_, ?_, rfl, rfl, by decide +kernel⟩ <;>
    exact ⟨by decide +kernel, by decide +kernel, by decide +kernel⟩

/-- Both modes; MSHAPE within its limits; an unbound endpoint whose key is free and whose key is held, enabled or not. -/
theorem witness_CsrStoresReadBack :
    let held : State := { sys with dir := [{ dir := false, key := 0, crew := 2, q := 0 }] }
    base.sysMode = false ∧ sys.sysMode = true ∧ shM sys ≤ 64 ∧ shN sys ≤ 64
    ∧ sys.hart.live = true ∧ (sys.lqEnd sys.crew.uid 15).st = .unbound
    ∧ bit (0 : Word) 55 = false ∧ bit (0x80000000000000 : Word) 55 = true
    ∧ ((sys.lqHolder false 0).isSome || decide (8192 ≤ sys.dir.length)) = false
    ∧ ((held.lqHolder false 0).isSome || decide (8192 ≤ held.dir.length)) = true ∧ 0 = sys.chipId := by decide +kernel

/-- A listed system address named in application mode; an address below and above a listed run. -/
theorem witness_PrivilegeTraps : base.sysMode = false ∧ csrListed 0x300 = true ∧ csrSystem 0x300 = true
    ∧ csrListed 0x40F = true ∧ csrSystem 0x40F = true ∧ csrListed 0x410 = false ∧ csrListed 0x008 = false := by decide +kernel

/-- An outer product in flight; a pending report with the greatest SUB. -/
theorem witness_TrapEntry :
    Quiet base ∧ (base.onHart fun h => { h with pend := [{ tile := 0, vals := [], flags := 0, holds := [] }] }).hart.pend ≠ []
    ∧ (base.onHart fun h => { h with imp := some { cause := .poison, sub := 15, tval := 0 } }).hart.imp
        = some { cause := .poison, sub := 15, tval := 0 } :=
  ⟨rfl, by decide, by decide⟩

/-- HCAP.FAULTLOCAL either way; a fault queue with one entry less than full, and a full one. -/
theorem witness_FetchFaults :
    base.hart.pend = [] ∧ (base.onCsr fun c => { c with hcap := 1 }).hart.csr.hcap.getLsbD 0 = true ∧ base.hart.csr.hcap.getLsbD 0 = false
    ∧ (let q (n : Nat) : State := { base with fq := [(0, List.replicate n { w0 := 0, w1 := 0, w2 := 0, w3 := 0 })] }
       (FMap.getD [] 0 (q 255).fq).length < 256 ∧ 256 ≤ (FMap.getD [] 0 (q 256).fq).length) := by decide +kernel

theorem witness_TrapReturn : sys.sysMode = true ∧ Quiet sys ∧ sys.hart.csr.tpc.toNat % 4 = 0
    ∧ (sys.onCsr fun c => { c with tpc := 3 }).hart.csr.tpc.toNat % 4 ≠ 0 := ⟨by decide, rfl, by decide, by decide⟩

/-- TRET out of system mode, and BKPT, a VADD whose group is off its boundary and an undefined encoding into it. -/
theorem witness_ModeChangesOnlyByTrapAndReturn :
    let goes (i : Instr) (s : State) (m : Bool) : Bool := match exec i s with
      | .next t => s.hart.live && t.hart.live && decide (t.cur = s.cur) && (t.sysMode == m)
      | _ => false
    (Instr.tret.isEvent = false ∧ sys.sysMode = true ∧ goes .tret sys false = true)
    ∧ (Instr.bkpt.isEvent = false ∧ base.sysMode = false ∧ goes .bkpt base true = true)
    ∧ ((Instr.vdecl 1 1 0).isEvent = false ∧ goes (.undefinedEncoding 0) base true = true ∧ goes (.vadd 31 30 (.v 29) .unmasked)
        (base.onCsr fun c => { c with vtype := 0x320 }) true = true) := by decide +kernel

theorem witness_HaltPulsePhase :
    let with_ (p : Poster) : State := base.onHart fun h => { h with
      posted := [{ tag := 0, va := 0, by_ := p, lo := 0, n := 1, ins := 0, bad := false }] }
    Quiet base ∧ InOrder base ∧ (with_ (.chan 3)).hart.awaits = false ∧ (with_ .hart).hart.awaits = true := ⟨rfl, ⟨rfl, rfl, rfl⟩, rfl, rfl⟩

/-- Every clause's kind and scope: a release and acquire at SYS scope, and at CORE scope, with a dirty line in the cache; a store of
the hart that is not complete, and one of a copy channel, for which no release waits. -/
theorem witness_FencesReleaseAndAcquire :
    let s := lineS base 159 5
    let with_ (p : Poster) : State := s.onHart fun h => { h with
      posted := [{ tag := 0, va := 0, by_ := p, lo := 0, n := 1, ins := 0, bad := false }] }
    s.crew.core < 160 ∧ CacheSound s ∧ Unheld s ∧ Quiet s ∧ s.hart.awaits = false ∧ 2 ≤ (3#2).toNat ∧ (3#2).toNat % 2 = 1 ∧ (3#2) ≠ 0
    ∧ (CacheSound (with_ .hart) ∧ (with_ .hart).hart.awaits = true) ∧ (with_ (.chan 3)).hart.awaits = false :=
  ⟨by decide, cacheSound_lineS rfl, unheld_of rfl, rfl, rfl, by decide, by decide, by decide, ⟨cacheSound_lineS rfl, rfl⟩, rfl⟩

/-- The last line of the shared store's first page, dirty in the cache, free and registered by another hart's copy; and a page at the
host aperture. -/
theorem witness_CacheMaintenance :
    (let s := lineS base 159 (0x700001FFFC / 64)
     s.crew.core < 160 ∧ CacheSound s ∧ Quiet s
     ∧ s.reach .cache (s.x 3 + BitVec.ofInt 64 (BitVec.toInt (3#12))).toNat 1 = .ok 0x700001FFFF ∧ s.place 0x700001FFFF = .mem 0x700001FFFF
     ∧ unfilled s (0x700001FFFF / 64 * 64) 64 = [])
    ∧ (let s : State := { lineS base 159 (0x700001FFFC / 64) with cregs := [{ slot := 64, chan := 0, die := 0, lo := 0x700001FFC0, hi := 0x700001FFC1 }] }
       s.stuck 159 (0x700001FFFF / 64) = true ∧ ∀ r ∈ s.cregs, r.slot ≠ s.cur)
    ∧ (let s : State := { base with tlb := [{ tenant := 0, asid := 0, page := 1, flags := 0x7D, frame := 0x6000000000, reach := 0 }] }
       s.reach .cache (s.x 4 + BitVec.ofInt 64 (BitVec.toInt (0#12))).toNat 1 = .ok 0x6000000000
       ∧ s.place 0x6000000000 = .aperture 0) :=
  ⟨⟨by decide, cacheSound_lineS rfl, rfl, by rfl, by decide +kernel, by decide +kernel⟩, by decide +kernel, by rfl, by decide +kernel⟩

/-- A TINV that has not started, beside an invalidation of the host's, and one that has been answered. -/
theorem witness_TranslationInvalidation :
    let i : Inval := { host := true, slot := 0, op := 1, tenant := 0, asid := 0, page := 0 }
    let s : State := { sys with invals := [i] }
    let t := sys.onHart fun h => { h with answers := [(0, .value 0)] }
    s.sysMode = true ∧ Quiet s ∧ s.hart.conv = none ∧ FMap.find 0 s.hart.answers = none
    ∧ (∀ v ∈ s.invals, v.host = true ∨ v.slot ≠ s.cur)
    ∧ t.sysMode = true ∧ Quiet t ∧ t.hart.conv = none ∧ FMap.find 0 t.hart.answers = some (.value 0) :=
  ⟨by decide, rfl, rfl, by decide, by decide, by decide, rfl, rfl, by decide⟩

/-- Queue 7 unbound and empty, bound to this hart with 15 and with 16 entries, and bound to another hart; the queue number 8. -/
theorem witness_QueueRegisters :
    let q (n : Nat) (o : Option Nat) : State := base.onCrew fun c =>
      { c with qs := c.qs.set 7 { entries := List.replicate n 1, writer := o, reader := o } }
    let at7 (s : State) : QReg := s.crew.qs[7]
    Quiet base ∧ base.hart.stq = [] ∧ (7#5).toNat < 8 ∧ 8 ≤ (8#5).toNat
    ∧ ((at7 (q 0 none)).writer = none ∧ (at7 (q 0 none)).reader = none ∧ (at7 (q 0 none)).entries = [])
    ∧ ((at7 (q 15 (some 0))).writer = some base.hart.idx ∧ (at7 (q 15 (some 0))).entries.length < 16
        ∧ (at7 (q 15 (some 0))).entries = 1 :: List.replicate 14 1)
    ∧ 16 ≤ (at7 (q 16 (some 0))).entries.length
    ∧ ((at7 (q 1 (some 1))).writer ≠ none ∧ (at7 (q 1 (some 1))).writer ≠ some base.hart.idx
        ∧ (at7 (q 1 (some 1))).reader ≠ none ∧ (at7 (q 1 (some 1))).reader ≠ some base.hart.idx) := by
  refine ⟨rfl, rfl, ?_⟩; decide +kernel

/-- Every operand at its greatest value; words that decode. -/
theorem witness_EncodeDecodeRoundTrip :
    (Instr.vldx 31 31 31 3 true true (.masked 7)).wf = true
    ∧ decode (encode (.vldx 31 31 31 3 true true (.masked 7))) = .ok (.vldx 31 31 31 3 true true (.masked 7)) :=
  ⟨by decide +kernel, by rfl⟩

theorem witness_DecodeAcceptsOnlyEncodings : decode [0x67805284, 0] = .ok (.addi 5 5 0x678) := by rfl

/-! Vector statements: SEW 32 with n = MVL = 64 where nothing else is said, and the second element under a mask m7. -/

/-- `base` with VL and VTYPE. -/
def vec (vl vt : Word) : State := (base.onCsr fun c => { c with vl, vtype := vt }).setMaskBit 7 1 true

def namedB (s : State) (gs : List (Nat × Nat)) (ms : List Nat) : Bool :=
  s.groupsOk gs && ms.all (fun r => decide (r < 8)) && decide (s.nElems ≤ s.mvl) && decide (s.hart.vlenb ≤ 2 ^ 15)

theorem named_of {s : State} {gs : List (Nat × Nat)} {ms : List Nat} (h : namedB s gs ms = true) : Named s gs ms := by
  simp only [namedB, Bool.and_eq_true, List.all_eq_true, decide_eq_true_eq] at h
  exact ⟨h.1.1.1, h.1.1.2, h.1.2, h.2⟩

def readyB (s : State) (gs : List (Nat × Nat)) (ms : List Nat) : Bool :=
  namedB s gs ms && decide (s.vstart < s.nElems) && s.hart.limit.isNone && s.hart.conv.isNone

theorem ready_of {s : State} {gs : List (Nat × Nat)} {ms : List Nat} (h : readyB s gs ms = true) : VecReady s gs ms := by
  simp only [readyB, Bool.and_eq_true, decide_eq_true_eq, Option.isNone_iff_eq_none] at h
  exact ⟨named_of h.1.1.1, h.1.1.2, h.1.2, h.2⟩

theorem whole_of {s : State} {gs : List (Nat × Nat)} {ms : List Nat}
    (h : (namedB s gs ms && decide (0 < s.nElems ∧ s.vstart = 0)) = true) : WholeReady s gs ms := by
  simp only [Bool.and_eq_true, decide_eq_true_eq] at h
  exact ⟨named_of h.1, h.2.1, h.2.2⟩

theorem elemPois_of {s : State} (h : s.hart.vpois = []) (g w i : Nat) : s.elemPois g w i = false := by
  simp only [State.elemPois, h, List.any_eq_false]
  intro k _; simp [FMap.getD, FMap.find]

theorem clean_of {s : State} {m : VMask} {g : Reg} {w : Nat} (h : s.hart.vpois = []) : Clean s m g w :=
  fun i _ _ _ => elemPois_of h g.toNat w i

theorem cleanBelow_of {s : State} {g : Reg} {w n : Nat} (h : s.hart.vpois = []) : CleanBelow s g w n :=
  fun i _ => elemPois_of h g.toNat w i

/-- 64 fetched elements. -/
def full : FMap Nat := (List.range 64).map fun i => (i, 0xFFFFFFFF)

/-- A read stream at port 7 with 64 elements of 32 bits left and fetched. -/
def fed (s : State) : State :=
  s.setStream 7 { Stream.reset with st := .read, c0 := 64, c1 := 1, c2 := 1, width := 4, buf := full }

theorem fed_ready {s : State} (m : VMask) (h : s.ebytes = 4) (n : s.nElems = 64) : Src1Ready (fed s) m 4 (.ds 7) := by
  have e : (fed s).stream 7 =
      { Stream.reset with st := .read, c0 := 64, c1 := 1, c2 := 1, width := 4, buf := full } := by
    simp [fed, State.setStream, State.stream, State.onHart]
  have e1 : (fed s).ebytes = s.ebytes := rfl
  have e2 : (fed s).nElems = s.nElems := rfl
  simp only [Src1Ready, e, e1, e2, h, n]
  refine ⟨trivial, trivial, by decide, ?_⟩
  have f : ∀ i, i < 64 → FMap.find (0 + i) full = some 0xFFFFFFFF := by decide
  exact fun i hi => ⟨_, f i hi, by decide⟩

/-- Groups of SEW, then of two widths with LMUL 4, under each form of first source. -/
theorem witness_VectorIntegerResults :
    let s := vec 64 0x20
    let t := vec 64 0x220
    let g (x : Reg) (w : Nat) : Nat × Nat := (x.toNat, w)
    let m : VMask := .masked 7
    (VecReady s (([g 31 4] ++ (Src1.v 0).group 4) ++ [g 30 4]) m.reads ∧ Clean s m 31 4 ∧ Src1Ready s m 4 (.v 0))
    ∧ (VecReady s (([g 31 4] ++ (Src1.x 2).group 4) ++ [g 31 4]) [] ∧ Src1Ready s .unmasked 4 (.x 2)
        ∧ Src1Ready s .unmasked 4 (.imm 0xFFFF))
    ∧ (VecReady (fed s) (([g 31 4] ++ (Src1.ds 7).group 4) ++ [g 30 4]) m.reads ∧ Src1Ready (fed s) m 4 (.ds 7))
    ∧ (t.ebytes ≤ 4 ∧ t.lmul ≤ 4 ∧ VecReady t (([g 8 8] ++ (Src1.v 16).group 4) ++ [g 20 4]) m.reads ∧ Clean t m 8 8
        ∧ Src1Ready t m 4 (.v 16))
    ∧ (VecReady t (([g 16 4] ++ (Src1.v 20).group 4) ++ [g 24 8]) m.reads ∧ Clean t m 16 4)
    ∧ (VecReady s (([g 31 4] ++ (Src1.v 0).group 4) ++ [g 30 4]) [7] ∧ Clean s .unmasked 31 4 ∧ Src1Ready s .unmasked 4 (.v 0))
    ∧ VecReady s ((Src1.v 0).group 4 ++ [g 30 4]) m.reads
    ∧ (VecReady s [g 31 4, g 30 4] m.reads ∧ s.elemPois 31 4 (xiVal s (.imm 63)) = false ∧ xiVal s (.imm 63) < s.mvl
        ∧ ¬xiVal s (.x 1) < s.mvl) :=
  ⟨⟨ready_of (by decide +kernel), clean_of rfl, clean_of rfl⟩,
   ⟨ready_of (by decide +kernel), trivial, trivial⟩,
   ⟨ready_of (by decide +kernel), fed_ready _ (by decide +kernel) (by decide +kernel)⟩,
   ⟨by decide +kernel, by decide +kernel, ready_of (by decide +kernel), clean_of rfl, clean_of rfl⟩,
   ⟨ready_of (by decide +kernel), clean_of rfl⟩,
   ⟨ready_of (by decide +kernel), clean_of rfl, clean_of rfl⟩,
   ready_of (by decide +kernel),
   ready_of (by decide +kernel), elemPois_of rfl .., by decide +kernel, by decide +kernel⟩

/-- SEW 16, the least that the forms of the first clause take; three sources; a source twice as wide; SEW 32 for VPIVDIV. -/
theorem witness_VectorFloatResults :
    let h := vec 128 0x10
    let s := vec 64 0x20
    let m : VMask := .masked 7
    (2 ≤ h.ebytes ∧ VecReady h (([(31, 2)] ++ (Src1.v 0).group 2) ++ [(30, 2)]) m.reads ∧ Clean h m 31 2 ∧ Src1Ready h m 2 (.v 0)
      ∧ VecReady h [(31, 2), (30, 2)] m.reads
      ∧ VecReady h (([(31, 2), (29, 2)] ++ (Src1.v 0).group 2) ++ [(30, 2)]) m.reads ∧ Clean h m 29 2)
    ∧ (VecReady s [(30, srcBytes 3), (29, 4)] m.reads ∧ Clean s m 30 (srcBytes 3)
      ∧ VecReady s [(30, srcBytes 8), (29, 4)] m.reads ∧ Clean s m 30 (srcBytes 8))
    ∧ (4 ≤ s.ebytes ∧ VecReady s [(31, 4), (30, 4)] m.reads ∧ Clean s m 31 4) :=
  ⟨⟨by decide +kernel, ready_of (by decide +kernel), clean_of rfl, clean_of rfl, ready_of (by decide +kernel),
    ready_of (by decide +kernel), clean_of rfl⟩,
   ⟨ready_of (by decide +kernel), clean_of rfl, ready_of (by decide +kernel), clean_of rfl⟩,
   by decide +kernel, ready_of (by decide +kernel), clean_of rfl⟩

theorem witness_VectorCompareAndMaskResults :
    let s := vec 64 0x20
    let m : VMask := .masked 7
    (VecReady s ([(31, 4)] ++ (Src1.v 0).group 4) (m.reads ++ [7]) ∧ Clean s m 31 4 ∧ Src1Ready s m 4 (.v 0))
    ∧ VecReady s [] [7, 0, 7] :=
  ⟨⟨ready_of (by decide +kernel), clean_of rfl, clean_of rfl⟩, ready_of (by decide +kernel)⟩

/-- The last element poisoned, as the first active one that is; VL 0, and VSTART equal to n. -/
theorem witness_VectorTrapsAndEmptyExecutions :
    (let s := (vec 64 0x20).onHart fun h => { h with vpois := [(31 * 256 + 255, true)] }
     let bad (i : Nat) : Bool := s.elemPois 31 4 i || s.elemPois 0 4 i
     VecReady s [(31, 4), (0, 4), (30, 4)] [] ∧ s.vstart ≤ 63 ∧ 63 < s.nElems ∧ s.active .unmasked 63 = true ∧ bad 63 = true
     ∧ ∀ i, i < 63 → bad i = false)
    ∧ (Named (vec 0 0x20) [(6, 4), (31, 4), (7, 4)] [] ∧ (vec 0 0x20).nElems = 0)
    ∧ (let s := (vec 64 0x20).setVstart 64
       Named s [(6, 4), (31, 4), (7, 4)] [] ∧ s.nElems ≤ s.vstart ∧ 2 ≤ s.ebytes) :=
  ⟨⟨ready_of (by decide +kernel), by decide +kernel, by decide +kernel, by decide +kernel, by decide +kernel, by decide +kernel⟩,
   ⟨named_of (by decide +kernel), by decide +kernel⟩, named_of (by decide +kernel), by decide +kernel, by decide +kernel⟩

theorem witness_VectorReductions :
    let s := vec 64 0x20
    let m : VMask := .masked 7
    WholeReady s (([(31, 4)] ++ (VOrX.v 0).group 4) ++ [(30, 4)]) m.reads ∧ s.hart.limit = none ∧ s.hart.conv = none
    ∧ Clean s m 31 4 ∧ s.elemPois 0 4 0 = false ∧ WholeReady s (([(31, 4)] ++ (VOrX.x 2).group 4) ++ [(31, 4)]) [] ∧ 2 ≤ s.ebytes :=
  ⟨whole_of (by decide +kernel), rfl, rfl, clean_of rfl, elemPois_of rfl .., whole_of (by decide +kernel), by decide +kernel⟩

/-- The last element below MVL, and one beyond it. -/
theorem witness_VectorToScalarResults :
    let s := vec 64 0x20
    let m : VMask := .masked 7
    Quiet s ∧ WholeReady s [] (0 :: m.reads) ∧ WholeReady s [(31, 4)] [] ∧ s.elemPois 31 4 (xiLow s (.imm 63) 4) = false
    ∧ xiLow s (.imm 63) 4 < s.mvl ∧ ¬xiLow s (.imm 64) 4 < s.mvl ∧ WholeReady s [(31, 4)] m.reads ∧ Clean s m 31 4 :=
  ⟨rfl, whole_of (by decide +kernel), whole_of (by decide +kernel), elemPois_of rfl .., by decide +kernel, by decide +kernel,
   whole_of (by decide +kernel), clean_of rfl⟩

/-- The order of naturals on pairs with equal values. -/
theorem witness_RankOrderSorts :
    let above (x y : Nat) : Bool := decide (y < x)
    (∀ x, above x x = false) ∧ (∀ x y z, above x y = true → above y z = true → above x z = true)
    ∧ (∀ x y z, above x y = false → above y z = false → above x z = false)
    ∧ [(0, 5), (3, 7), (4, 5)].Pairwise (fun p q : Nat × Nat => p.1 < q.1) := by
  refine ⟨?_, ?_, ?_, by decide⟩
  · intro x; simp
  · intro x y z; simp only [decide_eq_true_eq]; omega
  · intro x y z; simp only [decide_eq_false_iff_not]; omega

/-- Disjoint groups; for VTOPK also indices apart from values. -/
theorem witness_VectorPermutations :
    let s := vec 64 0x20
    let m : VMask := .masked 7
    let ready (gs : List (Nat × Nat)) (ms : List Nat) : Prop := WholeReady s (gs ++ [(30, 4)]) ms ∧ CleanBelow s 31 4 s.mvl
    ready [] (0 :: m.reads) ∧ ready [(31, 4)] m.reads ∧ ready [(31, 4), (0, 4)] m.reads ∧ CleanBelow s 0 4 s.nElems
    ∧ ready [(31, 4)] [7] ∧ s.vrc = 1 ∧ WholeReady s [(30, 4)] [] ∧ s.nElems ≤ 2 ^ 32 ∧ ready [(31, 4)] (0 :: m.reads)
    ∧ WholeReady s ([(31, 4)] ++ [(30, 4), (29, 4)]) m.reads ∧ s.groupsMeet (30, 4) (29, 4) = false :=
  ⟨⟨whole_of (by decide +kernel), cleanBelow_of rfl⟩, ⟨whole_of (by decide +kernel), cleanBelow_of rfl⟩, ⟨whole_of (by decide +kernel), cleanBelow_of rfl⟩, cleanBelow_of rfl,
   ⟨whole_of (by decide +kernel), cleanBelow_of rfl⟩, by decide +kernel, whole_of (by decide +kernel), by decide +kernel,
   ⟨whole_of (by decide +kernel), cleanBelow_of rfl⟩, whole_of (by decide +kernel), by decide +kernel⟩

/-- SEW 64 at its limit; a configured port alone on its engine, and one that is not configured; VDECL at and beyond the limits; port
states that bind at once and one with an element unwritten. -/
theorem witness_VectorConfiguration :
    let s := base
    let w : State := s.setStream 7 { Stream.reset with st := .write, pend := [{ va := 0, pa := 0x7000000000, n := 4, v := 1, ins := 0 }] }
    let out : State := (s.setStream 7 { Stream.reset with st := .write }).onHart fun h => { h with
      posted := [{ tag := 0, va := 0, by_ := .stream 7, lo := 0, n := 4, ins := 0, bad := false }] }
    let v : Word := 0x30
    (fld v 4 3 < 4 ∧ v.getLsbD 7 = false ∧ fld v 4 3 ≤ s.hart.sewMax)
    ∧ ((fed s).stream 7).st = .read
    ∧ (∀ h ∈ (fed s).crewHarts s.crew, ∀ q : BitVec 3, q.toNat / 4 = 1 → (h.1 = (fed s).cur ∧ q = 7) ∨ h.2.ds[q.toNat].st ≠ .read)
    ∧ (s.stream 7).st = .unconfig ∧ Quiet s
    ∧ (8 * ((3#2).toNat + 1) ≤ s.hart.nreg ∧ (3#2).toNat ≤ s.hart.sewMax ∧ 256 ≤ vlenbOf s.crew.lanes s.crew.hg 32)
    ∧ (s.onHart fun h => { h with nreg := 24 }).hart.nreg < 8 * ((3#2).toNat + 1)
    ∧ (fld (s.x 0) 48 16 = 0 ∧ fld (s.x 0) 60 4 = 0 ∧ ((fed s).stream 7).st = .read)
    ∧ ((w.stream 7).st = .write ∧ (w.stream 7).pend ≠ [])
    ∧ (out.stream 7).st = .write ∧ (out.stream 7).pend = [] ∧ out.hart.streamOut 7 = true :=
  ⟨by decide +kernel, by decide +kernel, by decide +kernel, by decide +kernel, rfl, by decide +kernel, by decide +kernel,
   by decide +kernel, by decide +kernel, by decide +kernel⟩

/-- The two elements of `vec 2 …`. -/
theorem two {s : State} {m : VMask} {P : Nat → Prop} (h : s.nElems = 2) (h0 : P 0) (h1 : P 1) :
    ∀ i, s.vstart ≤ i → i < s.nElems → s.active m i = true → P i := by
  intro i _ hi _
  rw [h] at hi
  have : i = 0 ∨ i = 1 := by omega
  rcases this with rfl | rfl <;> assumption

/-- The pieces of two elements. -/
def pair {α : Type} (a b : α) (i : Nat) : α := if i = 0 then a else b

/-- A hart that may leave a barrier; one that arrives while hart 15 of its crew has not; counter 1023 of the crew's tenant, and of
another; a LAUNCH of a valid packet of zero counts, and of an all-zero one, with the queue empty; a packet off its boundary. -/
theorem witness_BarriersCountersLaunch :
    let go := base.onHart fun h => { h with barGo := true }
    let arrive : State := { base with harts := [(47, { hart0 with idx := 15 })] }
    let foreign : State := { base with regs := [(rCTROWN, 0xF000000000000000), (rTENPT 0, 0x8000000000000000)] }
    let packet : State := { base with mem := [(0x7000000000, 0x11), (0x7000000020, 0x01)] }
    let launches (s : State) (e : Nat) : Bool :=
      match release 3 s with
      | .error _ => false
      | .ok (_, s1) =>
        match packetWords (s.x 1) (List.range 8) s1 with
        | .error _ => false
        | .ok (ws, u) => decide (u.queueUsed 79 < 32)
          && decide (u.validate u.crew.tenant 79 ws (decide (u.dqOwner 15 = u.crew.tenant) && u.tenEn u.crew.tenant) = e)
    base.crew.core < 160 ∧ CacheSound base ∧ Quiet base ∧ Unheld base ∧ go.hart.barGo = true
    ∧ (arrive.hart.live = true ∧ arrive.hart.barAt = none ∧ arrive.hart.barGo = false
        ∧ ∃ p ∈ arrive.crewHarts arrive.crew, p.1 ≠ arrive.cur ∧ p.2.barAt ≠ some (false, 15) ∧ p.2.halted = false)
    ∧ (base.ctrOwner 1023 = base.crew.tenant ∧ base.reaches 1023 (base.x 0).toNat = true ∧ base.hart.awaits = false ∧ base.launches = [])
    ∧ foreign.ctrOwner 1023 ≠ foreign.crew.tenant
    ∧ ((base.x 1).toNat % 64 = 0 ∧ launches packet 0 = true ∧ launches base 3 = true)
    ∧ (base.x 2).toNat % 64 ≠ 0 := by
  refine ⟨by decide, cacheSound_of rfl, rfl, unheld_of rfl, rfl, ⟨rfl, rfl, rfl, ?_⟩, by decide +kernel, by decide +kernel, by decide +kernel,
    by decide +kernel⟩
  exact ⟨(47, { hart0 with idx := 15 }), by decide +kernel, by decide +kernel, by decide, by decide⟩

/-- Unit stride, with element 0 across the page boundary; a stride; an index group; rows and columns; fault-only-first. -/
theorem witness_VectorLoads :
    let s := vec 2 0x20
    let t := (vec 1 0x20).onCsr fun c => { c with vrc := 2, vrp := 64 }
    let u := vec 2 0x10
    let m : VMask := .unmasked
    let home (o : Nat) (n : Nat) : List (Nat × Nat × Place) := [(0, n, .mem (0x7000000000 + o))]
    let P (s : State) (addr : Nat → Word) (n : Nat) (ps : Nat → List (Nat × Nat × Place)) : Prop :=
      ∀ i, s.vstart ≤ i → i < s.nElems → s.active m i = true → Lands s .vecLd .read (addr i) n (ps i)
    s.crew.core < 160 ∧ CacheSound s ∧ Addressed s ∧ s.vrc = 1
    ∧ (VecReady s ([] ++ [(31, 4)]) m.reads
        ∧ P s (fun i => s.x 3 + (2#16).signExtend 64 + nw (i * 4)) 4
            (pair [(0, 2, .mem 0x700001FFFE), (2, 2, .mem 0x7000020000)] (home 0x20002 4)))
    ∧ P s (fun i => s.x 1 + (0#16).signExtend 64 + nw i * s.x 2) 4 (pair (home 0 4) (home 2 4))
    ∧ (Clean s m 8 2 ∧ VecReady s ([(8, 2)] ++ [(31, 4)]) m.reads
        ∧ P s (fun i => s.x 1 + nw (s.elem 8 2 i)) 4 (pair (home 0 4) (home 0 4)))
    ∧ (VecReady t ([] ++ [(31, 4)]) m.reads
        ∧ P t (fun i => t.x 1 + (0#16).signExtend 64 + nw (i / t.vl) * t.hart.csr.vrp + nw (i % t.vl * 4)) 4 (pair (home 0 4) (home 64 4)))
    ∧ (u.ebytes ≤ 2 ∧ VecReady u ([] ++ [(31, 2)]) m.reads
        ∧ P u (fun i => u.x 1 + (0#16).signExtend 64 + nw (i % u.vl) * u.hart.csr.vrp + nw (i / u.vl * 2)) 2 (pair (home 0 2) (home 0 2))) :=
  ⟨by decide, cacheSound_of rfl, .inl rfl, by decide +kernel,
   ⟨ready_of (by decide +kernel), two (by decide +kernel) (lands_of (by decide +kernel)) (lands_of (by decide +kernel))⟩,
   two (by decide +kernel) (lands_of (by decide +kernel)) (lands_of (by decide +kernel)),
   ⟨clean_of rfl, ready_of (by decide +kernel), two (by decide +kernel) (lands_of (by decide +kernel)) (lands_of (by decide +kernel))⟩,
   ⟨ready_of (by decide +kernel), two (by decide +kernel) (lands_of (by decide +kernel)) (lands_of (by decide +kernel))⟩,
   by decide +kernel, ready_of (by decide +kernel),
   two (by decide +kernel) (lands_of (by decide +kernel)) (lands_of (by decide +kernel))⟩

/-- The same addresses stored to, and a write stream with exactly n elements left. -/
theorem witness_VectorStores :
    let s := vec 2 0x20
    let t := (vec 1 0x20).onCsr fun c => { c with vrc := 2, vrp := 64 }
    let m : VMask := .unmasked
    let home (o : Nat) (n : Nat) : List (Nat × Nat × Place) := [(0, n, .mem (0x7000000000 + o))]
    let P (s : State) (addr : Nat → Word) (ps : Nat → List (Nat × Nat × Place)) : Prop :=
      ∀ i, s.vstart ≤ i → i < s.nElems → s.active m i = true → Lands s .vecSt .write (addr i) 4 (ps i)
    let q : Stream := { Stream.reset with
      st := .write, base := 0x1FFFF000000000, c0 := 3, c1 := 1, c2 := 1, s0 := 4, width := 4, pos := 1 }
    s.crew.core < 160 ∧ CacheSound s ∧ Addressed s ∧ VecReady s ((31, 4) :: []) m.reads ∧ Clean s m 31 4
    ∧ P s (fun i => s.x 3 + (2#16).signExtend 64 + nw (i * 4)) (pair [(0, 2, .mem 0x700001FFFE), (2, 2, .mem 0x7000020000)] (home 0x20002 4))
    ∧ P s (fun i => s.x 1 + (0#16).signExtend 64 + nw i * s.x 2) (pair (home 0 4) (home 2 4))
    ∧ (Clean s m 8 2 ∧ VecReady s ((31, 4) :: [(8, 2)]) m.reads ∧ P s (fun i => s.x 1 + nw (s.elem 8 2 i)) (pair (home 0 4) (home 0 4)))
    ∧ (VecReady t ((31, 4) :: []) m.reads ∧ Clean t m 31 4
        ∧ P t (fun i => t.x 1 + (0#16).signExtend 64 + nw (i / t.vl) * t.hart.csr.vrp + nw (i % t.vl * 4)) (pair (home 0 4) (home 64 4)))
    ∧ (VecReady (s.setStream 7 q) [(31, 4)] [] ∧ CleanBelow (s.setStream 7 q) 31 4 2 ∧ (s.setStream 7 q).stream 7 = q
        ∧ (s.setStream 7 q).nElems ≤ q.left
        ∧ ∀ i, i < 2 → Lands (s.setStream 7 q) .vecSt .write (q.addr (q.pos + i)) 4 (pair (home 4 4) (home 8 4) i)) := by
  refine ⟨by decide, cacheSound_of rfl, .inl rfl, ready_of (by decide +kernel), clean_of rfl,
    two (by decide +kernel) (lands_of (by decide +kernel)) (lands_of (by decide +kernel)),
    two (by decide +kernel) (lands_of (by decide +kernel)) (lands_of (by decide +kernel)),
    ⟨clean_of rfl, ready_of (by decide +kernel), two (by decide +kernel) (lands_of (by decide +kernel)) (lands_of (by decide +kernel))⟩,
    ⟨ready_of (by decide +kernel), clean_of rfl, two (by decide +kernel) (lands_of (by decide +kernel)) (lands_of (by decide +kernel))⟩,
    ready_of (by decide +kernel), cleanBelow_of rfl, by decide +kernel, by decide +kernel, ?_⟩
  intro i hi
  have : i = 0 ∨ i = 1 := by omega
  rcases this with rfl | rfl <;> exact lands_of (by decide +kernel)

/-- `vec 2 0x20` with indices 0 and 4 in v8, and a chip table of this chip alone in the largest blocks. -/
def ix : State :=
  (vec 2 0x20).onHart fun h => { h with v := [(8 * 256 + 4, 4)], csr := { h.csr with ownmap := 0x8000000000000014 + 0x1FFFF000010000 * 32 } }

/-- Two locations that do not overlap; both places of the operand; indices within one block of 2^20. -/
theorem witness_VectorMemoryOperations :
    let s := ix
    let m : VMask := .unmasked
    let home (o : Nat) (n : Nat) : List (Nat × Nat × Place) := [(0, n, .mem (0x7000000000 + o))]
    let pa : Nat → Nat := pair 0x7000000000 0x7000000004
    let va (i : Nat) : Word := s.x 1 + nw (s.elem 8 4 i)
    let active (P : Nat → Prop) : Prop := ∀ i, s.vstart ≤ i → i < s.nElems → s.active m i = true → P i
    let lands (addr : Nat → Word) (o : Nat → Nat) (i : Nat) : Prop :=
      (addr i).toNat % 4 = 0 ∧ Lands s .atomic .write (addr i) 4 [(0, 4, .mem (o i))]
    s.crew.core < 160 ∧ CacheSound s ∧ s.hart.pairs = [] ∧ s.hart.lockRun = none ∧ Unheld s ∧ 4 ≤ s.ebytes ∧ Clean s m 8 4
    ∧ (VecReady s (((8, 4) :: (VOrX.v 0).group 4) ++ [(31, 4)]) m.reads ∧ Clean s m 0 4 ∧ Clean s m 31 4
        ∧ s.hart.csr.amomode.getLsbD 0 = false ∧ active (lands va pa))
    ∧ VecReady s ((8, 4) :: (VOrX.x 2).group 4) m.reads
    ∧ (ownEn s = true ∧ ownBlk s = 20
        ∧ active (lands (fun i => s.x 1 + nw (localIdx s (s.elem 8 4 i) * 4)) (pair 0x7000000000 0x7000000010))
        ∧ active (fun i => Lands s .vecLd .read (nw (ownTab s + 2 * chipSlot s (s.elem 8 4 i))) 2 (home 0x10000 2)
            ∧ seenPieces s (home 0x10000 2) % 2 ^ 12 = s.chipId))
    ∧ (active fun i => active fun j => va i ≠ va j → pa i + 4 ≤ pa j ∨ pa j + 4 ≤ pa i)
    ∧ WholeReady s [(8, 4)] (m.reads ++ [7]) ∧ WholeReady s [(8, 4)] m.reads := by
  have n2 : ix.nElems = 2 := by decide +kernel
  refine ⟨by decide, cacheSound_of rfl, rfl, rfl, unheld_of rfl, by decide +kernel, clean_of rfl,
    ⟨ready_of (by decide +kernel), clean_of rfl, clean_of rfl, by decide +kernel,
      two n2 ⟨by decide +kernel, lands_of (by decide +kernel)⟩ ⟨by decide +kernel, lands_of (by decide +kernel)⟩⟩,
    ready_of (by decide +kernel),
    ⟨by decide +kernel, by decide +kernel,
      two n2 ⟨by decide +kernel, lands_of (by decide +kernel)⟩ ⟨by decide +kernel, lands_of (by decide +kernel)⟩,
      two n2 ⟨lands_of (by decide +kernel), by decide +kernel⟩ ⟨lands_of (by decide +kernel), by decide +kernel⟩⟩,
    ?_, whole_of (by decide +kernel), whole_of (by decide +kernel)⟩
  exact two n2 (two n2 (by decide +kernel) (by decide +kernel)) (two n2 (by decide +kernel) (by decide +kernel))

/-- Endpoints of the crew: link queue 0 BOUND for sending with one credit, 1 with none, 15 receiving with the entry `e`, 14 empty. -/
def linked (s : State) (e : TileMsg) : State :=
  s.onCrew fun c => { c with lq :=
    [(0, { LqEnd.reset with st := .bound, en := true, dir := true, credit := 1 }),
     (1, { LqEnd.reset with st := .bound, en := true, dir := true }),
     (14, { LqEnd.reset with st := .bound, en := true }),
     (15, { LqEnd.reset with st := .bound, en := true, held := [e] })] }

/-- A message of 64 rows and 64 columns of a format of `eb` bytes, all zero. -/
def message (fmt eb rows cols : Nat) : TileMsg :=
  { key := 0, rows, cols, fmt, bytes := eb * rows * cols, zeroOk := true, data := List.replicate (eb * rows * cols) 0, chip := 0, skey := 0,
    tenant := 0, viaPort := false, tag := 0 }

/-- With all eight tiles and a shape whose K × M is MVL. -/
def tiled (s : State) : State :=
  s.onHart fun h => { h with tiles := 8, csr := { h.csr with mshape := 0x0000004000024040, mpred := 0x4040 } }

theorem tilePois_of {s : State} (h : s.hart.accPois = []) (t r c : Nat) : tilePois s t r c = false := by
  simp [tilePois, h, FMap.getD]

/-- One message of a register group whole, a tile whole, the greatest format a tile takes, an empty queue, a queue with no credit. -/
theorem witness_LinkQueueTransfers :
    let s := linked (vec 64 0x20) (message 6 4 1 64)
    let t := linked (tiled (vec 64 0x20)) (message 6 4 64 64)
    s.hart.live = true ∧ s.crew.core < 160 ∧ s.hart.conv = none ∧ s.hart.awaits = false ∧ InOrder s ∧ Unheld s
    ∧ (queueOf s 0).kept ≠ some s.hart.idx ∧ Named s [(31, 4)] [] ∧ 0 < s.nElems ∧ s.nElems * s.ebytes ≤ 16384 ∧ CleanBelow s 31 4 64 ∧ MaySend s 0
    ∧ ((queueOf s 1).st = .bound ∧ (queueOf s 1).dir = true ∧ (queueOf s 1).credit = 0 ∧ (1#5).toNat < s.crew.lqs)
    ∧ (TileReady t 7 ∧ MaySend t 0 ∧ 0 < msgRows t true ∧ 0 < msgCols t true ∧ ∀ r c, tilePois t 7 r c = false)
    ∧ (MayTake s 15 (message 6 4 1 64) [] ∧ (message 6 4 1 64).bytes = s.lmul * s.hart.vlenb
        ∧ (message 6 4 1 64).data.length = (message 6 4 1 64).bytes)
    ∧ (MayTake t 15 (message 6 4 64 64) [] ∧ (message 6 4 64 64).fmt ≤ 6 ∧ (message 6 4 64 64).rows ≤ 64 ∧ (message 6 4 64 64).cols ≤ 64)
    ∧ ((queueOf s 14).st = .bound ∧ (queueOf s 14).dir = false ∧ (queueOf s 14).held = [] ∧ (14#5).toNat < s.crew.lqs) :=
  ⟨rfl, by decide, rfl, rfl, ⟨rfl, rfl, rfl⟩, unheld_of rfl, by decide +kernel, named_of (by decide +kernel), by decide +kernel,
   by decide +kernel, cleanBelow_of rfl,
   ⟨by decide +kernel, by decide +kernel, by decide +kernel, by decide +kernel, by decide +kernel, by decide +kernel, by decide +kernel⟩,
   by decide +kernel,
   ⟨⟨by decide, by decide +kernel, rfl⟩,
    ⟨by decide +kernel, by decide +kernel, by decide +kernel, by decide +kernel, by decide +kernel, by decide +kernel, by decide +kernel⟩,
    by decide +kernel, by decide +kernel, tilePois_of rfl 7⟩,
   ⟨⟨by decide +kernel, by decide +kernel, .inl (by decide +kernel), by decide +kernel, rfl, rfl⟩, by decide +kernel, by decide +kernel⟩,
   ⟨⟨by decide +kernel, by decide +kernel, .inl (by decide +kernel), by decide +kernel, rfl, rfl⟩, by decide, by decide, by decide⟩,
   by decide +kernel⟩

/-- All eight slots; a request for the most of everything; the greatest predicate with the bits above it clear; all 32 blocks. -/
theorem witness_MatrixConfiguration :
    let s := base
    let u := base.onHart fun h => { h with x := h.x.set 5 0x7FFFFFF }
    let w := (base.onHart fun h => { h with vlenb := 2048 })
    ((8#4) ≠ 0 ∧ (8#4).toNat ≤ 8 ∧ s.hart.tiles = 0 ∧ slotsUsed s + (8#4).toNat ≤ s.crew.accs) ∧ Quiet s
    ∧ (fld (u.x 5) 27 37 = 0 ∧ fld (u.x 5) 8 8 ≠ 0 ∧ fld (u.x 5) 0 8 ≠ 0)
    ∧ (fld (0x7F7F : Word) 15 49 = 0 ∧ (0x7F7F : Word).getLsbD 7 = false ∧ shM s ≤ 64 ∧ shN s ≤ 64)
    ∧ (w.groupsOk [(31, 4)] = true ∧ (32#6) ≠ 0 ∧ (32#6).toNat ≤ 32 ∧ (32#6).toNat * 64 ≤ w.lmul * w.hart.vlenb
        ∧ ∀ i, w.elemPois 31 1 i = false) :=
  ⟨by decide +kernel, rfl, by decide +kernel, by decide +kernel, by decide +kernel, by decide, by decide, by decide +kernel, elemPois_of rfl 31 1⟩

/-- Whether every row and column of a message reaches its two bytes in a row of the shared store. -/
def rowsLead (s : State) (a : Acc) (need : Need) (R C : Nat) (addr : Nat → Nat → Word) (ps : Nat → Nat → List (Nat × Nat × Place)) : Bool :=
  (List.range R).all fun p => (List.range C).all fun q => leads s a need (addr p q) 2 (ps p q)

theorem rows_of {s : State} {a : Acc} {need : Need} {R C : Nat} {addr : Nat → Nat → Word} {ps : Nat → Nat → List (Nat × Nat × Place)}
    (h : rowsLead s a need R C addr ps = true) : ∀ p q, p < R → q < C → Lands s a need (addr p q) 2 (ps p q) := fun p q hp hq =>
  lands_of (List.all_eq_true.mp (List.all_eq_true.mp h p (List.mem_range.mpr hp)) q (List.mem_range.mpr hq))

/-- Tile 7; a window whose last row and column are the tile's, and rows of BF16 at VRP 128, contiguous and by an index group. -/
theorem witness_TileMoves :
    let s := (tiled (vec 64 0x20)).onCsr fun c => { c with mpred := 0x0240, vrp := 128 }
    let i := s.onHart fun h => { h with v := [(8 * 256 + 4, 1)] }
    let w := originOf s (.imm 0x003F)
    let m : VMask := .masked 7
    let ps (p q : Nat) : List (Nat × Nat × Place) := [(0, 2, .mem (0x7000000000 + p * 128 + q * 2))]
    TileReady s 7 ∧ s.crew.core < 160 ∧ CacheSound s
    ∧ (VecReady s [(31, s.ebytes)] m.reads ∧ windowOk s w = true ∧ (∀ r c, tilePois s 7 r c = false) ∧ Clean s m 31 4)
    ∧ (msgRows s false = 64 ∧ msgCols s false = 2 ∧ mstart s = 0 ∧ s.hart.limit = none
        ∧ (∀ p q, p < 64 → q < 2 → Lands s .vecLd .read (s.x 1 + nw p * s.hart.csr.vrp + nw (q * 2)) 2 (ps p q))
        ∧ ∀ p q, p < 64 → q < 2 → Lands s .vecSt .write (s.x 1 + nw p * s.hart.csr.vrp + nw (q * 2)) 2 (ps p q))
    ∧ (i.groupsOk [(8, 4)] = true ∧ 2 * 4 ≤ i.groupRegs 4 * i.hart.vlenb ∧ CleanBelow i 8 4 2 ∧ msgRows i true = 2
        ∧ ∀ p q, p < 2 → q < 64 → Lands i .vecLd .read (i.x 1 + nw (i.elem 8 4 p) * i.hart.csr.vrp + nw (q * 2)) 2 (ps p q)) :=
  ⟨⟨by decide, by decide +kernel, rfl⟩, by decide, cacheSound_of rfl,
   ⟨ready_of (by decide +kernel), by decide +kernel, tilePois_of rfl 7, clean_of rfl⟩,
   ⟨by decide +kernel, by decide +kernel, by decide +kernel, rfl, rows_of (by decide +kernel), rows_of (by decide +kernel)⟩,
   by decide +kernel, by decide +kernel, cleanBelow_of rfl, by decide +kernel, rows_of (by decide +kernel)⟩

/-- Operands that fill their groups, from registers and from link queues with a queue to forward to; rows gathered from the shared
store, for A and for B; the point of a .FWD where every sum has been issued; an outer product in flight that writes the tile's last
element and holds an entry; the greatest accumulator. -/
theorem witness_OuterProducts :
    let e := message 3 2 2 64
    let s := linked (tiled (vec 64 0x10)) e
    let u := s.onCsr fun c => { c with vrp := 128 }
    let ps (_ q : Nat) : List (Nat × Nat × Place) := [(0, 2, .mem (0x7000000000 + q * 2))]
    let p : PendOp := { tile := 7, vals := [(4095, 1)], flags := 31, holds := [15] }
    let f : State := s.onCsr fun c => { c with mstart := 2 }
    let c : State := { s.onHart (fun h => { h with pend := [p] }) with input := some (.mopaComplete 32) }
    let groups (a b : MOperand) : Bool := s.groupsOk (MOperandGroup 2 a ++ MOperandGroup 2 b)
    s.hart.live = true ∧ s.hart.conv = none ∧ s.hart.limit = none ∧ (7#5).toNat < s.hart.tiles ∧ mopSew s false = true
    ∧ 0 < shK s ∧ shK s = 2 ∧ mstart s = 0 ∧ shK s * shM s = s.mvl ∧ shK s * shN s = s.mvl
    ∧ (groups (.v 0) (.v 31) = true ∧ groups (.v 0) (.lq 15) = true
        ∧ operandBad s (.v 0) 2 (shM s) 64 0 2 = false ∧ operandBad s (.v 31) 2 (shN s) 64 0 2 = false
        ∧ MayTake s 15 e [] ∧ e.rows = shK s ∧ e.cols = shNreq s ∧ e.cols = shM s ∧ e.fmt = mopCode s false ∧ MaySend s 0
        ∧ ∀ i j, tilePois s 7 i j = false)
    ∧ (s.groupsOk [(31, 2), (8, 4)] = true ∧ shK s * 4 ≤ s.groupRegs 4 * s.hart.vlenb ∧ (∀ k, s.elemPois 8 4 k = false)
        ∧ s.crew.core < 160 ∧ CacheSound s ∧ predRows s = 64 ∧ predCols s = 64
        ∧ ∀ k q, k < 2 → q < 64 → Lands u .gather .read (u.x 1 + nw (u.elem 8 4 k) * u.hart.csr.vrp + nw (q * 2)) 2 (ps k q))
    ∧ (mstart f = shK f ∧ MayTake f 15 e [] ∧ MaySend f 0 ∧ (queueOf f 0).pchip = f.chipId ∧ f.hart.pend = [])
    ∧ (c.hart.pend = [p] ∧ (∀ v ∈ p.vals, v.1 < 4096) ∧ c.input = some (.mopaComplete c.cur) ∧ c.cur / 32 = c.crew.uid ∧ p.holds.Nodup)
    ∧ 0xFFFFFFFF < 2 ^ 32 :=
  ⟨rfl, rfl, rfl, by decide +kernel, by decide +kernel, by decide +kernel, by decide +kernel, by decide +kernel, by decide +kernel,
   by decide +kernel, ⟨by decide +kernel, by decide +kernel, by decide +kernel, by decide +kernel,
    ⟨by decide +kernel, by decide +kernel, .inl (by decide +kernel), by decide +kernel, rfl, rfl⟩, by decide +kernel, by decide +kernel,
    by decide +kernel, by decide +kernel,
    ⟨by decide +kernel, by decide +kernel, by decide +kernel, by decide +kernel, by decide +kernel, by decide +kernel, by decide +kernel⟩, tilePois_of rfl 7⟩,
   ⟨by decide +kernel, by decide +kernel, elemPois_of rfl 8 4, by decide, cacheSound_of rfl, by decide +kernel, by decide +kernel,
    rows_of (by decide +kernel)⟩,
   ⟨by decide +kernel, ⟨by decide +kernel, by decide +kernel, .inl (by decide +kernel), by decide +kernel, rfl, rfl⟩,
    ⟨by decide +kernel, by decide +kernel, by decide +kernel, by decide +kernel, by decide +kernel, by decide +kernel, by decide +kernel⟩,
    by decide +kernel, rfl⟩,
   ⟨rfl, by decide, rfl, rfl, by decide⟩, by decide⟩

/-- A merge of which nothing is left but what a clause changes. -/
def run0 : MergeRun :=
  { phase := .running, live := true, reuse := false, rd := 5, xb := 1, xl := 2, entries := [], replay := none, coords := [], total := 0, pass := 0,
    upTo := 0, runoff := 0, cap := 0, final := true, toDrain := true, base := 0, width := 4, pairs := [(1, 2)], written := 4095, lastC := none,
    count := 0, stop := none, fls := [0], view := [] }

/-- A hart that holds its core's network and has a merge. -/
def merging (r : MergeRun) : State :=
  { ((vec 64 0x20).onHart fun h => { h with merge := some r, csr := { h.csr with mgstate := 0x8000000000000000 } }) with
    mnet := [(159, { holder := some 32, waiters := [] })] }

/-- Each mask's 32 bytes; staged pairs up to exactly 4,096; a merge that is done; a drain buffer with fewer pairs than VL; a pass that
ends one pair before a checkpoint, and one that reaches it with its last pair; 64 streams. -/
theorem witness_MergeNetwork :
    let s := vec 64 0x20
    let wide := s.onCsr fun c => { c with mgmode := 0x0000000400000000 }
    let g := s.onHart fun h => { h with staged := [(6, { width := 4, pairs := List.replicate 2016 (0, 0) }), (7, { width := 4, pairs := List.replicate 2016 (0, 0) })] }
    let d := s.onHart fun h => { h with drain := some { width := 8, pairs := List.replicate 63 (1, 2) } }
    let started (t : State) (r : MergeRun) : Prop := t.hart.live = true ∧ t.hart.merge = some r ∧ bit t.hart.csr.mgstate 63 = true
      ∧ (t.x 1).toNat % 8 = 0 ∧ (t.x 2).toNat ≤ 16777215 ∧ FMap.find t.crew.core t.mnet = some { holder := some t.cur, waiters := [] }
    (s.crew.core < 160 ∧ CacheRoom s ∧ (16#5) ≠ 0 ∧ ReachesMem s .scalarLd .read (s.x 1) 32 [(0, 32, .mem 0x7000000000)]
        ∧ CleanForCore s [(0, 32, .mem 0x7000000000)])
    ∧ (FMap.find g.crew.core g.mnet = none ∧ mgWidth g = 4 ∧ Named g [(31, 4), (30, 4)] [] ∧ 0 < g.nElems
        ∧ FMap.find 7 g.hart.staged = some { width := 4, pairs := List.replicate 2016 (0, 0) }
        ∧ (g.hart.staged.map fun p => p.2.pairs.length).sum + ((List.range 64).filter fun i => g.active .unmasked i).length = 4096
        ∧ ∀ i, g.elemPois 31 4 i = false ∧ g.elemPois 30 4 i = false)
    ∧ Named wide [(31, 4), (28, 8)] []
    ∧ (started (merging { run0 with phase := .done, pairs := [] }) { run0 with phase := .done, pairs := [] }
        ∧ Quiet (merging { run0 with phase := .done, pairs := [] }))
    ∧ (d.hart.drain = some { width := 8, pairs := List.replicate 63 (1, 2) } ∧ d.vrc = 1 ∧ d.vl = d.mvl ∧ d.hart.vlenb ≤ 2 ^ 15
        ∧ d.groupsOk [(31, 4), (28, 8)] = true ∧ d.groupsMeet (31, 4) (28, 8) = false)
    ∧ (started (merging run0) run0 ∧ run0.phase = .running ∧ run0.toDrain = true ∧ run0.stop = none
        ∧ (merging run0).crew.place = .resident ∧ (merging run0).crew.faulted = false ∧ Quiet (merging run0)
        ∧ 4096 - run0.written % 4096 ≤ run0.pairs.length)
    ∧ (let r := { run0 with written := 4094 }
       started (merging r) r ∧ r.final = true ∧ r.pairs.length < 4096 - r.written % 4096)
    ∧ ((List.replicate 64 [(⟨1, 0, 0⟩ : MPair)]).length ≤ 64 ∧ ((List.replicate 64 [(⟨1, 0, 0⟩ : MPair)]).map (·.length)).sum < 65
        ∧ [(⟨1, 0, 0⟩ : MPair), ⟨4294967295, 0, 0⟩].Pairwise fun p q => p.c < q.c) :=
  ⟨⟨by decide, cacheRoom_of rfl, by decide, reachesMem_of (by decide +kernel), cleanForCore_of (by decide +kernel)⟩,
   ⟨by decide +kernel, by decide +kernel, named_of (by decide +kernel), by decide +kernel, rfl, by decide +kernel,
    fun i => ⟨elemPois_of rfl 31 4 i, elemPois_of rfl 30 4 i⟩⟩,
   named_of (by decide +kernel),
   ⟨⟨rfl, rfl, by decide +kernel, by decide +kernel, by decide +kernel, rfl⟩, rfl⟩,
   ⟨rfl, by decide +kernel, by decide +kernel, by decide +kernel, by decide +kernel, by decide +kernel⟩,
   ⟨⟨rfl, rfl, by decide +kernel, by decide +kernel, by decide +kernel, rfl⟩, rfl, rfl, rfl, rfl, rfl, rfl, by decide⟩,
   ⟨⟨rfl, rfl, by decide +kernel, by decide +kernel, by decide +kernel, rfl⟩, rfl, by decide⟩,
   by decide +kernel, by decide +kernel, by decide⟩

/-- `base` with x5 65,537 bytes into the shared store and x6 two bytes before its page boundary, and a channel 3. -/
def copying (c : CopyChan) : State :=
  (base.onHart fun h => { h with x := (h.x.set 5 0x1FFFF000010001).set 6 0x1FFFF00001FFFE }).onChan 3 fun _ => c

/-- XCOPY of 65,535 bytes to the end of the page, with 63 registrations known; every state XWAIT finds a channel in; a copy that
completes; a page to register beyond the first, and one that is not mapped; a draining stream. -/
theorem witness_CopiesAndStreamWrites :
    let s : State := { copying CopyChan.reset with cregs := List.replicate 63 { slot := 64, chan := 0, die := 0, lo := 0, hi := 1 } }
    let start : CopyChan := { CopyChan.reset with src := (s.x 1).toNat, dst := (s.x 5).toNat, len := xiVal s (.imm 0xFFFF), rows := 1 }
    let owned (s : State) (va len : Nat) : Bool := inWindow va && inWindow (va + len) && decide (s.crew.ssBase ≤ va)
      && decide (va + len ≤ s.crew.ssBase + s.crew.ssSize)
    let run : CopyChan := { CopyChan.reset with st := 1, src := 0x1FFFF000000000, dst := 0x1FFFF00001FFFE, len := 2, rows := 1, regd := 2 }
    let r : State := { copying run with
      cregs := [{ slot := 32, chan := 3, die := 0, lo := 0x700001FFFE, hi := 0x7000020000 }], input := some (.copyComplete 32 3) }
    let page : CopyChan := { run with len := 4, done := 2, regd := 2 }
    let far : CopyChan := { run with dst := 0, regd := 0 }
    let q : Stream := { Stream.reset with st := .draining, pend := [{ va := 0, pa := 0x7000000000, n := 4, v := 1, ins := 0 }] }
    s.hart.conv = none ∧ Quiet s ∧ InOrder s ∧ (∀ h ∈ s.harts, h.2.stq = []) ∧ run.view = [] ∧ run.gran = none ∧ s.hart.olds = []
    ∧ (3 ≤ s.crew.xch ∧ xiVal s (.imm 0xFFFF) < 2 ^ 40 ∧ (chanOf s 3).st ≠ 1 ∧ xiVal s (.imm 0) = 0)
    ∧ (s.crew.core < 160 ∧ CacheSound s ∧ 0 < copyTotal start ∧ copyOverlap start = false ∧ owned s start.dst (copyTotal start) = true
        ∧ start.dst % 2 ^ 17 + copyTotal start = 2 ^ 17 ∧ s.isMem (0x7000000000 + (start.dst - 0x1FFFF000000000)) = true
        ∧ regRoom ((releaseRegs 3 s).onChan 3 fun _ => start) (dieOfRange s (0x7000000000 + (start.dst - 0x1FFFF000000000)) (copyTotal start)) = true)
    ∧ ((chanOf (copying run) 3).st = 1 ∧ ((copying run).x 5).toNat < ((copying run).xwm 3).toNat
        ∧ ((copying run).xwm 3).toNat ≤ ((copying run).x 6).toNat)
    ∧ ((chanOf (copying { run with st := 2, cause := 15 }) 3).reported = false
        ∧ 3 ≤ (chanOf (copying { run with st := 2, cause := 15 }) 3).cause ∧ (chanOf (copying { run with st := 2, cause := 15 }) 3).cause < 16)
    ∧ (r.hart.live = true ∧ r.crew.place = .resident ∧ chanOf r 3 = run ∧ r.crew.core < 160 ∧ CacheSound r ∧ r.hart.olds = []
        ∧ r.input = some (.copyComplete r.cur 3) ∧ owned r run.src run.len = true ∧ owned r run.dst run.len = true
        ∧ (∀ i, i < run.len → r.isMem (0x7000000000 + i) = true)
        ∧ r.cregs = [{ slot := r.cur, chan := 3, die := dieOfRange r 0x700001FFFE 2, lo := 0x700001FFFE, hi := 0x700001FFFE + 2 }]
        ∧ r.poisonedAny 0x7000000000 run.len = false
        ∧ ∀ i, i < run.len → ∀ j, j < run.len → (0x7000000000 + i) / 64 ≠ (0x700001FFFE + j) / 64)
    ∧ (page.done = page.regd ∧ page.done < copyTotal page
        ∧ (match copyReach (copying page) page .write (copyDst page page.done) 1 with | .ok p => decide (p = .mem 0x7000020000) | _ => false) = true
        ∧ regRoom (copying page) (dieOfRange (copying page) 0x7000020000 (pageRoom (copying page) page page.done)) = true)
    ∧ (far.done = far.regd ∧ far.done < copyTotal far
        ∧ (match copyReach (copying far) far .write (copyDst far far.done) 1 with | .error e => decide (e = 2) | _ => false) = true)
    ∧ ((base.setStream 7 q).stream 7 = q ∧ q.st = .draining ∧ (base.setStream 7 q).hart.streamOut 7 = false
        ∧ ∀ e ∈ q.pend, (base.setStream 7 q).place e.pa = .mem e.pa ∧ unfilled (base.setStream 7 q) e.pa e.n = []) :=
  ⟨rfl, rfl, ⟨rfl, rfl, rfl⟩, by decide +kernel, rfl, rfl, rfl, by decide +kernel, ⟨by decide, cacheSound_of rfl, by decide +kernel⟩, by decide +kernel,
   by decide +kernel, ⟨rfl, rfl, rfl, by decide, cacheSound_of rfl, rfl, rfl, by decide +kernel⟩, by decide +kernel, by decide +kernel, by decide +kernel⟩

/-- VADD v31, v0, v1 and VMUL v30, v31, v2, and headers with one slot too few and a reserved bit set, with and without an outer product
in flight. -/
theorem witness_ConvoyRunsItsMembersInOrder :
    let s := vec 64 0x20
    let w1 : BitVec 64 := 0x0000000080003F0F
    let w2 : BitVec 64 := 0x00000C00807C5E0F
    let disjoint (p q : Nat) : Bool := !s.groupsMeet (p, 4) (q, 4)
    (Quiet s ∧ ¬Quiet (s.onHart fun h => { h with pend := [{ tile := 0, vals := [], flags := 0, holds := [] }] }))
    ∧ (headerOk 0x00000065 [w1] = false ∧ headerOk 0x20000869 [w1, w2] = false)
    ∧ (headerOk 0x00000869 [w1, w2] = true ∧ slotUnit 0x00000869 0 = 3 ∧ slotUnit 0x00000869 1 = 4 ∧ fld w1 2 6 = 3 ∧ fld w2 2 6 = 3)
    ∧ decode64 w1 = .ok (.vadd 31 0 (.v 1) .unmasked) ∧ decode64 w2 = .ok (.vmul 30 31 (.v 2) .unmasked)
    ∧ VecReady s [(0, 4), (1, 4), (2, 4), (31, 4), (30, 4)] [] ∧ Clean s .unmasked 0 4 ∧ Clean s .unmasked 1 4 ∧ Clean s .unmasked 2 4
    ∧ ([0, 1, 2, 31].all (disjoint 30)) = true ∧ disjoint 31 2 = true :=
  ⟨⟨rfl, fun h => by cases h⟩, by decide +kernel, by decide +kernel, by rfl, by rfl, ready_of (by decide +kernel), clean_of rfl, clean_of rfl, clean_of rfl,
   by decide +kernel, by decide +kernel⟩

/-- A device that is up, its host link trained, its scheduler enabled, `base`'s crew resident. -/
def up : State :=
  { base with pkg := { Pkg.reset with vaux := true, step := 7, up := true, perst := false, linkUp := true, step7 := some 0 }
              time := 100000
              regs := [(rSCHCFG, 0x8000000000003030), (rPWRCFG, 0x0000000003E80672), (rTENPT 0, 0x8000000000000000),
                       (rIXCFG, 0x8000001111FF0000),
                       (fnKey 0 rW4CFG, 0x8000000000000000)] }

/-- The package at a step of power-on that has just begun, with some rails enabled. -/
def stepping (n en : Nat) : State :=
  { State.reset with pkg := { Pkg.reset with vaux := true, step := n, stepAt := 5000, vrEn := en, perst := false, step7 := some 0 }, time := 5000 }

def onReg (s : State) (k : Nat) (v : Word) : State := s.setReg k v

/-- No image has a version that reaches a minimum beyond 32 bits. -/
theorem bootImage_none {s : State} (h : s.pkg.svnMin = 2 ^ 32) : s.bootImage = none := by
  have f (img : List Byte) : imageOk img (2 ^ 32) = false := by
    have l := ofBytesLE_lt (octets img 8 4)
    have n : (octets img 8 4).length ≤ 4 := by simp only [octets, List.length_take]; exact Nat.min_le_left _ _
    have p : 256 ^ (octets img 8 4).length ≤ 256 ^ 4 := Nat.pow_le_pow_right (by decide) n
    have o : decide (2 ^ 32 ≤ ofBytesLE (octets img 8 4)) = false := decide_eq_false (by omega)
    simp only [imageOk, o, Bool.and_false, Bool.false_and]
  simp only [State.bootImage, h, f, Bool.false_eq_true, if_false]

/-- Every step of power-on with its conditions, rails before the last and at the last; two lost stacks, a failed image and a limit
that has passed; a trained link, and 100 ms without one; configuration requests; rails at power-off; no mailbox command, one that
runs, one that raises the minimum to the image's version, and one from the sideband; a fatal error and the end of its dump. -/
theorem witness_PackageAndMailboxEvents :
    let next (s : State) : Option Nat :=
      (if s.pkg.step = 3 then [0x08, 0x06] else if s.pkg.step = 4 then [0x20, 0x10] else if s.pkg.step = 5 then [0x40, 0x80] else []).find?
        fun r => decide (s.pkg.vrEn &&& r ≠ r)
    let with_ (s : State) (p : Pkg) : State := { s with pkg := p }
    let old : State := { stepping 2 1 with pkg := { (stepping 2 1).pkg with svnMin := 2 ^ 32 } }
    let late : State := { stepping 1 1 with time := 5001 }
    let dead : State := { stepping 7 0xFF with time := 900001 }
    let wait : State := { stepping 7 0xFF with time := 100000 }
    let read : State := { stepping 4 0x3F with gov := { Gov.reset with sample := 1 } }
    let c : MbCmd := { side := false, op := 2, arg := 0, len := 0, value := 64 }
    let mb : State := onReg { up with pkg := { up.pkg with mb := some c } } rMCSTAT 64
    let off (en : Nat) : State := { up with pkg := { up.pkg with vrEn := en } }
    State.reset.pkg.vaux = false
    ∧ (∀ n, n < 8 → (stepping n 1).pkg.vaux = true ∧ (stepping n 1).pkg.stopped = false ∧ (stepping n 1).pkg.off = false
        ∧ (stepping n 1).pkg.up = false ∧ (stepping n 1).pkg.step = n ∧ (stepping n 1).overLimit = false)
    ∧ (next (stepping 3 0x09) = some 0x06 ∧ next (stepping 3 0x0F) = none ∧ next (stepping 4 0x2F) = some 0x10 ∧ next read = none
        ∧ read.stacksValid = true ∧ next (stepping 5 0x7F) = some 0x80 ∧ next (stepping 5 0xFF) = none ∧ 0xFF &&& 0x7F = 0x7F)
    ∧ (((List.range 8).filter fun i => (0x80#8).getLsbD i).length ≤ 1 ∧ 2 ≤ ((List.range 8).filter fun i => (0xC0#8).getLsbD i).length)
    ∧ old.bootImage = none
    ∧ (late.overLimit = true ∧ late.pkg.step ≠ 6 ∧ late.pkg.step ≠ 2)
    ∧ (with_ (stepping 7 0xFF) { (stepping 7 0xFF).pkg with linkUp := true }).pkg.linkUp = true
    ∧ (stepping 7 0xFF).overTotal = false
    ∧ ((with_ (stepping 7 0xFF) { (stepping 7 0xFF).pkg with step7 := none }).pkg.step7 = none ∧ 7 ≤ (stepping 7 0xFF).pkg.step)
    ∧ (wait.pkg.step7 = some 0 ∧ wait.pkg.perst = false ∧ wait.pkg.linkUp = false ∧ 0 + 100000 ≤ wait.time ∧ wait.overTotal = false)
    ∧ (dead.pkg.step = 7 ∧ dead.overTotal = true ∧ dead.pkg.step7 = some 0 ∧ dead.pkg.linkUp = false ∧ 0 + 100000 ≤ dead.time
        ∧ dead.pkg.vrEn < 256 ∧ dead.pkg.vrEn.testBit 0 = true)
    ∧ (up.pkg.linkUp = true ∧ up.pkg.up = true ∧ 15 < 16 ∧ (9#4).toNat ≤ 9
        ∧ ({ up with pkg := { up.pkg with up := false } } : State).pkg.up = false)
    ∧ (up.pkg.vaux = true ∧ up.pkg.off = false ∧ 7 < 8 ∧ (0xFF ||| (off 0x7F).pkg.vrEn) ≠ (off 0x7F).pkg.vrEn
        ∧ (0x7F ||| (off 0x7F).pkg.vrEn) = (off 0x7F).pkg.vrEn
        ∧ [7, 6, 4, 5, 2, 1, 3].find? (fun i => (off 0x7F).pkg.vrEn.testBit i) = some 6
        ∧ (0x01 ||| (off 1).pkg.vrEn) = (off 1).pkg.vrEn ∧ (off 1).pkg.vrEn = 1)
    ∧ (up.pkg.mb = none ∧ up.pkg.vaux = true ∧ up.hostUp = true)
    ∧ (mb.pkg.mb = some c ∧ c.value ≤ 64 ∧ c.value ≤ mb.mcstat 0 32)
    ∧ (({ up with pkg := { up.pkg with mb := some { c with side := true } } } : State).pkg.mb = some { c with side := true } ∧ up.pkg.svnMin < 2 ^ 32)
    ∧ (({ up with pkg := { up.pkg with mb := some { c with op := 1 } } } : State).pkg.mb = some { c with op := 1 })
    ∧ (up.pkg.up = true ∧ bit (up.reg rDUMPSTAT) 62 = false ∧ up.pkg.fatal = false)
    ∧ bit ((onReg up rDUMPSTAT 0x4000000000000000).reg rDUMPSTAT) 62 = true ∧ FMap.getD false 0 up.msixMask = false := by
  have old : State.bootImage { stepping 2 1 with pkg := { (stepping 2 1).pkg with svnMin := 2 ^ 32 } } = none := bootImage_none rfl
  and_intros
  all_goals first | decide +kernel | exact old

/-- A launch of one crew of class 2 in queue 63, with a DONEADD, a vector, a cap and a watchdog. -/
def words0 : List Word := [0x21, 0, 0, 0x0001000100010001, 0x0000000F00000200, 0x0010000000000000, 0, 0x0000180400000000]

def launch0 : Launch :=
  { seq := 0, id := 1, fn := 0, asid := 0, queue := 63, words := words0, st := .ready, waited := true, started := [], ended := [], homes := [],
    dieZero := none, energy := 0, noCap := false, hung := false, held := false, cls := 2, waitedAt := 0, starving := false, claim := [],
    doneTag := none, after := 0 }

/-- A port written whole, packets of port 63, counter 1023, the last page of BAR4, commands on a launch without crews, a faulted crew,
queues with one entry, an entry to read of stack 7, port 5, the last way but one, the last MBDATA; answers to the current hart;
commands, invalidations and flash writes that end. -/
theorem witness_HostEvents :
    let port := onReg up (lpKey 63 0x110) 0x80000000
    let fresh : Launch := { launch0 with st := .queued, waited := false }
    let cmd : State := { up with launches := [(0, { launch0 with hung := true })], crew := { crew0 with launch := 5 } }
    let flt : State := { up with crew := { crew0 with faulted := true } }
    let rec_ : FqRec := { w0 := 1, w1 := 2, w2 := 3, w3 := 4 }
    let que : State := { up with fq := [(0, [rec_])], drops := [7], faq := [(7, [{ type := 2, count := 1, pa := 0, pch := 0, time := 0 }])] }
    let ask : State := base.onHart fun h => { h with asked := [{ tag := 9, key := 0 }] }
    let fin : State := { up with cmds := [{ fn := 0, op := 3, seq := 1, done := false }] }
    let inv : Inval := { host := true, slot := 0, op := 1, tenant := 0, asid := 0, page := 0 }
    let fill : State := { up with cregs := [{ slot := 64, chan := 0, die := 0, lo := 2 ^ 17 - 1, hi := 2 ^ 17 }] }
    up.hostUp = true
    ∧ (63 < 64 ∧ words0.length = 8
        ∧ port.validate 0 63 words0 (decide (port.portOwner 63 = 0) && bit (port.reg (lpKey 63 0x110)) 31 && port.tenEn 0) = 0
        ∧ port.launches = [] ∧ port.unplaceable { fresh with waited := true } = false)
    ∧ (bit (up.reg (fnKey 0 rW4CFG)) 63 = true ∧ 4096 ≤ 4096 ∧ (2 ^ 17 - 4096) % 2 ^ 17 + 4096 ≤ 2 ^ 17 ∧ up.isMem (2 ^ 17 - 4096) = true
        ∧ 2 ^ 17 - 4096 + 4096 ≤ up.bar4Gib 0 * 2 ^ 30 ∧ 2 ^ 17 - 4096 < 2 ^ 39 ∧ up.held = [] ∧ unfilled fill (2 ^ 17 - 4096) 4096 ≠ []
        ∧ up.isMem (2 ^ 17 - 1) = true ∧ unfilled up (2 ^ 17 - 4096) 4096 = [] ∧ up.poisonedAny (2 ^ 17 - 4096) 4096 = false)
    ∧ (1023 < 1024 ∧ up.ctrOwner 1023 = 0 ∧ up.launches = [])
    ∧ (0 < 15 ∧ 15 < 16 ∧ ∀ q ∈ up.launches, q.2.fn = 15)
    ∧ (cmd.hostUp = true ∧ cmd.launches = [(0, { launch0 with hung := true })] ∧ (∀ c ∈ cmd.allCrews, c.launch ≠ 0) ∧ launch0.st ≠ .done
        ∧ bit (cmd.reg (fnKey 0 rSCHRES)) 63 = false)
    ∧ (flt.hart.live = true ∧ flt.crews = [] ∧ flt.crew.faulted = true ∧ flt.crew.place ≠ .ended ∧ flt.crew.tenant = 0
        ∧ flt.cur = slotOf flt.crew.uid flt.hart.idx ∧ flt.hart.idx < flt.crew.hg)
    ∧ (FMap.find 0 que.fq = some [rec_] ∧ que.fqWait = [] ∧ que.drops = [7]
        ∧ FMap.find 7 que.faq = some [{ type := 2, count := 1, pa := 0, pch := 0, time := 0 }])
    ∧ (up.invals.any (·.host) = false)
    ∧ (up.bplBusy = none ∧ up.bpl.length < 8192 ∧ up.bpl.contains 0x2FFFFF = false ∧ (0x2FFFFF#22).toNat * 2 ^ 17 < up.dramBytes)
    ∧ (5 < 6 ∧ bit ((onReg up (rIXPSTAT 5) 4).reg (rIXPSTAT 5)) 2 = true)
    ∧ (7 < 8 ∧ up.locked = [] ∧ up.capLevel < 9 ∧ (0x7FFF#16) ≠ 0xFFFF)
    ∧ (15 < 16 ∧ 16 ≤ 16 ∧ up.pkg.vaux = true ∧ 511 < 512)
    ∧ (ask.hart.live = true ∧ ask.harts = [] ∧ ask.hart.asked = [{ tag := 9, key := 0 }] ∧ ∀ c ∈ ask.hart.cp.toList, c.ask ≠ some 9)
    ∧ (fin.cmds = [{ fn := 0, op := 3, seq := 1, done := false }] ∧ ∀ c ∈ fin.allCrews, c.launch ≠ 1)
    ∧ (({ up with invals := [inv] } : State).invals = [inv] ∧ up.invWaits inv = false)
    ∧ ({ up with bplBusy := some 5 } : State).bplBusy = some 5 := by
  and_intros <;> decide +kernel

/-- A flit of one request with 240 payload bytes and a given CRC. -/
def flitOf (seq : Nat) (crc : BitVec 32) : Flit :=
  { wire := { hdr := { seq, ackseq := 3, nak := true, mclass := 0, vc := false, first := true, last := true, dest := 0, src := 1, core := 0xFF,
                       tenant := 0, hops := 1, nflit := 1, tag := 0 }
              payload := List.replicate 240 0, crc }
    corr := 1, uncorr := 2, msg := some (.transit { mclass := 0, dest := 0, src := 1, tenant := 0, hops := 1, tag := 0 }) }

/-- Port 5 in each state an event asks for; flits with their CRC-32C and with another, in order and not, that acknowledge and ask
again; what makes a port retrain; a message one hop short of the limit; a remote access to the last eight bytes of DRAM, free and
unfilled; a group whose zone is local; an endpoint 15 in each state, with its directory entry. -/
theorem witness_LinkEvents :
    let sent (n : Nat) : TxFlit := { wire := (flitOf n 0).wire, msg := .rails 0 }
    let at_ (st : Nat) (p : Port) : State := { onReg up (rIXPSTAT 5) (BitVec.ofNat 64 (st * 2 ^ 60)) with
      ports := up.ports.set 5 p, time := 100001 }
    let run : Port := { Port.reset with replay := [sent 3, sent 4], ackSeq := 6, replays := List.replicate 17 99001, uncs := [(99001, 65)] }
    let crc := flitCrc (flitOf 7 0).wire.hdr (flitOf 7 0).wire.payload
    let acks := ackFlit run true
    let seqNext (f : Flit) : Nat := (f.wire.hdr.seq + 4096 - run.ackSeq % 4096) % 4096
    let lately (t : Nat) : Bool := decide (100001 ≤ t + 1000)
    let far := up
    let mesh := onReg (at_ 0 Port.reset) rIXCFG 0x8000001111FF0000
    let m : Transit := { mclass := 0, dest := 1, src := 0, tenant := 0, hops := 64, tag := 0 }
    let off := 0x6000000000 - 8
    let req : Input := .remoteRequest { kind := .read, src := 1, tenant := 0, tag := 0, off, width := 8, dat := 0, cmp := 0, hops := 64 }
    let fill : State := { up with cregs := [{ slot := 64, chan := 0, die := 0, lo := off + 7, hi := off + 8 }] }
    let grp := onReg up (rGROUP 65535) 0x8040000000000000
    let l : LqMsg := { chip := 0, dir := true, key := 0, pkey := 9, free := 4, tenant := 0, viaPort := true, tag := 0, hops := 64 }
    let q (e : LqEnd) : State := { up with dir := [{ dir := e.dir, key := 9, crew := 1, q := 15 }], crew := { crew0 with lq := [(15, { e with key := 9 })] } }
    let rcv : LqEnd := { LqEnd.reset with st := .pending, en := true, held := List.replicate 3 (message 6 4 1 1) }
    let snd : LqEnd := { LqEnd.reset with st := .bound, en := true, dir := true, credit := 4 }
    (up.pkg.up = true ∧ (3#2) ≠ 0 ∧ (at_ 3 run).retrainFails 5 = false
      ∧ (∀ st, st = 0 ∨ st = 1 ∨ st = 3 → (at_ st run).portState 5 = st ∧ bit ((at_ st run).reg (rIXPSTAT 5)) 2 = false))
    ∧ ((at_ 2 run).portState 5 = 2 ∧ (at_ 2 run).port 5 = run ∧ run.waiting = [])
    ∧ ((flitOf 7 crc).wire.crc = crc ∧ seqNext (flitOf 7 crc) = 1 ∧ seqNext (flitOf 6 crc) = 0 ∧ seqNext (flitOf 9 crc) = 3
        ∧ (flitOf 7 crc).wire.hdr.nflit ≠ 0 ∧ acks.hdr.nflit = 0 ∧ acks.crc = flitCrc acks.hdr acks.payload
        ∧ (flitOf 7 (crc + 1)).wire.crc ≠ crc ∧ afterAck 3 run.replay = some [sent 4])
    ∧ (16 < (run.replays.filter lately).length ∧ 64 < ((run.uncs.filter fun u => lately u.1).map (·.2)).foldl (· + ·) 0)
    ∧ (let p : Port := { Port.reset with retrainAt := some 0 }
       let r : Port := { Port.reset with retrains := [3, 2, 1] }
       (at_ 3 p).portState 5 = 3 ∧ ((at_ 3 p).port 5).retrainAt = some 0 ∧ 0 + 100000 < (at_ 3 p).time ∧ (at_ 3 p).pkg.fatal = false
        ∧ FMap.getD false 1 (at_ 3 p).msixMask = false ∧ ((at_ 3 r).portState 5 = 3 ∧ 3 ≤ ((at_ 3 r).port 5).retrains.length)
        ∧ (3#2) ≠ 0 ∧ bit ((at_ 3 p).reg (rIXPSTAT 5)) 2 = false)
    ∧ (m.dest ≠ up.chipId ∧ 64 < ({ m with hops := 65, mclass := 2 } : Transit).hops ∧ up.drops.length < 64)
    ∧ (m.dest ≠ mesh.chipId ∧ mesh.pkg.up = true ∧ m.hops ≤ 64 ∧ mesh.faben = true ∧ mesh.route m.dest = some 0
        ∧ mesh.portState 0 ≠ 4)
    ∧ (far.pkg.up = true ∧ far.remoteRefused 0 off 8 64 = none ∧ unfilled far off 8 = [] ∧ far.poisonedAny off 8 = false
        ∧ (∀ x ∈ far.held, staysBehind req x.2 = false) ∧ unfilled fill off 8 ≠ [] ∧ fill.remoteRefused 0 off 8 64 = none)
    ∧ (grp.faben = true ∧ bit (grp.reg (rGROUP 65535)) 63 = true ∧ fld (grp.reg (rGROUP 65535)) 59 4 = 0
        ∧ (∀ p, p < 6 → bit (grp.reg (rGROUP 65535)) (48 + p) = false) ∧ bit (grp.reg (rGROUP 65535)) 54 = true
        ∧ grp.isMem 0xFFFFFF = true ∧ unfilled grp 0xFFFFFF 1 = [] ∧ grp.held = [])
    ∧ ((q rcv).hart.live = true ∧ (l.hops ≤ 64 ∧ (q rcv).faben = true ∧ (q rcv).tenmask l.tenant = true)
        ∧ (q rcv).lqMatch l = some ((q rcv).crew.uid, 15) ∧ ((q rcv).lqEnd 1 15).st = .pending
        ∧ ((q rcv).lqEnd 1 15).pchip = (q rcv).chipId)
    ∧ ((q snd).lqMatch { l with dir := false } = some ((q snd).crew.uid, 15) ∧ ((q snd).lqEnd 1 15).st = .bound
        ∧ ((q snd).lqEnd 1 15).dir = true)
    ∧ ((q rcv).lqHolder false 9 = some ((q rcv).crew.uid, 15) ∧ tileWf { message 6 4 64 64 with key := 9 } = true
        ∧ ((q rcv).lqEnd 1 15).held.length < 4) := by
  refine ⟨⟨rfl, by decide, by decide +kernel, ?_⟩, ?_⟩
  · rintro st (rfl | rfl | rfl) <;> decide +kernel
  · and_intros <;> decide +kernel

theorem mem_upFrom {a n k : Nat} (h : k ∈ upFrom a n) : a ≤ k ∧ k < a + n := by
  induction n generalizing a with
  | zero => cases h
  | succ n ih =>
    cases h with
    | head => omega
    | tail _ h => have := ih h; omega

theorem sensNear_lt (n k : Nat) (h : k ∈ sensNear n) : k < 72 := by
  have mates (hn : n < 64) (hk : k ∈ sensMates n) : k < 72 := by
    have := mem_upFrom (List.mem_filter.mp hk).1
    omega
  unfold sensNear at h
  split at h
  · rename_i hn
    have fused (hk : k ∈ (((Config.sensorNeighbours n).filter (sensMates n).contains).eraseDups.take 6)) : k < 72 := by
      have := (List.mem_filter.mp (List.mem_eraseDups.mp (List.mem_of_mem_take hk))).2
      exact mates hn (by simpa using this)
    dsimp only at h
    split at h
    · exact fused h
    · rcases List.mem_append.mp (List.mem_of_mem_take h) with hk | hk
      · exact fused hk
      · exact mates hn (List.mem_filter.mp hk).1
  · have := (List.mem_filter.mp h).1; simp at this; omega

/-- With every sensor valid neither condition of the safe point holds, whatever neighbours the fuses name. -/
theorem safeCond_none {s : State} (h : ∀ k, k < 72 → s.sensValid k = true) (d : Nat) (hd : d < 2) : s.safeCond d = false := by
  have e : (upFrom (32 * d) 32).filter (fun n => !s.sensValid n) = [] := by
    apply List.filter_eq_nil_iff.mpr
    intro n hn
    have : n < 72 := by
      have hm : d = 0 ∨ d = 1 := by omega
      rcases hm with rfl | rfl <;> revert n <;> decide
    simp [h n this]
  have f (n : Nat) : (!(sensNear n).isEmpty && (sensNear n).all fun k => !s.sensValid k) = false := by
    cases hl : sensNear n with
    | nil => rfl
    | cons a as => simp [h a (sensNear_lt n a (by simp [hl]))]
  show (decide (4 < ((upFrom (32 * d) 32).filter fun n => !s.sensValid n).length) || _) = false
  rw [e]
  simp [f]

/-- The launch of `words0` known, the resident crew one of it or of none. -/
def withLaunch (l : Launch) (c : Crew) : State := { up with launches := [(0, l)], crew := c }

def other : Crew := { crew0 with launch := 5 }

/-- A saved crew of the launch that fits on core 159 only in the place of the resident one, its tenant having no other core. -/
def saved0 : Crew := { crew0 with uid := 2, lanes := 32, hg := 1, accs := 0, place := .saved }

def crowded : State := { onReg (withLaunch launch0 other) (rTENCFG 0) 0x8000FFFF00000001 with crews := [(2, saved0)] }

/-- The same core empty. -/
def freeCore : State := { crowded with hart := { hart0 with live := false } }

/-- A die at its safe point since sample 0, at a power 31% of the cap. -/
def safeS : State := { onReg up rPWRSTAT 0x0008000000000000 with gov := { Gov.reset with sample := 10000, power := Vector.replicate 2 [(496, 0)] } }

/-- Where each event's condition just holds. -/
theorem witness_SchedulerGovernorMemoryEvents :
    let idle := withLaunch launch0 other
    let here (l : Launch) (s : State) : Prop := s.launches = [(l.seq, l)] ∧ (pw l.words 6).toNat = 0 ∧ l.doneTag = none ∧ s.pkg.fatal = false
      ∧ l.seq = 0 ∧ FMap.getD false (l.fn * 128 + pkMsix l.words) s.msixMask = false
    let zero : Launch := { launch0 with words := words0.set 3 0x0001000100010000 }
    let ended : Launch := { launch0 with st := .completing }
    let halted : State := up.onHart fun h => { h with halted := true }
    let leaving : State := withLaunch { launch0 with st := .running } { crew0 with place := .leaving }
    let aged (c w : Nat) : Launch := { launch0 with cls := c, waitedAt := w }
    let hangs : Crew := { crew0 with issued := true, window := 1000 * 2 ^ 14 }
    let spent : Launch := { launch0 with energy := 100000 }
    let power (level a1 a10 : Nat) : State := onReg up rPWRSTAT (nw (level * 2 ^ 59 + a10 * 2 ^ 16 + a1))
    let dl (bad : Bool) : DLine := { data := 0xAB :: List.replicate 63 0, dirty := true :: List.replicate 63 false, by_ := [32], pois := false, bad }
    let vs (k : Nat) : List Crew := if crowded.returnOk saved0 k then crowded.victims (crowded.crewClass saved0) false k else []
    let telemetry : Telemetry := { avg1 := 65536, avg10 := 0, die0 := 0, die1 := 0, dev := 3, core := 9, idle := 2 }
    let last := 0x6000000000 / 64 - 1
    (FMap.find 0 idle.launches = some launch0 ∧ launch0.seq = 0 ∧ idle.isHead launch0 = true ∧ idle.placeable launch0 = true
      ∧ pkClass words0 ≠ 7 ∧ idle.served launch0 = true ∧ pkCosched words0 = false ∧ (idle.choices (idle.openTo launch0) launch0 0)[0]? = some (0, 159)
      ∧ idle.crew.uid < idle.nextUid)
    ∧ (here zero (withLaunch zero other) ∧ zero.st = .ready ∧ zero.held = false ∧ pkInstances zero.words = 0
        ∧ bit ((withLaunch zero other).reg (rTENBUD 0)) 63 = false)
    ∧ (here ended (withLaunch ended other) ∧ ended.st = .completing)
    ∧ (halted.getCrew 1 = some crew0 ∧ crew0.place = .resident ∧ halted.crewDone crew0 = true)
    ∧ (crowded.getCrew 2 = some saved0 ∧ saved0.uid = 2 ∧ saved0.place = .saved
        ∧ (List.range 160).any (crowded.returnable saved0) = false
        ∧ saved0.claim.any (crowded.making saved0.claim.toList (crewNeed saved0)) = false
        ∧ crowded.victimSet (crewNeed saved0) 159 (vs 159) = some [other]
        ∧ (∀ j, j < 160 → (match crowded.victimSet (crewNeed saved0) j (vs j) with
            | some w => victimLt (crowded.victimRank w) (crowded.victimRank [other]) | none => false) = false)
        ∧ crowded.getCrew other.uid = some other ∧ crowded.setOf other = [other] ∧ other.place = .resident)
    ∧ (leaving.getCrew 1 = some { crew0 with place := .leaving } ∧ leaving.lqGone 1 = true
        ∧ leaving.quiet { crew0 with place := .leaving } = true ∧ leaving.ctxRoom { crew0 with place := .leaving } = true
        ∧ leaving.crewDone { crew0 with place := .leaving } = false
        ∧ FMap.find 0 leaving.launches = some { launch0 with st := .running }
        ∧ ∀ p ∈ leaving.crewHarts { crew0 with place := .leaving }, p.2.posted = [])
    ∧ (freeCore.getCrew 2 = some saved0 ∧ freeCore.returnable saved0 159 = true ∧ freeCore.returnsLater saved0 159 = false
        ∧ freeCore.crewClass saved0 ≠ 7 ∧ freeCore.setOf saved0 = [saved0])
    ∧ (up.launches = [] ∧ up.gov.quantumAt + 1000 ≤ up.time)
    ∧ ((withLaunch (aged 6 100000) other).isHead (aged 6 100000) = true ∧ (aged 6 100000).st = .ready
        ∧ 0 < fld ((withLaunch (aged 6 100000) other).reg rAGETHR) (8 * 6) 8
        ∧ 1000 * fld ((withLaunch (aged 6 100000) other).reg rAGETHR) (8 * 6) 8 = 100000
        ∧ (withLaunch (aged 1 100000) other).isHead (aged 1 100000) = true
        ∧ 1000 * fld ((withLaunch (aged 1 100000) other).reg rAGETHR) (8 * 1) 8 = 100000)
    ∧ ((withLaunch launch0 hangs).getCrew 1 = some hangs ∧ 0 < pkWdog words0 ∧ (withLaunch launch0 hangs).setOf hangs = [hangs]
        ∧ 1000 * 2 ^ (pkWdog words0 - 1) = hangs.window)
    ∧ (up.getCrew 1 = some crew0 ∧ up.pkg.vaux = true ∧ 0 < 1 ∧ crew0.place = .resident ∧ crew0.tenant < 16 ∧ up.gov.calibAt + 1000 ≤ up.time
        ∧ up.gov.est = [] ∧ up.gov.left = [] ∧ telemetry.core - telemetry.idle < 2 ^ 64)
    ∧ (15 < 16 ∧ let t : State := { up with time := 1000000 }
       FMap.getD 0 15 t.gov.tenAt + 1000 * fld (t.reg (rTENBUD 15)) 32 16 ≤ t.time)
    ∧ (0 < pkEcap words0 ∧ spent.noCap = false ∧ spent.st ≠ .done
        ∧ pkEcap words0 * 100000 = (withLaunch spent other).launchEnergy spent)
    ∧ ((power 23 1651 0).capLevel < 24 ∧ fld ((power 23 1651 0).reg rPWRCFG) 0 16 < fld ((power 23 1651 0).reg rPWRSTAT) 0 16)
    ∧ (0 < (power 1 0 1600).capLevel
        ∧ fld ((power 1 0 1600).reg rPWRSTAT) 16 16 * 100 < fld ((power 1 0 1600).reg rPWRCFG) 0 16 * 97)
    ∧ (0 < fld ((power 0 0 1021).reg rPWRCFG) 16 16 ∧ (power 0 0 1021).capLevel = 0
        ∧ min (fld ((power 0 0 1021).reg rPWRCFG) 16 16) (fld ((power 0 0 1021).reg rPWRCFG) 0 16) * 102
            < fld ((power 0 0 1021).reg rPWRSTAT) 16 16 * 100
        ∧ (power 0 0 1021).pkg.up = true ∧ (power 0 0 1021).pkg.fatal = false
        ∧ ({ power 0 0 1021 with gov := { Gov.reset with ballast := [.crew 9, .synth 159 0 4] } } : State).liveBallast = [.synth 159 0 4])
    ∧ (up.pkg.vaux = true ∧ (List.replicate 72 (0#16)).length = 72)
    ∧ 10000 ≤ (({ up with gov := { Gov.reset with hist := [(71, { runs := [], stats := [], passed := 10000 })] } } : State).sensHist 71).passed
    ∧ (safeS.safePoint 1 = true ∧ safeS.safeCond 1 = false ∧ safeS.gov.safeLast[1] + 10000 ≤ safeS.gov.sample
        ∧ 3 * fld (safeS.reg rPWRCFG) 0 16 < 10 * ((safeS.diePower 1).head?.map (·.1)).getD 0)
    ∧ (({ safeS with gov := { safeS.gov with critAt := Vector.replicate 2 (some 0) } } : State).gov.critAt[1] = some 0
        ∧ 0 + 10000 ≤ safeS.gov.sample ∧ bit (safeS.reg rDUMPSTAT) 62 = false ∧ safeS.pkg.fatal = false)
    ∧ (last * 64 < up.dramBytes ∧ up.stackOf (last * 64) = 7
        ∧ (let q : List FaqRec := List.replicate 511 { type := 2, count := 1, pa := 0, pch := 0, time := 0 }
           FMap.getD [] 7 ({ up with faq := [(7, q)] } : State).faq = q ∧ q.length < 512 ∧ ∀ r ∈ q, r.pa ≠ last * 64))
    ∧ (159 < 160 ∧ ∀ bad, (base.putDline 159 5 (dl bad)).dline 159 5 = some (dl bad) ∧ (dl bad).data.length = 64 ∧ (dl bad).dirty.length = 64
        ∧ (base.putDline 159 5 (dl bad)).stuck 159 5 = false ∧ (dl bad).dirty.any id = true) := by
  have valid : ∀ k, k < 72 → safeS.sensValid k = true := by decide +kernel
  and_intros
  all_goals first | decide +kernel | exact safeCond_none valid 1 (by decide)

/-! ### One step each, with results of the manual's worked examples or worked out by hand from its rules -/

/-- The state after an instruction. -/
def after (i : Instr) (s : State) : State := match exec i s with | .next t => t | _ => s

/-- Elements 0, 1, … of a group. -/
def put (s : State) (g w : Nat) (vs : List Nat) : State :=
  ((List.range vs.length).zip vs).foldl (fun (s : State) p => s.setElem g w p.1 p.2) s

def get (s : State) (g w n : Nat) : List Nat := (List.range n).map (s.elem g w)

/-- x1 and x2 with two values. -/
def xx (a b : Word) : State := base.onHart fun h => { h with x := (h.x.set 1 a).set 2 b }

/-- R308: wrap, the quotient and remainder of the most negative number by −1, high halves, a shift by 65. -/
theorem test_op :
    (after (.add 5 1 2) (xx (-1) 2)).x 5 = 1 ∧ (after (.div 5 1 2) (xx 0x8000000000000000 (-1))).x 5 = 0x8000000000000000
    ∧ (after (.rem 5 1 2) (xx 0x8000000000000000 (-1))).x 5 = 0 ∧ (after (.mulhu 5 1 2) (xx (-1) (-1))).x 5 = 0xFFFFFFFFFFFFFFFE
    ∧ (after (.mulh 5 1 2) (xx (-1) (-1))).x 5 = 0 ∧ (after (.sra 5 1 2) (xx 0x8000000000000000 65)).x 5 = 0xC000000000000000
    ∧ (after (.div 5 1 2) (xx 7 0)).x 5 = -1 ∧ (after (.remu 5 1 2) (xx 7 0)).x 5 = 7 ∧ (after (.add 0 1 2) (xx 7 1)).x 0 = 0 := by
  decide +kernel

/-- R309: the low words, sign-extended. -/
theorem test_opw :
    (after (.addw 5 1 2) (xx 0xFF7FFFFFFF 1)).x 5 = 0xFFFFFFFF80000000 ∧ (after (.sraw 5 1 2) (xx 0x80000000 33)).x 5 = 0xFFFFFFFFC0000000
    ∧ (after (.srlw 5 1 2) (xx 0xFFFFFFFF80000000 31)).x 5 = 1 := by decide +kernel

/-- Source: the example after R312, 0x12345FFF. -/
theorem test_lih_addi : (after (.addi 5 5 0xFFF) (after (.lih 5 0x12346) base)).x 5 = 0x12345FFF := by decide +kernel

/-- R311: a field up to bit 63, and its place in rd. -/
theorem test_bit_fields :
    (after (.bfx 5 1 60 3) (xx 0xA000000000000005 0)).x 5 = 0xA ∧ (after (.bfi 2 1 60 3) (xx 5 (-1))).x 2 = 0x5FFFFFFFFFFFFFFF
    ∧ (after (.bswap 5 1) (xx 0x0102030405060708 0)).x 5 = 0x0807060504030201 := by decide +kernel

/-- R314, R315: a branch back by 4 bytes, and a link register that is also the base. -/
theorem test_jumps :
    (after (.bne 1 2 0xFFF) (xx 1 0)).pc = 0x1FFFC ∧ (after (.bne 1 2 0xFFF) (xx 1 1)).pc = 0x20004
    ∧ (after (.jlr 1 1 4) (xx 0x100 0)).pc = 0x104 ∧ (after (.jlr 1 1 4) (xx 0x100 0)).x 1 = 0x20004 := by decide +kernel

/-- Sources: R359's example (2^24 + 1 is a tie, to 2^24) and R317 (FCMP eq of a NaN is 0). -/
theorem test_scalar_float :
    (after (.fadd false 5 1 2) (xx 0x4B800000 0x3F800000)).x 5 = 0x4B800000
    ∧ (after (.fadd false 5 1 2) (xx 0x4B800000 0x3F800000)).hart.csr.vflags = 1
    ∧ (after (.fcmp false 0 5 1 2) (xx 0x7FC00000 0x7FC00000)).x 5 = 0 := by decide +kernel

/-- R313, R3: bytes little-endian, sign-extended. -/
theorem test_store_load :
    let s := after (.std 2 1 0) (xx 0x1FFFF000000000 0x1122334455667788)
    (after (.ldb 5 1 0) s).x 5 = 0xFFFFFFFFFFFFFF88 ∧ (after (.ldhz 5 1 1) s).x 5 = 0x6677 ∧ (after (.ldw 5 1 4) s).x 5 = 0x11223344 := by
  decide +kernel

/-- Source: the lock of the example after R322: AMOCAS.D takes it once. -/
theorem test_amocas :
    let s := xx 0x1FFFF000000000 0x77
    let t := after (.amocas true 1 5 1 2) s
    t.x 5 = 0 ∧ t.readHome 0x7000000000 8 = 0x77 ∧ (after (.amocas true 1 0 1 2) (t.setX 2 0x99)).readHome 0x7000000000 8 = 0x77 := by
  decide +kernel

/-- R295 and the maps it names: VRC takes 1 for 0, FRM keeps its value. -/
theorem test_csr :
    (after (.csrw 0x003 0) base).hart.csr.vrc = 1 ∧ (after (.csrw 0x007 1) (xx 5 0)).hart.csr.frm = 0
    ∧ (after (.csrs 0x007 1) (xx 4 0)).hart.csr.frm = 4 := by decide +kernel

/-- Source: the example after R233: a load from an unmapped page under FAULTLOCAL, at 0x10_0000_2040, and the return. -/
theorem test_trap_and_return :
    let s := (base.onCsr fun c => { c with hcap := 1 }).setPc 0x1000002040
    let t := after (.ldd 5 0 0x040) s
    t.hart.csr.tpc = 0x1000002040 ∧ t.hart.csr.tcause = 0x106 ∧ t.hart.csr.tval = 0x40 ∧ t.hart.csr.tstat = 5 ∧ t.pc = 0x40
    ∧ (after .tret t).pc = 0x1000002040 ∧ (after .tret t).hart.csr.tstat = 0 := by decide +kernel

/-- R152: two entries, first in first out. -/
theorem test_queue :
    let s := after (.qsend false 2 2) (after (.qsend false 2 1) (xx 3 4))
    (after (.qrecv false 5 2) s).x 5 = 3 ∧ (after (.qpoll 5 2) s).x 5 = 2 := by decide +kernel

/-- R306 at SEW 8: sums modulo 256, an inactive element kept, the tail zeroed under TAILZ. -/
theorem test_vadd :
    let s := put (put (put (vec 2 0x02) 4 1 [1, 1, 1]) 5 1 [2, 0xFF, 5]) 6 1 [9, 9, 9]
    get (after (.vadd 6 4 (.v 5) (.masked 7)) s) 6 1 3 = [9, 0, 0] := by decide +kernel

/-- Source: R359's example. -/
theorem test_vredsum :
    let s := put (vec 4 0x20) 2 4 [0x4B800000, 0x3F800000, 0x3F800000, 0x3F800000]
    (after (.vredsum true 3 2 (.x 0) .unmasked) s).elem 3 4 0 = 0x4B800001
    ∧ (after (.vredosum 3 2 (.x 0) .unmasked) s).elem 3 4 0 = 0x4B800000 := by decide +kernel

/-- Source: the example after R358: 500.0 and 465.0 to E4M3, saturating and not. -/
theorem test_vfcvt_fp8 :
    let s (vt : Word) := put (vec 2 vt) 4 4 [0x43FA0000, 0x43E88000]
    get (after (.vfcvt 2 4 2 .unmasked) (s 0x08)) 2 1 2 = [0x7E, 0x7E] ∧ (after (.vfcvt 2 4 2 .unmasked) (s 0x08)).hart.csr.vflags = 0x45
    ∧ get (after (.vfcvt 2 4 2 .unmasked) (s 0x00)) 2 1 2 = [0x7F, 0x7F] ∧ (after (.vfcvt 2 4 2 .unmasked) (s 0x00)).hart.csr.vflags = 5 := by
  decide +kernel

/-- Source: the example after R274: the estimate of 1/3 and its refinement. -/
theorem test_vfrec :
    let s := after (.vfrec 5 4 .unmasked) (put (vec 1 0x20) 4 4 [0x40400000])
    s.elem 5 4 0 = 0x3EAAA800 ∧ (after (.vfrecref 6 4 (.v 5) .unmasked) s).elem 6 4 0 = 0x3EAAAAAB := by decide +kernel

/-- Source: the example after R277. -/
theorem test_vtopk_vpivsel :
    let s := put (vec 7 0x20) 4 4 [0x40400000, 0xC0A00000, 0x7FC00000, 0, 0x80000000, 0x40A00000, 0x7FC00000]
    let t (byval : Bool) := after (.vtopk true byval 8 12 4 (.imm 4) .unmasked) s
    get (t false) 12 4 4 = [2, 6, 1, 5] ∧ (t false).hart.csr.vflags = 0x80 ∧ (t false).hart.csr.vl = 4 ∧ get (t true) 12 4 4 = [2, 6, 5, 0]
    ∧ (after (.vpivsel true 5 4 .unmasked) s).x 5 = 2 := by decide +kernel

/-- Source: the example after R366. -/
theorem test_vnzscan_vsegscan :
    let s := ((put (vec 6 0x10) 2 2 [0x0000, 0x4200, 0x8000, 0x7E00, 0x0001, 0x4500]).setMaskBit 2 0 true).setMaskBit 2 3 true
    let t := after (.vnzscan true 3 2 .unmasked) s
    get t 3 2 4 = [1, 3, 4, 5] ∧ t.hart.csr.vl = 4
    ∧ get (after (.vsegscan true 5 2 2 .unmasked) s) 5 2 6 = [0x0000, 0x4200, 0x4200, 0x7E00, 0x7E00, 0x7E00] := by decide +kernel

/-- Source: the example after R215: −1.0 then +1.0 to 2^24 gives 2^24, the other order 2^24 − 1. -/
theorem test_vscatadd :
    let s (a b : Nat) : State := { put (vec 2 0x20) 9 4 [a, b] with mem := [(0x7000000002, 0x80), (0x7000000003, 0x4B)] }
    (after (.vscatadd true 1 8 (.v 9) .unmasked) (s 0xBF800000 0x3F800000)).readHome 0x7000000000 4 = 0x4B800000
    ∧ (after (.vscatadd true 1 8 (.v 9) .unmasked) (s 0x3F800000 0xBF800000)).readHome 0x7000000000 4 = 0x4B7FFFFF := by decide +kernel

/-- R349: fault-only-first two elements before the end of the mapped page. -/
theorem test_vld_ff :
    let s := ((vec 4 0x20).onHart fun h => { h with x := h.x.set 4 0x3FFF8 }).writeHome 0x5FFF8 8 0x0000000700000005
    let t := after (.vld 6 4 0 false true .unmasked) s
    get t 6 4 2 = [5, 7] ∧ t.hart.csr.vl = 2 ∧ t.hart.csr.vstart = 0 ∧ t.pc = 0x20008 := by decide +kernel

/-- Source: the example after R118: at cap level 2 the cap is 4,096 elements, at 3 it is 2,048. -/
theorem test_vsetl_cap :
    let s (level : Nat) : State := onReg ((base.onHart fun h => { h with vlenb := 32768, x := h.x.set 1 10000 }).onCrew fun c => { c with hg := 1, lanes := 32 })
      rPWRSTAT (nw (level * 2 ^ 59))
    (after (.vsetl 5 1 0x020 none) (s 0)).x 5 = 8192 ∧ (after (.vsetl 5 1 0x020 none) (s 2)).x 5 = 4096
    ∧ (after (.vsetl 5 1 0x020 none) (s 3)).hart.csr.vl = 2048 := by decide +kernel

/-- Source: the example after R381. -/
theorem test_mshape :
    let s (vt level : Nat) : State := onReg ((vec 0 (nw vt)).onHart fun h => { h with vlenb := 8192, x := h.x.set 1 0x01004040 })
      rPWRSTAT (nw (level * 2 ^ 59))
    (after (.mshape 1) (s 0x310 0)).hart.csr.mshape = 0x0000004001004040 ∧ (after (.mshape 1) (s 0x010 0)).hart.csr.mshape = 0x0000004000404040
    ∧ (after (.mshape 1) (s 0x310 5)).hart.csr.mshape = 0x0000004001002040 := by decide +kernel

/-- Source: the example after R272: one BF16 outer product of K 2 onto 2^24. -/
theorem test_mopa :
    let s := setTile ((put (put (vec 0 0x11) 0 2 [0x3F80, 0x3F80]) 1 2 [0x3F80, 0x3F80]).onHart fun h =>
      { h with tiles := 1, csr := { h.csr with mshape := 0x0000000100020101, mpred := 0x0101 } }) 0 0 0 0x4B800000
    let t : State := { after (.mopa 0 (.v 0) (.v 1) false none) s with input := some (.mopaComplete 32) }
    t.hart.pend.length = 1 ∧ tileElem (after .mopaComplete t) 0 0 0 = 0x4B800001 := by decide +kernel

/-- Source: the example after R180: the level-0 entry, its chunk's stack, and the fetch that X forbids. -/
theorem test_translation :
    let va := 0x0A23456789ABCD
    let s : State := { base with regs := [(rTENPT 2, 0x8000000000000000)], walks := [⟨2, 5, 3, 0, 0x18000⟩, ⟨2, 5, 2, 0x511, 0x10000⟩, ⟨2, 5, 1, 0x511A2B, 0x8000⟩] }.writeHome (0x8000 + 8 * 0x3C4) 8 0x000000051234002F
    (match s.translate 2 5 false .read va with | .ok pa => decide (pa = 0x051235ABCD) | .error _ => false) = true
    ∧ s.stackOf 0x051235ABCD = 2 ∧ (match s.translate 2 5 false .fetch va with | .error k => decide (k = 3) | .ok _ => false) = true := by
  decide +kernel

/-- Source: the example after R29, in an 8 × 8 × 4 torus: from chip (6,1,0) to (1,6,3) by X+, Y− and Z−, each crossing its dateline. -/
theorem test_route :
    let s (chip : Nat) : State := onReg base rIXCFG (nw (0x8007377000000000 + chip))
    (s 0x016).route 0x361 = some 0 ∧ (s 0x017).route 0x361 = some 0 ∧ (s 0x011).route 0x361 = some 3
    ∧ (s 0x001).route 0x361 = some 3 ∧ (s 0x061).route 0x361 = some 5
    ∧ (s 0x016).datelineHop 0 = false ∧ (s 0x017).datelineHop 0 = true ∧ (s 0x011).datelineHop 3 = false
    ∧ (s 0x001).datelineHop 3 = true ∧ (s 0x061).datelineHop 5 = true := by decide +kernel

/-- Source: the example after R86: 48 instances, and the indices of CREWID 47. -/
theorem test_loop_levels :
    let ws : List Word := [0, 0, 0, 0xC004000240038002, 0, 0, 0, 0]
    pkInstances ws = 48 ∧ pkIndices ws 47 = [1, 2, 1, 3] := by decide +kernel

/-- Source: R144's example, CONVOY LD, FM, ST with the members that the example after R351 gives. -/
theorem test_convoy_words :
    decode [0x00004A2D, 0x85000407, 0x00000000, 0x8010A613, 0x00000800, 0x8580060B, 0x00000000]
      = .ok (.convoy 0x00004A2D [0x0000000085000407, 0x000008008010A613, 0x000000008580060B]) := by rfl

/-- Source: the example after R253: both passes with S = 4, and the one pass with S = 64. -/
theorem test_merge_tree :
    let p (l : List (Nat × Nat)) : List MPair := l.map fun x => ⟨x.1, x.2, 0⟩
    let one := 0x3F800000
    let e0 := p [(3, one), (7, 0x4B800000)]
    let e1 := p [(7, one), (9, one)]
    let e2 := p [(7, one), (12, one)]
    let e3 := p [(1, one), (12, one)]
    let e4 := p [(7, one), (20, one)]
    let e5 := p [(7, 0xCB800000), (30, one)]
    let merged (l : List (List MPair)) : List (Nat × Nat) := (treeGo fp32 20 l).map fun q => (q.c, q.v)
    merged [e0, e1, e2, e3] = [(1, one), (3, one), (7, 0x4B800000), (9, one), (12, 0x40000000)]
    ∧ merged [p [(1, one), (3, one), (7, 0x4B800000), (9, one), (12, 0x40000000)], e4, e5]
        = [(1, one), (3, one), (7, 0), (9, one), (12, 0x40000000), (20, one), (30, one)]
    ∧ merged [e0, e1, e2, e3, e4, e5]
        = [(1, one), (3, one), (7, one), (9, one), (12, 0x40000000), (20, one), (30, one)] := by decide +kernel

/-! ### dxas (12_encoding R298 to R304) -/

/-- The example after R304: the words of the packet it emits, as R64 lists them. -/
theorem test_dxas_launch_words :
    launchWords { entry := 0x1000000000, regs := some (32, 32), harts := 4, accs := 4, loops := [(0, 1, 8)], named := 0 }
      [("PHASE", 1), ("KERNELID", 0x0A2C), ("CLASS", 3), ("ARGS", 0x1000200000), ("LGS", 32), ("SSMEM", 0x100), ("WDOG", 8),
       ("WAITCTR", 17), ("WAITVAL", 2), ("DONECTR", 18), ("DONEADD", 1), ("DONEADDR", 0x1200000040), ("DONEVAL", 1), ("MSIX", 5),
       ("MSIEN", 1)]
      = some [0x000100000A2C0031, 0x0000001000000000, 0x0000001000200000, 0x0001000100014008, 0x0000000801004BC3,
          0x0010480000000811, 0x0000001200000040, 0x0000080500000001] := by decide +kernel

/-- The kernel of that example and a shorter packet, aligned to 64 bytes after a first byte; its LDD and HALT. -/
theorem test_dxas_launch_packet :
    (assemble 0x1000 0x2000 0x3000 [".kernel k", ".regs 32, 32", ".loop 0, SPATIAL_CORE, 8", "LDD x5, [kp+0]", "HALT", ".endk",
      ".rodata", ".byte 7", ".launch CLASS=3, LGS=16"]).map (fun im => (im.text, im.rodata.length, im.rodata.drop 64))
      = some ([0x00003288, 0x002A001C].flatMap (bytesLE 4), 128,
          [0x31, 0x1000, 0, 0x0001000100014008, 0x0B80, 0, 0, 0].flatMap (bytesLE 8)) := by decide +kernel

/-- The convoy of R147 with the words given after R351, the header of R144, and a branch backwards (R286). -/
theorem test_dxas_instructions :
    (assemble 0x1000 0x2000 0x3000 ["loop: CONVOY LD, FM, ST", " VLD v4, [x10]", " vfmul V6, v4, v5", " VST v6, [x11] ; out",
      " AMOCAS.D.ACQ x5, x11, [x10]", " XCOPY 0, x21, x20, 256", " ADDI x5, x6, -4", " BNE x5, zero, loop + 28"]).map (·.text)
      = some ([0x00004A2D, 0x85000407, 0x00000000, 0x8010A613, 0x00000800, 0x8580060B, 0x00000000, 0x3AD6A29A, 0x8AD00057, 0x01000002,
          0xFFC06284, 0xFFC2028C].flatMap (bytesLE 4)) := by decide +kernel

/-- Rejected: a value that does not fit, a unit that a class does not permit, a member that writes what an earlier one reads, a
suffix twice, m0 as governing mask, v9 beyond .regs 8, a second definition, an offset on an AMO, .launch in .text. -/
theorem test_dxas_rejects :
    [["ADDI x1, x2, 2048"], ["CONVOY LD, FM", "VLD v1, [x1]", "VADD v2, v1, v3"],
     ["CONVOY VA, VB", "VADD v1, v2, v3", "VMUL v2, v4, v5"], ["VLD.LU.LU v1, [x1]"],
     ["VADD v1, v2, v3, m0"], [".kernel k", "VADD v9, v1, v1", ".regs 8, 32", ".endk"], [".equ a, 1", ".equ a, 2"],
     ["AMOADD.D x1, x2, [x3+0]"], [".kernel k", ".regs 8, 32", ".endk", ".launch CLASS=1"], [".byte 256"],
     ["ADD x1, x2"]].all
      (fun src => (assemble 0x1000 0x2000 0x3000 src).isNone) = true := by decide +kernel

/-- Precedence and grouping (R299), and decimals rounded to nearest even (R303): 65,519.9 rounds to FP16's largest, 65,520 overflows. -/
theorem test_dxas_values :
    (assemble 0x1000 0x2000 0x3000 [".byte 8/2*4, 8-2+4, 1+2<<1, 1|2&4, 6/2-1, -7/2", ".fp16 65519.9, -inf, nan", ".bf16 0.1"]).map (·.text)
      = some ([16, 10, 6, 1, 2, 0xFD, 0xFF, 0x7B, 0x00, 0xFC, 0x00, 0x7E, 0xCD, 0x3D] : List Byte)
    ∧ assemble 0x1000 0x2000 0x3000 [".fp16 65520"] = none := by decide +kernel

end Sys2Proof.Tests
end

section
/-!
SUPPORT. Proofs of the statements on the scope of the model (00_scope): what holds of it at reset.
-/
namespace Sys2Proof.Proofs.Scope

open Sys2Proof.Machine Sys2Proof.Machine.State Sys2Proof.Safety

/-- A register that no write has overridden reads the reset value of its map (R5). -/
theorem reg_of_find_eq_none {s : State} {k : Nat} (h : FMap.find k s.regs = none) : s.reg k = regReset k := by
  simp only [State.reg, FMap.getD, h, Option.getD_none]

theorem reset_mem : State.reset.mem = [] := rfl

theorem inv_reset : Inv State.reset := ⟨wf_reset, FMap.wf_nil false⟩

theorem reset_reg (k : Nat) : State.reset.reg k = regReset k := reg_of_find_eq_none (FMap.find_nil k)

/-- Settles O9: at reset no byte, no poisoned line and no register override is listed. -/
theorem resetKeepsInvariant : Obligations.ResetKeepsInvariant := by
  unfold Obligations.ResetKeepsInvariant
  exact ⟨inv_reset, reset_reg, reset_mem⟩

end Sys2Proof.Proofs.Scope
end

section
/-!
SUPPORT. Proofs of the statement on the schedule (04_scheduler; 95_what_each_step_holds): executing anything answers a next
state, and so a step stops only at the turn of a hart that is not there.
-/
namespace Sys2Proof.Proofs.Scheduler

open Sys2Proof.Machine

/-- An outcome is a next state: no machine fault and no refusal. -/
def Answers (r : Res) : Prop := ∃ t, r = .next t

theorem answers_next (t : State) : Answers (.next t) := ⟨t, rfl⟩

theorem answers_ite {c : Prop} [Decidable c] {a b : Res} (ha : Answers a) (hb : Answers b) : Answers (if c then a else b) := by
  split
  · exact ha
  · exact hb

/-! ### The shared operations -/

theorem answers_trapHere (c : Cause) (sub : Nat) (tval : Word) (s : State) : Answers (trapHere c sub tval s) := answers_next _

/-- An action that retires and one that ends early both leave a state (R136, R223). -/
theorem answers_runAct (n : Nat) (a : Act Unit) (s : State) : Answers (runAct n a s) := by
  obtain ⟨_, _, h⟩ | ⟨_, _, h⟩ := Laws.runAct_cases n a s
  · exact ⟨_, h⟩
  · exact ⟨_, h⟩

/-- A vector instruction is through, stays at its address (R99) or ends early, in a state each time. -/
theorem answers_runV (o : VOp) (s : State) : Answers (runV o s) := by
  unfold runV
  split
  · exact answers_next _
  · exact answers_next _
  · exact answers_next _

theorem answers_bitField (rd : Reg) (pos width1 : BitVec 6) (v : Word) (s : State) : Answers (bitField rd pos width1 v s) :=
  answers_ite (answers_trapHere ..) (answers_next _)

/-! ### Instructions with cases of their own -/

theorem answers_execVscatacc (f : Bool) (xb vi : Reg) (s1 : VOrX) (m : VMask) (s : State) :
    Answers (execVscatacc f xb vi s1 m s) := by
  obtain ⟨t, h⟩ := answers_runV (vscataccOp f xb vi s1 m s) s
  exact ⟨t.flushPairs, by simp only [execVscatacc, h]⟩

theorem answers_execVlock (md xb vi : Reg) (m : VMask) (s : State) : Answers (execVlock md xb vi m s) := by
  unfold execVlock
  split
  · exact answers_next _
  · split
    · exact answers_next _
    · split
      · exact answers_next _
      · exact answers_next _

/-- A convoy that ends early leaves the state its exit says. -/
theorem answers_endConvoy (s t : State) (e : Exit) : Answers (endConvoy s t e) := by
  unfold endConvoy
  split
  · exact answers_next _
  · exact answers_next _
  · exact answers_next _

theorem answers_convoyEnd (s t : State) (n count : Nat) (ms : List Member) (last : Option Member) :
    Answers (convoyEnd s t n count ms last) := by
  unfold convoyEnd
  dsimp only
  split
  · exact answers_endConvoy ..
  · split
    · split
      · exact answers_next _
      · exact answers_endConvoy ..
    · split
      · exact answers_endConvoy ..
      · split
        · exact answers_next _
        · split
          · split
            · exact answers_next _
            · exact answers_endConvoy ..
          · exact answers_next _
          · split
            · exact answers_endConvoy ..
            · exact answers_endConvoy ..
            · exact answers_endConvoy ..

theorem answers_execConvoy (header : Parcel) (members : List (BitVec 64)) (s : State) :
    Answers (execConvoy header members s) := by
  unfold execConvoy
  dsimp only
  refine answers_ite (answers_endConvoy ..) ?_
  split
  · exact answers_endConvoy ..
  · refine answers_ite (answers_endConvoy ..) ?_
    split
    · exact answers_endConvoy ..
    · split
      · exact answers_endConvoy ..
      · split
        · exact answers_endConvoy ..
        · split
          · exact answers_endConvoy ..
          · refine answers_ite (answers_next _) ?_
            split
            · exact answers_endConvoy ..
            · split
              · exact answers_endConvoy ..
              · exact answers_ite (answers_next _) (answers_convoyEnd ..)
              · split
                · exact answers_endConvoy ..
                · exact answers_endConvoy ..

/-! ### The events of a merge pass -/

theorem answers_takeStop (s : State) : Answers (takeStop s) := by
  unfold takeStop
  split
  · exact answers_ite (answers_runV ..) (answers_next _)
  · exact answers_next _

theorem answers_evMergeCheckpoint (s : State) (core : Nat) : Answers (evMergeCheckpoint s core) := by
  unfold evMergeCheckpoint
  split
  · exact answers_next _
  · split
    · exact answers_next _
    · split
      · exact answers_next _
      · refine answers_ite (answers_next _) ?_
        split
        · exact answers_next _
        · split
          · exact answers_next _
          · exact answers_ite (answers_takeStop _) (answers_next _)

theorem answers_evMergePassEnd (s : State) (core : Nat) : Answers (evMergePassEnd s core) := by
  unfold evMergePassEnd
  split
  · exact answers_next _
  · split
    · exact answers_next _
    · split
      · exact answers_next _
      · refine answers_ite (answers_takeStop _) (answers_ite (answers_next _) ?_)
        split
        · exact answers_next _
        · split
          · exact answers_next _
          · refine answers_ite (answers_takeStop _) (answers_ite (answers_takeStop _) ?_)
            exact answers_ite (answers_runV ..) (answers_next _)

theorem answers_execMergeCheckpoint (s : State) : Answers (execMergeCheckpoint s) := by
  unfold execMergeCheckpoint
  split
  · exact answers_evMergeCheckpoint ..
  · exact answers_next _

theorem answers_execMergePassEnd (s : State) : Answers (execMergePassEnd s) := by
  unfold execMergePassEnd
  split
  · exact answers_evMergePassEnd ..
  · exact answers_next _

theorem answers_execStreamRetire (s : State) : Answers (execStreamRetire s) := by
  unfold execStreamRetire
  split
  · exact answers_next _
  · exact answers_next _

theorem answers_execImpreciseTrap (s : State) : Answers (execImpreciseTrap s) := by
  unfold execImpreciseTrap
  split
  · exact answers_next _
  · exact answers_next _

/-! ### Every instruction and event -/

/-- Executing any instruction or event in any state answers a next state: by the shared operation it comes to, and where it
is none of those named, because it is its next state outright (R292). -/
theorem exec_answers (i : Instr) (s : State) : Answers (exec i s) := by
  cases i with
  | vld | vlds | vldx | vldt | vst | vsts | vstx | vstt | vadd | vsub | vrsub | vmul | vmulh | vdiv | vrem | vmin | vmax
  | vand | vor | vxor | vsll | vsrl | vsra | vsadd | vssub | vnclip | vwmul | vcmp | vmerge | vmv | vbcast | vfadd | vfsub
  | vfmul | vfdiv | vfsqrt | vfmin | vfmax | vfsgn | vfclass | vfcmp | vfma | vfrec | vfrsq | vfrecref | vfrsqref | vfexp2
  | vflog2 | vfcvt | vfcvti | vicvtf | viext | vredsum | vredosum | vredmax | vredmin | vredand | vredor | vmlogic | vpopc
  | vfirst | viota | vslideup | vslidedn | vperm | vcompress | vexpand | vmvxs | vmvsx | vnzscan | vtopk | vsegscan
  | vpivdiv | vpivsel | vamo | vscatadd | vunlock | vsend | vrecv | mten | mtdis | mshape | mpred | mscale | mopa | mops
  | mopag | mzero | mtrd | mtwr | mtld | mtst | mtsend | mtrecv | mgcfg | mgin | mgrun | mgdrain | xcopy | xwait =>
    exact answers_runV ..
  | ldd | ldw | ldwz | ldh | ldhz | ldb | ldbz | std | stw | sth | stb | amoadd | amoand | amoor | amoxor | amomin | amomax
  | amoswap | amocas | amofadd | csrr | csrw | csrs | csrc | halt | pulse | phase | tinv | fence | lsync | ifence | cwb
  | cinv | iinv | qsend | qrecv | qpeek | qpoll | bar | ctrwait | ctradd | launch | vsetl | vdecl | dscfg | dsclr =>
    exact answers_runAct ..
  | bfx | bfi => exact answers_bitField ..
  | jlr | fcmp | fcvt => exact answers_ite (answers_trapHere ..) (answers_next _)
  | tret => exact answers_ite (answers_next _) (answers_next _)
  | vscatacc => exact answers_execVscatacc ..
  | vlock => exact answers_execVlock ..
  | convoy => exact answers_execConvoy ..
  | streamRetire => exact answers_execStreamRetire _
  | mergeCheckpoint => exact answers_execMergeCheckpoint _
  | mergePassEnd => exact answers_execMergePassEnd _
  | impreciseTrap => exact answers_execImpreciseTrap _
  | _ => exact answers_next _

/-! ### The turn that a step takes -/

/-- A turn that executes something or is over. -/
def Continues (w : Turn) : Prop := ∀ f, w ≠ .stop f

theorem continues_run (i : Instr) (s : State) : Continues (.run i s) := nofun
theorem continues_done (s : State) : Continues (.done s) := nofun

theorem continues_decoded (ps : List Parcel) (s : State) : Continues (decoded ps s) := by
  unfold decoded
  dsimp only
  split
  · exact continues_run _ _
  · exact continues_run _ _
  · exact continues_run _ _

/-- The instruction at the program counter executes, unless it waits or the arbiter gives another hart its turn (R95). -/
theorem continues_issue {other : State → Turn} (ho : ∀ t, Continues (other t)) (s : State) : Continues (issue other s) := by
  unfold issue
  dsimp only
  split
  · exact continues_done _
  · exact continues_run _ _
  · split
    · split
      · split
        · exact continues_decoded _ _
        · exact continues_done _
        · split
          · exact ho _
          · exact continues_done _
      · exact continues_decoded _ _
    · exact continues_decoded _ _

theorem continues_turnOf {other : State → Turn} (ho : ∀ t, Continues (other t)) (stop : Option Nat) (s : State) :
    Continues (turnOf other stop s) := by
  unfold turnOf
  dsimp only
  split
  · exact continues_done _
  · split
    · split
      · exact continues_run _ _
      · exact continues_done _
    · exact continues_issue ho _

theorem continues_hartTurn (stop : Option Nat) (s : State) : Continues (hartTurn stop s) :=
  continues_turnOf (continues_turnOf continues_done none) stop s

theorem continues_deliverTurn (s : State) : Continues (deliverTurn s) := by
  unfold deliverTurn
  split
  · exact continues_done _
  · exact continues_run _ _

/-- Where the schedule names nothing, no turn is of an absent hart: it is chosen among those that are there. -/
theorem continues_idleTurn (s : State) : Continues (idleTurn s) := by
  unfold idleTurn
  split
  · exact continues_deliverTurn _
  · split
    · exact continues_done _
    · split
      · exact continues_done _
      · split
        · exact continues_done _
        · split
          · exact continues_hartTurn _ _
          · exact continues_done _

/-- The one move that stops: the turn of a hart that no crew holds (log 2). -/
theorem moveTurn_cases (m : Move) (s : State) :
    Continues (moveTurn m s) ∨ (moveTurn m s = .stop .noSuchHart ∧ ∃ dt slot stop, m = .hart dt slot stop
      ∧ (advanceTime dt s).focus slot = none) := by
  cases m with
  | hart dt slot stop =>
    cases h : (advanceTime dt s).focus slot with
    | none => exact .inr ⟨by simp only [moveTurn, h], dt, slot, stop, rfl, h⟩
    | some t => exact .inl (by simpa only [moveTurn, h] using continues_hartTurn stop t)
  | event dt i => exact .inl (continues_run _ _)
  | deliver dt => exact .inl (continues_deliverTurn _)
  | _ => exact .inl (continues_done _)

/-- A turn that does not stop makes a step that answers a next state. -/
theorem step_answers {s : State} (h : Continues s.turn) : Answers (step s) := by
  unfold step
  split
  · exact exec_answers ..
  · exact answers_next _
  · next f hf => exact absurd hf (h f)

theorem step_of_stop {s : State} {f : Fault} (h : s.turn = .stop f) : step s = .fault f := by
  simp only [step, h]

/-- Settles O8: with no move named a step goes on, and of the moves only the turn of an absent hart stops. -/
theorem onlyAnAbsentHartStopsAStep : Obligations.OnlyAnAbsentHartStopsAStep := by
  unfold Obligations.OnlyAnAbsentHartStopsAStep
  intro s
  cases hm : s.moves with
  | nil =>
    have ht : s.turn = idleTurn s := by simp only [State.turn, hm]
    exact .inl (step_answers (ht ▸ continues_idleTurn s))
  | cons m ms =>
    have ht : s.turn = moveTurn m { s with moves := ms } := by simp only [State.turn, hm]
    obtain hc | ⟨hstop, dt, slot, stop, rfl, hnone⟩ := moveTurn_cases m { s with moves := ms }
    · exact .inl (step_answers (ht ▸ hc))
    · exact .inr ⟨step_of_stop (ht.trans hstop), dt, slot, stop, ms, rfl, hnone⟩

end Sys2Proof.Proofs.Scheduler
end
